-- ==== Sys2Proof/Word.lean ====
section
/-! DEFINITION. The word types of the L9 and the plainest arithmetic on them (R1, R5). -/

namespace Sys2Proof

/-- A byte of any memory. -/
abbrev Byte := BitVec 8

/-- A g register, an address or a status register: 64 bits (R24). -/
abbrev Word := BitVec 64

/-- A v register: 512 bits (R24). -/
abbrev VWord := BitVec 512

/-- The number of a g register. -/
abbrev Reg := BitVec 5

/-- The number of a v or steer register. -/
abbrev Reg4 := BitVec 4

/-- One bit of an instruction word. -/
abbrev Bit := BitVec 1

/-- `bits(x, hi, lo)` of R5 on a natural number, given the low bit and the length. -/
def bitsOf (x lo len : Nat) : Nat := x / 2 ^ lo % 2 ^ len

/-- `sext(x, n)` of R5 as an unbounded integer: bits [n-1:0] of `x` read in two's complement. -/
def sextInt (x n : Nat) : Int :=
  let m := x % 2 ^ n
  if n = 0 then 0 else if m < 2 ^ (n - 1) then (m : Int) else (m : Int) - (2 ^ n : Nat)

/-- `wrap(x, n)` of R5: `x` modulo 2^n, of an unbounded integer. -/
def wrapInt (x : Int) (n : Nat) : Nat := (x % ((2 ^ n : Nat) : Int)).toNat

end Sys2Proof
end

