-- ==== Sys2Proof/Machine/Num.lean ====
section
/-! DEFINITION. Number formats and arithmetic (05_numbers.md): exact values, rounding, flags, aligned sums. -/

namespace Sys2Proof.Machine

/-- The floating-point types of R128. -/
inductive FType where
  | f64 | f32 | f16 | bf16 | e4m3 | e5m2
  deriving DecidableEq, Repr

/-- Width in bits of a floating-point encoding (R128). -/
def FType.width : FType → Nat
  | .f64 => 64 | .f32 => 32 | .f16 => 16 | .bf16 => 16 | .e4m3 => 8 | .e5m2 => 8

/-- Fraction bits m (R128). -/
def FType.frac : FType → Nat
  | .f64 => 52 | .f32 => 23 | .f16 => 10 | .bf16 => 7 | .e4m3 => 3 | .e5m2 => 2

/-- Exponent bits e (R128). -/
def FType.exp (t : FType) : Nat := t.width - 1 - t.frac

/-- Exponent bias (R128). -/
def FType.bias (t : FType) : Int := (2 ^ (t.exp - 1) : Nat) - 1

/-- The exponent of the smallest normal value (R129). -/
def FType.emin (t : FType) : Int := 1 - t.bias

/-- The type has infinities: every type but e4m3 (R128). -/
def FType.hasInf : FType → Bool
  | .e4m3 => false
  | _ => true

/-- The encoding of +infinity, in a type that has it (R129). -/
def FType.infinity (t : FType) : Nat := (2 ^ t.exp - 1) * 2 ^ t.frac

/-- The encoding of the largest finite value (R129). -/
def FType.largest (t : FType) : Nat := if t.hasInf then t.infinity - 1 else t.infinity + 6

/-- The canonical NaN (R129, R130). -/
def FType.nan (t : FType) : Nat := if t.hasInf then t.infinity + 2 ^ (t.frac - 1) else 2 ^ (t.width - 1) - 1

/-- A decoded value: NaN, an infinity, or (−1)^neg × m × 2^e. -/
inductive Val where
  | nan
  | inf (neg : Bool)
  | fin (neg : Bool) (m : Nat) (e : Int)
  deriving DecidableEq, Repr

/-- `decode(e, t)` of R129. -/
def decodeF (t : FType) (x : Nat) : Val :=
  let s := x / 2 ^ (t.width - 1) % 2 == 1
  let e := x / 2 ^ t.frac % 2 ^ t.exp
  let m := x % 2 ^ t.frac
  if e = 0 then .fin s m (t.emin - t.frac)
  else if e = 2 ^ t.exp - 1 ∧ t.hasInf then if m = 0 then .inf s else .nan
  else if e = 2 ^ t.exp - 1 ∧ m = 2 ^ t.frac - 1 then .nan
  else .fin s (2 ^ t.frac + m) (e - t.bias - t.frac)

/-- The flags of SR_FPMODE that an operation raises (R134). -/
structure FFlags where
  nv : Bool := false
  dz : Bool := false
  o : Bool := false
  u : Bool := false
  nx : Bool := false
  deriving DecidableEq, Repr

/-- Both operations' flags. -/
def FFlags.or (a b : FFlags) : FFlags :=
  ⟨a.nv || b.nv, a.dz || b.dz, a.o || b.o, a.u || b.u, a.nx || b.nx⟩

/-- The flags as bits [7:3] of SR_FPMODE (R132). -/
def FFlags.bits (f : FFlags) : Word :=
  BitVec.ofNat 64 (8 * f.nv.toNat + 16 * f.dz.toNat + 32 * f.o.toNat + 64 * f.u.toNat + 128 * f.nx.toNat)

/-- An exact real (−1)^neg × (m + δ) × 2^e with 0 < δ < 1 when `sticky`, δ = 0 otherwise. With `sticky`, m has
more bits than any precision it is rounded to. -/
structure Exact where
  neg : Bool
  m : Nat
  e : Int
  sticky : Bool := false
  deriving DecidableEq, Repr

/-- 2 to a natural number, as a shift. -/
def pow2 (n : Nat) : Nat := Nat.shiftLeft 1 n

/-- Number of bits of a natural number. -/
def bitLen (n : Nat) : Nat := if n = 0 then 0 else Nat.log2 n + 1

/-- floor(log2 |x|) of a nonzero exact value. -/
def Exact.log2 (x : Exact) : Int := x.e + (bitLen x.m : Int) - 1

/-- Whether the exact value is zero. -/
def Exact.isZero (x : Exact) : Bool := x.m == 0 && !x.sticky

/-- Round the magnitude to a multiple of 2^q under a mode of R131: the multiple and whether it is inexact. -/
def Exact.roundAt (x : Exact) (mode : Nat) (q : Int) : Nat × Bool :=
  if q ≤ x.e then (x.m * pow2 (x.e - q).toNat, x.sticky)
  else
    let sh := (q - x.e).toNat
    let k := x.m / pow2 sh
    let r := x.m % pow2 sh
    let half := pow2 (sh - 1)
    let inexact := r != 0 || x.sticky
    let up := match mode with
      | 0 => half < r || (r == half && (x.sticky || k % 2 == 1))
      | 2 => x.neg && inexact
      | 3 => !x.neg && inexact
      | _ => false
    (if up then k + 1 else k, inexact)

/-- The encoding of (−1)^neg × k × 2^q, a value the type holds. -/
def encodeF (t : FType) (neg : Bool) (k : Nat) (q : Int) : Nat :=
  let s := if neg then pow2 (t.width - 1) else 0
  if k = 0 then s
  else
    let e := q + (bitLen k : Int) - 1
    let base := t.emin - t.frac
    if e < t.emin then s + k * pow2 (q - base).toNat
    else
      let u := e - t.frac
      let sig := if u ≤ q then k * pow2 (q - u).toNat else k / pow2 (u - q).toNat
      s + (e + t.bias).toNat * pow2 t.frac + (sig - pow2 t.frac)

/-- What an overflow gives (R131). -/
def overflowF (t : FType) (mode : Nat) (sat neg : Bool) : Nat :=
  let s := if neg then pow2 (t.width - 1) else 0
  if sat then s + t.largest
  else if !t.hasInf then t.nan
  else match mode with
    | 0 => s + t.infinity
    | 1 => s + t.largest
    | 2 => s + (if neg then t.infinity else t.largest)
    | _ => s + (if neg then t.largest else t.infinity)

/-- The magnitude k × 2^q exceeds the largest finite value of the type. -/
def exceeds (t : FType) (k : Nat) (q : Int) : Bool :=
  match decodeF t t.largest with
  | .fin _ m e => if q ≤ e then m * pow2 (e - q).toNat < k else m < k * pow2 (q - e).toNat
  | _ => false

/-- The tininess value lies below the smallest normal value: the exact result rounded to the type's precision
with the exponent range unbounded below (R133, R134). -/
def Exact.tiny (x : Exact) (t : FType) (mode : Nat) : Bool :=
  if x.isZero then false
  else
    let q := x.log2 - t.frac
    let k := (x.roundAt mode q).1
    decide (q + (bitLen k : Int) - 1 < t.emin)

/-- `round(x, t, mode)` of R131 with the flags of R134; `ftz` flushes as R133 states for f32. -/
def Exact.round (x : Exact) (t : FType) (mode : Nat) (sat : Bool := false) (ftz : Bool := false) : Nat × FFlags :=
  if x.isZero then (if x.neg then pow2 (t.width - 1) else 0, {})
  else
    let tiny := x.tiny t mode
    if ftz && tiny && t == .f32 then (if x.neg then pow2 (t.width - 1) else 0, { u := true, nx := true })
    else
      let q := max (x.log2 - t.frac) (t.emin - t.frac)
      let (k, inexact) := x.roundAt mode q
      if exceeds t k q then (overflowF t mode sat x.neg, { o := true, nx := true })
      else (encodeF t x.neg k q, { u := inexact && tiny, nx := inexact })

/-- The exact value of a finite decoded value. -/
def Val.exact : Val → Exact
  | .fin s m e => ⟨s, m, e, false⟩
  | _ => ⟨false, 0, 0, false⟩

/-- The value is a zero. -/
def Val.isZero : Val → Bool
  | .fin _ m _ => m == 0
  | _ => false

/-- The sign of a value; a NaN has none. -/
def Val.neg : Val → Bool
  | .nan => false
  | .inf s => s
  | .fin s _ _ => s

/-- The value with its sign turned. -/
def Val.negate : Val → Val
  | .nan => .nan
  | .inf s => .inf (!s)
  | .fin s m e => .fin (!s) m e

/-- The magnitude. -/
def Val.abs : Val → Val
  | .nan => .nan
  | .inf _ => .inf false
  | .fin _ m e => .fin false m e

/-- A signed multiple of 2^e as an exact value; `zeroNeg` is the sign of a zero. -/
def exactOfInt (k : Int) (e : Int) (zeroNeg : Bool) : Exact :=
  if k = 0 then ⟨zeroNeg, 0, 0, false⟩ else ⟨decide (k < 0), k.natAbs, e, false⟩

/-- m × 2^e with its sign, as a multiple of 2^q for q ≤ e. -/
def scaled (neg : Bool) (m : Nat) (e q : Int) : Int :=
  let k : Int := (m * pow2 (e - q).toNat : Nat)
  if neg then -k else k

/-- The exact sum of two finite values; a zero sum of opposite signs is −0 under mode 2 only. -/
def addExact (sa : Bool) (ma : Nat) (ea : Int) (sb : Bool) (mb : Nat) (eb : Int) (mode : Nat) : Exact :=
  let q := min ea eb
  exactOfInt (scaled sa ma ea q + scaled sb mb eb q) q (if sa == sb then sa else mode == 2)

/-- The outcome of an exact operation: NaN with its flag, an infinity, or an exact value. -/
inductive Res where
  | nan (nv : Bool)
  | inf (neg : Bool) (dz : Bool)
  | ex (x : Exact)
  deriving DecidableEq, Repr

/-- Sum (R133, R134). -/
def addVal (a b : Val) (mode : Nat) : Res :=
  match a, b with
  | .nan, _ => .nan false
  | _, .nan => .nan false
  | .inf s, .inf u => if s == u then .inf s false else .nan true
  | .inf s, .fin _ _ _ => .inf s false
  | .fin _ _ _, .inf s => .inf s false
  | .fin sa ma ea, .fin sb mb eb => .ex (addExact sa ma ea sb mb eb mode)

/-- Product (R133, R134). -/
def mulVal (a b : Val) : Res :=
  match a, b with
  | .nan, _ => .nan false
  | _, .nan => .nan false
  | .inf s, .inf u => .inf (s != u) false
  | .inf s, .fin u m _ => if m = 0 then .nan true else .inf (s != u) false
  | .fin u m _, .inf s => if m = 0 then .nan true else .inf (s != u) false
  | .fin sa ma ea, .fin sb mb eb => .ex ⟨sa != sb, ma * mb, ea + eb, false⟩

/-- a × b + c, exactly (R133). -/
def fmaVal (a b c : Val) (mode : Nat) : Res :=
  match mulVal a b with
  | .nan nv => .nan nv
  | .inf s _ =>
    match c with
    | .nan => .nan false
    | .inf u => if s == u then .inf s false else .nan true
    | .fin _ _ _ => .inf s false
  | .ex p =>
    match c with
    | .nan => .nan false
    | .inf u => .inf u false
    | .fin sc mc ec => .ex (addExact p.neg p.m p.e sc mc ec mode)

/-- An exact quotient of magnitudes with 70 bits or more. -/
def quotient (neg : Bool) (ma : Nat) (ea : Int) (mb : Nat) (eb : Int) : Exact :=
  let s := 70 + bitLen mb
  let n := ma * pow2 s
  ⟨neg, n / mb, ea - eb - s, n % mb != 0⟩

/-- Quotient (R133, R134). -/
def divVal (a b : Val) : Res :=
  match a, b with
  | .nan, _ => .nan false
  | _, .nan => .nan false
  | .inf _, .inf _ => .nan true
  | .inf s, .fin u _ _ => .inf (s != u) false
  | .fin u _ _, .inf s => .ex ⟨s != u, 0, 0, false⟩
  | .fin sa ma ea, .fin sb mb eb =>
    if mb = 0 then if ma = 0 then .nan true else .inf (sa != sb) true
    else .ex (if ma = 0 then ⟨sa != sb, 0, 0, false⟩ else quotient (sa != sb) ma ea mb eb)

/-- The integer square root, bit by bit: the largest r below 2^n, built on `r`, with r × r ≤ x. -/
def isqrtBits (x : Nat) : Nat → Nat → Nat
  | 0, r => r
  | n + 1, r => if (r + pow2 n) * (r + pow2 n) ≤ x then isqrtBits x n (r + pow2 n) else isqrtBits x n r

/-- floor of the square root. -/
def isqrt (x : Nat) : Nat := isqrtBits x (bitLen x / 2 + 1) 0

/-- The exact square root of m × 2^e with 70 bits or more. -/
def sqrtExact (m : Nat) (e : Int) : Exact :=
  let s : Nat := 142 + (if (e - 142) % 2 = 0 then 0 else 1)
  let n := m * pow2 s
  let r := isqrt n
  ⟨false, r, (e - s) / 2, r * r != n⟩

/-- Square root (R134): of a value below −0 it is invalid. -/
def sqrtVal : Val → Res
  | .nan => .nan false
  | .inf s => if s then .nan true else .inf false false
  | .fin s m e => if m = 0 then .ex ⟨s, 0, 0, false⟩ else if s then .nan true else .ex (sqrtExact m e)

/-- The encoding and the flags of an outcome, rounded once (R133, R134). -/
def Res.round (r : Res) (t : FType) (mode : Nat) (sat : Bool := false) (ftz : Bool := false) : Nat × FFlags :=
  match r with
  | .nan nv => (t.nan, { nv := nv })
  | .inf s dz => ((if s then pow2 (t.width - 1) else 0) + t.infinity, { dz := dz })
  | .ex x => x.round t mode sat ftz

/-- The outcome as a value, rounded to nearest to a type (`round_rne`). -/
def Res.rne (r : Res) (t : FType) : Nat := (r.round t 0).1

/-- The order of two magnitudes m × 2^e. -/
def compareMag (ma : Nat) (ea : Int) (mb : Nat) (eb : Int) : Ordering :=
  let q := min ea eb
  compare (ma * pow2 (ea - q).toNat) (mb * pow2 (eb - q).toNat)

/-- The order of two values that are not NaN; both zeros are equal. -/
def compareVal (a b : Val) : Ordering :=
  match a, b with
  | .nan, _ => .eq
  | _, .nan => .eq
  | .inf s, .inf u => if s == u then .eq else if s then .lt else .gt
  | .inf s, .fin _ _ _ => if s then .lt else .gt
  | .fin _ _ _, .inf s => if s then .gt else .lt
  | .fin sa ma ea, .fin sb mb eb =>
    if ma = 0 ∧ mb = 0 then .eq
    else if ma = 0 then (if sb then .gt else .lt)
    else if mb = 0 then (if sa then .lt else .gt)
    else if sa != sb then (if sa then .lt else .gt)
    else if sa then (compareMag ma ea mb eb).swap else compareMag ma ea mb eb

/-- An f32 subnormal operand is read as a zero of its sign when FTZ is 1 (R133). -/
def flushVal (t : FType) (ftz : Bool) (v : Val) : Val :=
  match v with
  | .fin s m e => if ftz && t == .f32 && decide (m < pow2 23) && e == -149 then .fin s 0 e else v
  | _ => v

/-- The conversion of a value between floating-point types (R135). -/
def convertF (v : Val) (t : FType) (mode : Nat) (sat : Bool) (ftz : Bool := false) : Nat × FFlags :=
  match v with
  | .nan => (t.nan, {})
  | .inf s =>
    if t.hasInf then ((if s then pow2 (t.width - 1) else 0) + t.infinity, {})
    else (if sat then (if s then pow2 (t.width - 1) else 0) + t.largest else t.nan, { nv := true })
  | .fin s m e => Exact.round ⟨s, m, e, false⟩ t mode sat ftz

/-- The integer nearest to an exact value under a mode, and whether it is inexact (R136). -/
def Exact.toInt (x : Exact) (mode : Nat) : Int × Bool :=
  let (k, i) := x.roundAt mode 0
  (if x.neg then -(k : Int) else k, i)

/-- The least and the greatest value of an n-bit integer type. -/
def intMin (signed : Bool) (n : Nat) : Int := if signed then -(2 ^ (n - 1) : Nat) else 0
def intMax (signed : Bool) (n : Nat) : Int := if signed then (2 ^ (n - 1) : Nat) - 1 else (2 ^ n : Nat) - 1

/-- sat_s and sat_z of R5. -/
def satInt (signed : Bool) (n : Nat) (k : Int) : Int := max (intMin signed n) (min (intMax signed n) k)

/-- The conversion of a value to an n-bit integer (R136): the pattern and the flags. -/
def convertToInt (v : Val) (signed : Bool) (n : Nat) (mode : Nat) (sat : Bool) : Nat × FFlags :=
  match v with
  | .nan => (0, { nv := true })
  | .inf s => (if sat then wrapInt (if s then intMin signed n else intMax signed n) n else 0, { nv := true })
  | .fin s m e =>
    let (k, i) := Exact.toInt ⟨s, m, e, false⟩ mode
    if intMin signed n ≤ k ∧ k ≤ intMax signed n then (wrapInt k n, { nx := i })
    else (wrapInt (if sat then satInt signed n k else k) n, { nv := true, nx := i })

/-- The conversion of an integer to a floating-point type (R137). -/
def convertFromInt (k : Int) (t : FType) (mode : Nat) (sat : Bool := false) : Nat × FFlags :=
  (exactOfInt k 0 false).round t mode sat

/-- floor(log2) of the largest nonzero addend (R6 step 2). -/
def maxLog : List Val → Option Int
  | [] => none
  | .fin _ m e :: vs =>
    if m = 0 then maxLog vs
    else
      let l := e + (bitLen m : Int) - 1
      match maxLog vs with
      | none => some l
      | some k => some (max l k)
  | _ :: vs => maxLog vs

/-- The sum of the addends truncated to multiples of 2^q (R6 steps 3 and 4), in units of 2^q. -/
def truncSum (q : Int) : List Val → Int
  | [] => 0
  | .fin s m e :: vs =>
    let k : Int := if q ≤ e then ((m * pow2 (e - q).toNat : Nat) : Int) else ((m / pow2 (q - e).toNat : Nat) : Int)
    (if s then -k else k) + truncSum q vs
  | _ :: vs => truncSum q vs

/-- `aligned_sum` of R6 before its rounding. The sum of no addends is −0: every one of them is a zero with
negative sign. DEDUCED, log entry 12. -/
def alignedSumRes (vs : List Val) : Res :=
  if vs.any (· == .nan) || (vs.any (· == .inf true) && vs.any (· == .inf false)) then .nan false
  else if vs.any (· == .inf true) then .inf true false
  else if vs.any (· == .inf false) then .inf false false
  else match maxLog vs with
    | none => .ex ⟨vs.all Val.neg, 0, 0, false⟩
    | some e => .ex (exactOfInt (truncSum (e - 56) vs) (e - 56) false)

/-- `aligned_sum(list)` of R6, an f32 encoding. -/
def alignedSum (vs : List Val) : Nat := (alignedSumRes vs).rne .f32

/-- The value of a product of two operand elements in the matrix unit (R145): zero times infinity is NaN. -/
def prodVal (a b : Val) : Val :=
  match mulVal a b with
  | .nan _ => .nan
  | .inf s _ => .inf s
  | .ex x => .fin x.neg x.m x.e

/-- An f32 encoding as a value. -/
def val32 (x : Nat) : Val := decodeF .f32 x

end Sys2Proof.Machine
end

