-- ==== Sys2Proof/Machine/Fn.lean ====
section
/-! DEFINITION. The correctly rounded functions of R154 and R155, in fixed point with error far below any
rounding boundary they meet, and HASH (R156). -/

namespace Sys2Proof.Machine

/-- floor(ln 2 × 2^352). -/
def ln2Fixed : Nat := 0xB17217F7D1CF79ABC9E3B39803F2F6AF40F343267298B62D8A0D175B8BAAFA2BE7B876206DEBAC98559552FB

/-- floor(π × 2^1024). -/
def piFixed : Nat := 0x3243F6A8885A308D313198A2E03707344A4093822299F31D0082EFA98EC4E6C89452821E638D01377BE5466CF34E90C6CC0AC29B7C97C50DD3F84D5B5B54709179216D5D98979FB1BD1310BA698DFB5AC2FFD72DBD01ADFB7B8E1AFED6A267E96BA7C9045F12C7F9924A19947B3916CF70801F2E2858EFC16636920D871574E69

/-- The Taylor sum of exp(y) in units of 2^-p: `term` is y^k / k!, added for `fuel` further terms. -/
def expTerms (p y : Nat) : Nat → Nat → Nat → Nat → Nat
  | 0, _, _, sum => sum
  | fuel + 1, k, term, sum => expTerms p y fuel (k + 1) (term * y / pow2 p / k) (sum + term)

/-- 2^x as an exact value with at least 340 bits; exact when x is an integer (R154). -/
def exp2Exact (x : Exact) : Exact :=
  if x.isZero then ⟨false, 1, 0, false⟩
  else if 12 < x.log2 then (if x.neg then ⟨false, pow2 80, -5000, true⟩ else ⟨false, 1, 5000, false⟩)
  else
    let k : Int := scaled x.neg x.m (max x.e (-352)) (-352)
    let n : Int := k / (pow2 352 : Nat)
    let f : Nat := (k % (pow2 352 : Nat)).toNat
    if f = 0 then ⟨false, 1, n, false⟩
    else
      let y := f * ln2Fixed / pow2 352
      ⟨false, expTerms 352 y 90 1 (pow2 352) 0, n - 352, true⟩

/-- 2^x (R154). -/
def exp2Val : Val → Res
  | .nan => .nan false
  | .inf s => if s then .ex ⟨false, 0, 0, false⟩ else .inf false false
  | .fin s m e => .ex (exp2Exact ⟨s, m, e, false⟩)

/-- 1 / x (R154). -/
def recipVal (v : Val) : Res := divVal (.fin false 1 0) v

/-- 1 / √(m × 2^e) with 100 bits or more, for m above 0. -/
def rsqrtExact (m : Nat) (e : Int) : Exact :=
  let (m, e) := if e % 2 = 0 then (m, e) else (2 * m, e - 1)
  let k := 100 + bitLen m
  let r := isqrt (pow2 (2 * k) / m)
  ⟨false, r, -(e / 2) - k, r * r * m != pow2 (2 * k)⟩

/-- 1 / √x with the special operands of R154. -/
def rsqrtVal : Val → Res
  | .nan => .nan false
  | .inf s => if s then .nan true else .ex ⟨false, 0, 0, false⟩
  | .fin s m e => if m = 0 then .inf s true else if s then .nan true else .ex (rsqrtExact m e)

/-- The alternating Taylor sum in units of 2^-p: `term` is multiplied by y² / (k (k + 1)) each time. -/
def altTerms (p y2 : Nat) : Nat → Nat → Nat → Bool → Int → Int
  | 0, _, _, _, sum => sum
  | fuel + 1, k, term, minus, sum =>
    altTerms p y2 fuel (k + 2) (term * y2 / pow2 p / (k * (k + 1))) (!minus) (if minus then sum - term else sum + term)

/-- sin and cos of y in units of 2^-p, for y within [0, 1]. -/
def sinCosFixed (p y : Nat) : Int × Int :=
  let y2 := y * y / pow2 p
  (altTerms p y2 110 2 y false 0, altTerms p y2 110 1 (pow2 p) false 0)

/-- sin θ and cos θ of θ = m × 2^e above 0, in units of 2^-800 (R155). The angle is reduced by multiples of
π / 2 to [−π/4, π/4] with the 1,024 bits of π kept above. -/
def sinCosPos (m : Nat) (e : Int) : Int × Int :=
  let t : Nat := if 0 ≤ e + 1024 then m * pow2 (e + 1024).toNat else m / pow2 (-(e + 1024)).toNat
  let k := (2 * t + piFixed / 2) / piFixed
  let r : Int := (2 * (t : Int) - (k : Int) * (piFixed : Nat)) / (pow2 225 : Nat)
  let (s0, c0) := sinCosFixed 800 r.natAbs
  let s := if r < 0 then -s0 else s0
  match k % 4 with
  | 0 => (s, c0)
  | 1 => (c0, -s)
  | 2 => (-s, -c0)
  | _ => (-c0, s)

/-- sin θ and cos θ of a finite θ as exact values: exact only at 0 (R155). -/
def sinCosExact (neg : Bool) (m : Nat) (e : Int) : Exact × Exact :=
  if m = 0 then (⟨false, 0, 0, false⟩, ⟨false, 1, 0, false⟩)
  else
    let (s, c) := sinCosPos m e
    (⟨decide (s < 0) != neg, s.natAbs, -800, true⟩, ⟨decide (c < 0), c.natAbs, -800, true⟩)

/-- `sin_rne` and `cos_rne` of R155, f32 encodings. -/
def sinCosRne : Val → Nat × Nat
  | .fin s m e =>
    let (a, b) := sinCosExact s m e
    ((a.round .f32 0).1, (b.round .f32 0).1)
  | _ => (FType.f32.nan, FType.f32.nan)

/-- Rotation left within 64 bits. -/
def rotl64 (x : Word) (n : Nat) : Word := x.rotateLeft n

/-- `hash64` of R156. -/
def hash64 (x : Word) : Word :=
  let h := x * 0xD6E8FEB86659FD93
  let h := h ^^^ rotl64 h 23 ^^^ rotl64 h 41
  let h := h * 0x9FB21C651E98DF25
  h ^^^ (h >>> 29)

end Sys2Proof.Machine
end

