-- ==== Sys2Proof/Machine/Events.lean ====
section
/-! DEFINITION. The data that the event rows of the opcode table carry: engine contexts, packets, flits, host
requests. An event's arguments hold what the spec leaves to the agent that causes it. -/

namespace Sys2Proof

/-- The engine contexts of R224. A cluster is named by its module-wide number 256 * d + c. -/
inductive EngineRef where
  | copy (cl channel : Nat)
  | gather (cl : Nat)
  | merge (cl : Nat)
  | matrix (cl : Nat)
  | nma (channel : Nat)
  deriving DecidableEq, Repr

/-- What a routing table gives for a destination: the permitted adaptive output links and the escape link (R285). -/
structure Route where
  adaptive : List Nat
  escape : Nat
  deriving DecidableEq, Repr

/-- The routing table of a die's routers: by destination die, and by destination MODID (R285). -/
structure DieTable where
  dies : List (Nat × Route) := []
  modules : List (Nat × Route) := []
  deriving DecidableEq, Repr

/-- The routing tables of a version, by die, or in the route master's plan by router: 64 times the MODID, plus the die. -/
abbrev Tables := List (Nat × DieTable)

/-- What a CTL packet says (R286, R295, R296). Its body has no layout in the spec. -/
inductive Control where
  /-- A link has died: the report of its routers to the route master. -/
  | linkDead (link : Nat)
  /-- The table of a version, for a die's routers to install, and their acknowledgement. -/
  | tables (version : Byte) (table : DieTable)
  | installed (version : Byte) (router : Nat)
  /-- FLIP, and the acknowledgement of a flip. -/
  | flip (version : Byte)
  | flipped (version : Byte) (router : Nat)
  /-- The version before this one is freed. -/
  | free (version : Byte)
  /-- A time packet, with its sender's count. -/
  | time (count : Nat)
  | stagger (job epoch t0 interval : Nat)
  deriving DecidableEq, Repr

/-- What a request packet asks its target to do beside moving bytes (R276, R292). -/
inductive PacketWork where
  /-- No further work (WR, responses). -/
  | plain
  /-- An engine's write: with set-full, only the granules it covers whole become FULL (R79). -/
  | bulk
  /-- A remote load with its q field (R105). -/
  | load (q : Nat)
  /-- AMOL with op and width (R339). -/
  | atomic (op : Nat) (wide : Bool) (operand : Word)
  /-- The decrement of a join counter (R380). -/
  | join
  /-- BARA's arrival, or a command's (R348). -/
  | arrive
  /-- BARI's initialisation (R349). -/
  | barrierInit (count : Nat)
  /-- BARW's read of PHASE; one that is issued again after a resumption brings the phase that it found (R350). -/
  | barrierWait (found : Option Nat)
  /-- A BARW that has been counted at its target and waits there for a phase other than this one. -/
  | barrierHeld (phase : Nat)
  /-- BARW's wait is over: the phase after the update that ended it. -/
  | barrierDone (phase : Nat)
  /-- A command's addition of bytes to a barrier, and its subtraction (R120, R232, R348). -/
  | barrierAdd (bytes : Nat)
  | barrierSub (bytes : Nat)
  /-- CAS, CPIN, CUNPIN and CFLUSH at a home L2 on another die (R67). -/
  | cas (wide : Bool) (expected new : Word)
  | pin | unpin | flush
  /-- A pip's read of a home L2 on another die (R68, R98). -/
  | fill
  /-- A read or write at a home L2 for an agent of the module itself: a walk, a fetch, a page unit, a window (R66, R251). -/
  | own
  /-- A recall of update-only lines (R70, R279), and the merge of one at a home L2 on another die. -/
  | recall | merge
  /-- A command's seal of the pod that a handle names in another module, and one that is under way there (R234). -/
  | seal (handle : BitVec 16)
  | sealHeld (pod : Nat)
  | control (what : Control)
  deriving DecidableEq, Repr

/-- A packet: the header of R275 and what its body says (R276). Fabric addresses are those of R274. -/
structure Packet where
  kind : Byte
  ver : Byte
  rver : Byte
  setFull : Bool
  crossesDie : Bool
  seq : BitVec 16
  src : Word
  dst : Word
  addr : Word
  /-- LEN: the size of a read, or the number of bytes of the body. -/
  len : Fin 1537
  body : List Byte
  work : PacketWork
  /-- The job on whose behalf the access is made (R73). -/
  job : Nat
  /-- The launch of a migrating pip, for MIG (R48). -/
  launch : BitVec 32
  /-- The packet being forwarded came from this origin (FWD, R279); otherwise the source again. -/
  origin : Word
  deriving DecidableEq, Repr

/-- What a packet's target needs to know that the header of R275 has no field for. -/
structure PacketTag where
  work : PacketWork
  job : Nat
  launch : BitVec 32
  origin : Word
  deriving DecidableEq, Repr

/-- A flit or a beat (R272). A flit's 256 bytes, or the up to 128 bytes of packet pieces of a beat; of a beat also its
sideband: the slot returns, the two link fields, and whether its check passes, which the spec does not lay out. `channel` is
the virtual channel whose slot it takes, in the order of R272, and none for an idle one. A packet that ends in it is named by
its number within the module, or, through a port, by what its header does not hold. -/
structure Flit where
  raw : List Byte
  returns : List Nat := []
  seq : Nat := 0
  ack : Nat := 0
  beatOk : Bool := true
  channel : Option Nat := none
  ends : Option Nat := none
  tag : Option PacketTag := none
  deriving DecidableEq, Repr

/-- A memory window as the control node opens it (R321). -/
structure WindowSpec where
  readable : Bool
  writable : Bool
  /-- Length in pages of 64 KiB. -/
  pages : Nat
  physical : Bool
  asid : BitVec 16
  base : Word
  deriving DecidableEq, Repr

/-- The power states of R328. -/
inductive PowerState where
  | p0 | p1 | p2 | p3 | p4
  deriving DecidableEq, Repr

/-- The lifecycle states of R323, in the order in which they can be entered. -/
inductive Lifecycle where
  | manufacture | provisioned | secured | returned
  deriving DecidableEq, Repr

/-- The debug levels of R324. -/
inductive DebugLevel where
  | off | observe | intrusive
  deriving DecidableEq, Repr

/-- A debug token (R325). -/
structure DebugToken where
  serial : Nat
  lifecycle : Lifecycle
  level : DebugLevel
  expiry : Nat
  nonce : List Byte
  signature : List Byte
  deriving DecidableEq, Repr

/-- What INTRUSIVE debug can halt (R324): a pip by its slot key, or a cluster's matrix unit. -/
inductive DebugUnit where
  | pip (slot : Nat)
  | matrix (cl : Nat)
  deriving DecidableEq, Repr

/-- Halting, stepping and letting run (R324). -/
inductive DebugAction where
  | halt | step | resume
  deriving DecidableEq, Repr

/-- A debug access to memory through the management channel (R324). -/
inductive DebugAccess where
  | readPhysical (addr count : Nat)
  | writePhysical (addr : Nat) (data : List Byte)
  | readScratch (cl offset count : Nat)
  | writeScratch (cl offset : Nat) (data : List Byte)
  /-- The code memory of a matrix unit (R184, R194), by the slot of a program. -/
  | readCode (cl slot offset count : Nat)
  | writeCode (cl slot offset : Nat) (data : List Byte)
  deriving DecidableEq, Repr

/-- Sensor readings against the limits of R330: mV, mA, thousandths of a degree, mL per minute, mbar. -/
structure LimitReading where
  busbarVoltage : Nat
  busbarCurrent : Nat
  inletTemperature : Nat
  coolantFlow : Nat
  pressureDrop : Nat
  deriving DecidableEq, Repr

/-- A firmware image with its signature and, in SECURED, the owner's countersignature (R323, R325). -/
structure FirmwareImage where
  bytes : List Byte
  signature : List Byte
  countersignature : List Byte
  deriving DecidableEq, Repr

/-- What one start meets and what firmware chooses during it (R326): the steps that fail with their codes, and the step during which
the start is cut off; the images of step 3; of step 11 the base of the address-space table, the save areas and the firmware's own
memory; the lanes that a port comes up with in step 12, where they are not 8; and what steps 14 and 15 receive. -/
structure StartPlan where
  failures : List (Nat × Byte)
  cutOff : Option Nat
  image : FirmwareImage
  backup : FirmwareImage
  astBase : Nat
  saveBase : Nat
  saveSize : Nat
  firmwareBase : Nat
  firmwareSize : Nat
  lanes : List (Nat × Nat)
  modid : BitVec 20
  routeMaster : BitVec 20
  neighbours : List (Nat × Nat)
  tables : Tables
  timeReference : Nat
  deriving DecidableEq, Repr

end Sys2Proof
end

