-- ==== Sys2Proof/Syntax.lean ====
section
/-! DEFINITION. The rows of spec/opcode_table.json, one constructor each. A row with a word carries its
fields under the table's names, each in the table's width; a row without one (an event of
95_what_each_step_holds.md) carries the choice of the agent that causes it. -/

namespace Sys2Proof

/-- The instructions and events of the L9. Field names are the table's: `w` width, `x` and `y` the
sync-read bits sa and sb, `d`, `a`, `b` register fields, `e` a steer register, `t` a type. -/
inductive Instr where
  /-- NOP (R170). Does nothing and takes one issue slot of the pip. -/
  | nop
  /-- ADD (R335). Integer addition of two registers, wrapped to 64 or 32 bits. -/
  | add (w : Bit) (y : Bit) (x : Bit) (b : Reg) (a : Reg) (d : Reg)
  /-- SUB (R427). Integer subtraction of two registers, wrapped. -/
  | sub (w : Bit) (y : Bit) (x : Bit) (b : Reg) (a : Reg) (d : Reg)
  /-- MUL (R401). Low half of the integer product of two registers. -/
  | mul (w : Bit) (y : Bit) (x : Bit) (b : Reg) (a : Reg) (d : Reg)
  /-- MULH (R402). High half of the signed integer product. -/
  | mulh (w : Bit) (y : Bit) (x : Bit) (b : Reg) (a : Reg) (d : Reg)
  /-- MULH_Z (R402). High half of the unsigned integer product. -/
  | mulhZ (w : Bit) (y : Bit) (x : Bit) (b : Reg) (a : Reg) (d : Reg)
  /-- DIV (R364). Signed integer division with defined results for zero divisor and overflow; full-bit class. -/
  | div (w : Bit) (y : Bit) (x : Bit) (b : Reg) (a : Reg) (d : Reg)
  /-- DIV_Z (R364). Unsigned integer division; full-bit class. -/
  | divZ (w : Bit) (y : Bit) (x : Bit) (b : Reg) (a : Reg) (d : Reg)
  /-- REM (R417). Signed integer remainder matching DIV; full-bit class. -/
  | rem (w : Bit) (y : Bit) (x : Bit) (b : Reg) (a : Reg) (d : Reg)
  /-- REM_Z (R417). Unsigned integer remainder matching DIV.z; full-bit class. -/
  | remZ (w : Bit) (y : Bit) (x : Bit) (b : Reg) (a : Reg) (d : Reg)
  /-- AND (R341). Bitwise AND of two registers. -/
  | and (w : Bit) (y : Bit) (x : Bit) (b : Reg) (a : Reg) (d : Reg)
  /-- OR (R390). Bitwise OR of two registers. -/
  | or (w : Bit) (y : Bit) (x : Bit) (b : Reg) (a : Reg) (d : Reg)
  /-- XOR (R448). Bitwise exclusive OR of two registers. -/
  | xor (w : Bit) (y : Bit) (x : Bit) (b : Reg) (a : Reg) (d : Reg)
  /-- SHL (R419). Shift left by a register amount. -/
  | shl (w : Bit) (y : Bit) (x : Bit) (b : Reg) (a : Reg) (d : Reg)
  /-- SHR (R419). Logical shift right by a register amount. -/
  | shr (w : Bit) (y : Bit) (x : Bit) (b : Reg) (a : Reg) (d : Reg)
  /-- SRA (R419). Arithmetic shift right by a register amount. -/
  | sra (w : Bit) (y : Bit) (x : Bit) (b : Reg) (a : Reg) (d : Reg)
  /-- ROT (R419). Rotate left by a register amount. -/
  | rot (w : Bit) (y : Bit) (x : Bit) (b : Reg) (a : Reg) (d : Reg)
  /-- MIN (R390). Signed minimum of two registers. -/
  | min (w : Bit) (y : Bit) (x : Bit) (b : Reg) (a : Reg) (d : Reg)
  /-- MIN_Z (R390). Unsigned minimum of two registers. -/
  | minZ (w : Bit) (y : Bit) (x : Bit) (b : Reg) (a : Reg) (d : Reg)
  /-- MAX (R390). Signed maximum of two registers. -/
  | max (w : Bit) (y : Bit) (x : Bit) (b : Reg) (a : Reg) (d : Reg)
  /-- MAX_Z (R390). Unsigned maximum of two registers. -/
  | maxZ (w : Bit) (y : Bit) (x : Bit) (b : Reg) (a : Reg) (d : Reg)
  /-- CLZ (R358). Counts leading zero bits. -/
  | clz (w : Bit) (x : Bit) (a : Reg) (d : Reg)
  /-- CTZ (R362). Counts trailing zero bits. -/
  | ctz (w : Bit) (x : Bit) (a : Reg) (d : Reg)
  /-- POPC (R390). Counts one bits. -/
  | popc (w : Bit) (x : Bit) (a : Reg) (d : Reg)
  /-- EXT (R368). Sign or zero extension from 8, 16 or 32 bits selected by the B field. -/
  | ext (x : Bit) (k : Reg) (a : Reg) (d : Reg)
  /-- HASH (R157). Mixes two 64-bit values with hash64 after rotating the first. -/
  | hash (w : Bit) (y : Bit) (x : Bit) (b : Reg) (a : Reg) (d : Reg)
  /-- SEL (R422). Selects one of two registers by the C bit of a steer register. -/
  | sel (w : Bit) (y : Bit) (x : Bit) (n : Reg4) (b : Reg) (a : Reg) (d : Reg)
  /-- ADD_I (R335). Integer addition of a sign-extended immediate. -/
  | addI (w : Bit) (x : Bit) (i : BitVec 12) (a : Reg) (d : Reg)
  /-- AND_I (R341). Bitwise AND with a sign-extended immediate. -/
  | andI (w : Bit) (x : Bit) (i : BitVec 12) (a : Reg) (d : Reg)
  /-- OR_I (R390). Bitwise OR with a sign-extended immediate. -/
  | orI (w : Bit) (x : Bit) (i : BitVec 12) (a : Reg) (d : Reg)
  /-- XOR_I (R448). Bitwise exclusive OR with a sign-extended immediate. -/
  | xorI (w : Bit) (x : Bit) (i : BitVec 12) (a : Reg) (d : Reg)
  /-- SHL_I (R419). Shift left by an immediate amount. -/
  | shlI (w : Bit) (x : Bit) (i : BitVec 12) (a : Reg) (d : Reg)
  /-- SHR_I (R419). Logical shift right by an immediate amount. -/
  | shrI (w : Bit) (x : Bit) (i : BitVec 12) (a : Reg) (d : Reg)
  /-- SRA_I (R419). Arithmetic shift right by an immediate amount. -/
  | sraI (w : Bit) (x : Bit) (i : BitVec 12) (a : Reg) (d : Reg)
  /-- ROT_I (R419). Rotate left by an immediate amount. -/
  | rotI (w : Bit) (x : Bit) (i : BitVec 12) (a : Reg) (d : Reg)
  /-- MUL_I (R401). Low half of the product with a sign-extended immediate. -/
  | mulI (w : Bit) (x : Bit) (i : BitVec 12) (a : Reg) (d : Reg)
  /-- BFX (R353). Extracts a bit field, zero-extended. -/
  | bfx (x : Bit) (l : BitVec 6) (p : BitVec 6) (a : Reg) (d : Reg)
  /-- BFI (R352). Inserts a bit field into the destination register. -/
  | bfi (x : Bit) (l : BitVec 6) (p : BitVec 6) (a : Reg) (d : Reg)
  /-- LI (R163). Loads a sign-extended 20-bit constant. -/
  | li (i : BitVec 20) (d : Reg)
  /-- LIH (R388). Replaces one halfword of a register with a 16-bit constant. -/
  | lih (h : BitVec 2) (i : BitVec 16) (d : Reg)
  /-- CMP (R359). Integer compare of two registers into a steer register's C bit. -/
  | cmp (c : BitVec 3) (b : Reg) (a : Reg) (e : Reg4)
  /-- CMP_I (R359). Integer compare of a register with an immediate into a steer register's C bit. -/
  | cmpI (c : BitVec 3) (i : BitVec 12) (a : Reg) (e : Reg4)
  /-- FCMP (R371). Floating-point compare into a steer register's C bit. -/
  | fcmp (c : BitVec 3) (f : Bit) (b : Reg) (a : Reg) (e : Reg4)
  /-- PREP (R37). Writes a PC-relative branch target into a steer register and starts fetch there. -/
  | prep (i : BitVec 20) (e : Reg4)
  /-- PREPR (R37). Writes a register-relative branch target into a steer register and starts fetch there. -/
  | prepr (i : BitVec 12) (a : Reg) (e : Reg4)
  /-- BR (R38). Branches through a steer register, conditionally or always. -/
  | br (k : BitVec 2) (e : Reg4)
  /-- CALL (R355). Calls through a steer register, saving the return address in g1. -/
  | call (e : Reg4)
  /-- RET (R418). Returns to the address in g1. -/
  | ret
  /-- FADD (R369). Floating-point addition, rounded by RM. -/
  | fadd (w : Bit) (y : Bit) (x : Bit) (b : Reg) (a : Reg) (d : Reg)
  /-- FSUB (R369). Floating-point subtraction, rounded by RM. -/
  | fsub (w : Bit) (y : Bit) (x : Bit) (b : Reg) (a : Reg) (d : Reg)
  /-- FMUL (R369). Floating-point multiplication, rounded by RM. -/
  | fmul (w : Bit) (y : Bit) (x : Bit) (b : Reg) (a : Reg) (d : Reg)
  /-- FDIV (R369). Floating-point division; full-bit class. -/
  | fdiv (w : Bit) (y : Bit) (x : Bit) (b : Reg) (a : Reg) (d : Reg)
  /-- FSQRT (R369). Floating-point square root; full-bit class. -/
  | fsqrt (w : Bit) (x : Bit) (a : Reg) (d : Reg)
  /-- FMIN (R376). Floating-point minimum without rounding. -/
  | fmin (w : Bit) (y : Bit) (x : Bit) (b : Reg) (a : Reg) (d : Reg)
  /-- FMAX (R376). Floating-point maximum without rounding. -/
  | fmax (w : Bit) (y : Bit) (x : Bit) (b : Reg) (a : Reg) (d : Reg)
  /-- FCVT (R373). Converts between f32 or f64 and another scalar type. -/
  | fcvt (w : Bit) (x : Bit) (s : Bit) (r : Bit) (t : BitVec 3) (a : Reg) (d : Reg)
  /-- FFMA (R375). Fused multiply-add with one rounding. -/
  | ffma (w : Bit) (y : Bit) (x : Bit) (c : Reg) (b : Reg) (a : Reg) (d : Reg)
  /-- LD (R384). Loads 1 to 8 bytes from global space, optionally as an acquire. -/
  | ld (x : Bit) (o : Bit) (s : BitVec 2) (c : BitVec 3) (i : Byte) (a : Reg) (t : Reg)
  /-- ST (R424). Stores 1 to 8 bytes to global space, optionally as a release. -/
  | st (x : Bit) (o : Bit) (s : BitVec 2) (c : BitVec 3) (i : Byte) (a : Reg) (t : Reg)
  /-- LDV (R384). Loads 64 bytes from global space into a v register. -/
  | ldv (x : Bit) (o : Bit) (c : BitVec 3) (i : Byte) (a : Reg) (v : Reg4)
  /-- STV (R424). Stores 64 bytes from a v register to global space. -/
  | stv (x : Bit) (o : Bit) (c : BitVec 3) (i : Byte) (a : Reg) (v : Reg4)
  /-- LDVX (R386). Loads vector lanes from global space by index. -/
  | ldvx (x : Bit) (o : Bit) (s : Bit) (c : BitVec 3) (j : Reg4) (a : Reg) (v : Reg4)
  /-- STVX (R426). Stores vector lanes to global space by index. -/
  | stvx (x : Bit) (o : Bit) (s : Bit) (c : BitVec 3) (j : Reg4) (a : Reg) (v : Reg4)
  /-- AMO (R338). Atomic read-modify-write in global space. -/
  | amo (w : Bit) (r : Bit) (q : Bit) (c : BitVec 3) (o : Reg4) (b : Reg) (a : Reg) (d : Reg)
  /-- CAS (R356). Compare and swap in global space. -/
  | cas (w : Bit) (r : Bit) (q : Bit) (c : BitVec 3) (b : Reg) (a : Reg) (d : Reg)
  /-- RED (R415). Commutative update of global memory buffered in an update-only L1 line. -/
  | red (w : Bit) (y : Bit) (x : Bit) (o : Reg4) (b : Reg) (a : Reg)
  /-- FENCE (R109). Orders the pip's accesses by kind at a scope. -/
  | fence (k : BitVec 2) (c : BitVec 3)
  /-- MARK (R103). Realigns the pip's load and store queues. -/
  | mark
  /-- PREF (R408). Prefetches a line toward the core. -/
  | pref (x : Bit) (i : Byte) (a : Reg) (h : Reg)
  /-- CPIN (R361). Pins the home L2 line of an address and reports the outcome. -/
  | cpin (x : Bit) (i : Byte) (a : Reg) (d : Reg)
  /-- CUNPIN (R363). Releases a pin held by the launch. -/
  | cunpin (x : Bit) (i : Byte) (a : Reg)
  /-- CFLUSH (R357). Writes a cache line back to HBM4E. -/
  | cflush (x : Bit) (i : Byte) (a : Reg)
  /-- LDL (R385). Loads from local space with wait-full, clear or acquire variants; may migrate the pip. -/
  | ldl (x : Bit) (j : Bit) (s : BitVec 2) (q : BitVec 3) (i : Byte) (a : Reg) (t : Reg)
  /-- STL (R425). Stores to local space, optionally setting granules full and as a release. -/
  | stl (x : Bit) (j : Bit) (s : BitVec 2) (q : BitVec 3) (i : Byte) (a : Reg) (t : Reg)
  /-- LDLV (R385). Loads 64 bytes from local space into a v register. -/
  | ldlv (x : Bit) (j : Bit) (q : BitVec 3) (i : Byte) (a : Reg) (v : Reg4)
  /-- STLV (R425). Stores 64 bytes from a v register to local space. -/
  | stlv (x : Bit) (j : Bit) (q : BitVec 3) (i : Byte) (a : Reg) (v : Reg4)
  /-- AMOL (R339). Atomic read-modify-write in local space. -/
  | amol (w : Bit) (r : Bit) (q : Bit) (c : BitVec 3) (o : Reg4) (b : Reg) (a : Reg) (d : Reg)
  /-- POPEN (R86). Opens a pod from a template, returning a handle or a status. -/
  | popen (y : Bit) (x : Bit) (b : Reg) (a : Reg) (d : Reg)
  /-- SEAL (R93). Seals a pod explicitly, with its seal point at issue. -/
  | seal (x : Bit) (a : Reg) (d : Reg)
  /-- PSTAT (R411). Reads one word of a pod descriptor. -/
  | pstat (x : Bit) (w : BitVec 2) (a : Reg) (d : Reg)
  /-- PFREE (R404). Frees a pod, closing its granules. -/
  | pfree (x : Bit) (a : Reg) (d : Reg)
  /-- PRESET (R96). Sets a run of plain-region granules EMPTY. -/
  | preset (y : Bit) (x : Bit) (b : Reg) (a : Reg)
  /-- BARI (R349). Initialises a barrier granule. -/
  | bari (y : Bit) (x : Bit) (b : Reg) (a : Reg)
  /-- BARA (R348). Arrives at a barrier as a release. -/
  | bara (x : Bit) (a : Reg)
  /-- BARW (R350). Reads a barrier's phase and waits for it to change. -/
  | barw (a : Reg) (d : Reg)
  /-- WAITGE (R447). Waits until an engine timeline reaches a value, then acquires. -/
  | waitge (m : Reg4) (c : BitVec 3) (n : BitVec 3) (b : Reg) (a : Reg) (d : Reg)
  /-- SENDR (R34). Writes a value into a g register of another pip of the cluster. -/
  | sendr (y : Bit) (x : Bit) (b : Reg) (a : Reg) (d : Reg)
  /-- FORK (R41). Pushes a task on the core's deque and counts it on a join counter. -/
  | fork (a : Reg) (e : Reg4)
  /-- JOIN (R42). Decrements a join counter atomically and continues only at zero. -/
  | join (a : Reg)
  /-- LAUNCH (R56). Submits a child launch record from scratchpad. -/
  | launch (a : Reg) (d : Reg)
  /-- COPY (R360). Copies an affine box through a copy channel. -/
  | copy (n : BitVec 3) (a : Reg) (d : Reg)
  /-- MCAST (R392). Copies one box to several clusters of the issuer's gang. -/
  | mcast (n : BitVec 3) (a : Reg) (d : Reg)
  /-- GATHER_LIST (R378). Gathers rows chosen by an index list. -/
  | gatherList (a : Reg) (d : Reg)
  /-- GATHER_SPR (R378). Gathers a dense vector into an array parallel to SPR values. -/
  | gatherSpr (a : Reg) (d : Reg)
  /-- SCATTER_LIST (R420). Scatters rows to positions chosen by an index list. -/
  | scatterList (a : Reg) (d : Reg)
  /-- SCATTER_SPR (R420). Spreads an SPR matrix into dense rows. -/
  | scatterSpr (a : Reg) (d : Reg)
  /-- MERGE_M0 (R240). Merges two sorted streams, summing the values of every key. -/
  | mergeM0 (a : Reg) (d : Reg)
  /-- MERGE_M1 (R240). Merges two sorted streams, keeping the first entry of every key. -/
  | mergeM1 (a : Reg) (d : Reg)
  /-- MERGE_M2 (R240). Intersects two sorted streams, multiplying the combined values. -/
  | mergeM2 (a : Reg) (d : Reg)
  /-- MERGE_M3 (R240). Outputs the keys of A that are not in B. -/
  | mergeM3 (a : Reg) (d : Reg)
  /-- MTASK (R197). Declares a matrix task in the dependency table. -/
  | mtask (a : Reg) (d : Reg)
  /-- MLOAD (R396). Loads and validates a matrix program into a code-memory slot. -/
  | mload (a : Reg) (d : Reg)
  /-- TINV_RANGE (R428). Invalidates the translations of one ASID in a virtual range. -/
  | tinvRange (c : BitVec 3) (a : Reg) (d : Reg)
  /-- TINV_ASID (R428). Invalidates every translation of one ASID. -/
  | tinvAsid (c : BitVec 3) (a : Reg) (d : Reg)
  /-- TINV_ALL (R428). Invalidates every translation of every ASID. -/
  | tinvAll (c : BitVec 3) (a : Reg) (d : Reg)
  /-- PGALLOC (R255). Allocates a key-value page from the set, optionally cloning another. -/
  | pgalloc (a : Reg) (d : Reg)
  /-- PGFREE (R256). Drops a reference on a page, freeing it at zero. -/
  | pgfree (a : Reg) (d : Reg)
  /-- PGFORK (R256). Takes a further reference on a page. -/
  | pgfork (a : Reg) (d : Reg)
  /-- PGLOOK (R258). Finds a page by prefix tag and takes a reference. -/
  | pglook (a : Reg) (d : Reg)
  /-- PGINS (R258). Enters a page in the hash table under its tag. -/
  | pgins (a : Reg) (d : Reg)
  /-- PGSHIFT (R259). Moves a page to a new position base. -/
  | pgshift (a : Reg) (d : Reg)
  /-- KVAPP (R260). Appends one token position's key and value to a page. -/
  | kvapp (a : Reg) (d : Reg)
  /-- KVLD (R264). Loads the rotated keys or values of pages into a pod. -/
  | kvld (a : Reg) (d : Reg)
  /-- ATTN (R344). Runs decode attention on near-memory attention units, writing triples. -/
  | attn (a : Reg) (d : Reg)
  /-- VADD (R436). Lane addition. -/
  | vadd (t : Reg4) (y : Bit) (b : Reg4) (x : Bit) (a : Reg4) (d : Reg4)
  /-- VSUB (R436). Lane subtraction. -/
  | vsub (t : Reg4) (y : Bit) (b : Reg4) (x : Bit) (a : Reg4) (d : Reg4)
  /-- VMUL (R436). Lane multiplication. -/
  | vmul (t : Reg4) (y : Bit) (b : Reg4) (x : Bit) (a : Reg4) (d : Reg4)
  /-- VMAX (R436). Lane maximum. -/
  | vmax (t : Reg4) (y : Bit) (b : Reg4) (x : Bit) (a : Reg4) (d : Reg4)
  /-- VMIN (R436). Lane minimum. -/
  | vmin (t : Reg4) (y : Bit) (b : Reg4) (x : Bit) (a : Reg4) (d : Reg4)
  /-- VEXP (R436). Lane base-2 exponential; full-bit class. -/
  | vexp (t : Reg4) (x : Bit) (a : Reg4) (d : Reg4)
  /-- VRCP (R436). Lane reciprocal; full-bit class. -/
  | vrcp (t : Reg4) (x : Bit) (a : Reg4) (d : Reg4)
  /-- VRSQ (R436). Lane reciprocal square root; full-bit class. -/
  | vrsq (t : Reg4) (x : Bit) (a : Reg4) (d : Reg4)
  /-- VBIT_AND (R436). Bitwise AND of two vectors. -/
  | vbitAnd (t : Reg4) (y : Bit) (b : Reg4) (x : Bit) (a : Reg4) (d : Reg4)
  /-- VBIT_OR (R436). Bitwise OR of two vectors. -/
  | vbitOr (t : Reg4) (y : Bit) (b : Reg4) (x : Bit) (a : Reg4) (d : Reg4)
  /-- VBIT_XOR (R436). Bitwise exclusive OR of two vectors. -/
  | vbitXor (t : Reg4) (y : Bit) (b : Reg4) (x : Bit) (a : Reg4) (d : Reg4)
  /-- VBIT_ANDN (R436). Bitwise AND NOT of two vectors. -/
  | vbitAndn (t : Reg4) (y : Bit) (b : Reg4) (x : Bit) (a : Reg4) (d : Reg4)
  /-- VSHF_L (R436). Lane shift left. -/
  | vshfL (t : Reg4) (y : Bit) (b : Reg4) (x : Bit) (a : Reg4) (d : Reg4)
  /-- VSHF_R (R436). Lane logical shift right. -/
  | vshfR (t : Reg4) (y : Bit) (b : Reg4) (x : Bit) (a : Reg4) (d : Reg4)
  /-- VSHF_RA (R436). Lane arithmetic shift right. -/
  | vshfRa (t : Reg4) (y : Bit) (b : Reg4) (x : Bit) (a : Reg4) (d : Reg4)
  /-- VFMA (R441). Lane fused multiply-add into the destination. -/
  | vfma (t : Reg4) (y : Bit) (b : Reg4) (x : Bit) (a : Reg4) (d : Reg4)
  /-- VCVT (R440). Converts lanes between types. -/
  | vcvt (u : Bit) (s : Reg4) (d : Reg4) (x : Bit) (a : Reg4) (v : Reg4)
  /-- VCMP (R438). Compares lanes into a steer register's C bit. -/
  | vcmp (l : Bit) (c : BitVec 3) (t : Reg4) (y : Bit) (b : Reg4) (x : Bit) (a : Reg4) (e : Reg4)
  /-- VSEL (R446). Selects lanes by a mask register. -/
  | vsel (m : Reg4) (t : Reg4) (y : Bit) (b : Reg4) (x : Bit) (a : Reg4) (d : Reg4)
  /-- VPERM (R444). Permutes lanes by an index vector. -/
  | vperm (t : Reg4) (y : Bit) (b : Reg4) (x : Bit) (a : Reg4) (d : Reg4)
  /-- VRED (R445). Reduces all lanes to one; full-bit class. -/
  | vred (o : BitVec 3) (t : Reg4) (x : Bit) (a : Reg4) (d : Reg4)
  /-- VMAXI (R442). Finds the largest lane with its index. -/
  | vmaxi (t : Reg4) (y : Bit) (b : Reg4) (x : Bit) (a : Reg4) (d : Reg4)
  /-- VBCAST (R437). Broadcasts a g register into every lane. -/
  | vbcast (t : Reg4) (g : Reg) (d : Reg4)
  /-- VMOV (R443). Copies a v register. -/
  | vmov (t : Reg4) (x : Bit) (a : Reg4) (d : Reg4)
  /-- VMOV_INS (R443). Inserts a g register into one lane. -/
  | vmovIns (t : Reg4) (l : Reg) (g : Reg) (d : Reg4)
  /-- VMOV_EXT (R443). Extracts one lane into a g register. -/
  | vmovExt (t : Reg4) (l : Reg) (a : Reg4) (g : Reg)
  /-- VCOMP (R439). Compresses the selected lanes to the bottom. -/
  | vcomp (t : Reg4) (y : Bit) (b : Reg4) (x : Bit) (a : Reg4) (d : Reg4)
  /-- MFS (R395). Reads a status register into a g register. -/
  | mfs (n : BitVec 12) (d : Reg)
  /-- MTS (R400). Writes a status register that has no behaviour of its own. -/
  | mts (x : Bit) (n : BitVec 12) (a : Reg)
  /-- MTS_SR_STATUS (R26). Writes SR_STATUS, changing privilege or letting pending events be taken. -/
  | mtsSrStatus (x : Bit) (a : Reg)
  /-- MTS_SR_TCMP (R320). Writes the timer compare value, re-evaluating TIMER. -/
  | mtsSrTcmp (x : Bit) (a : Reg)
  /-- MTS_SR_TCAUSE (R316). Writes SR_TCAUSE; REPLAY written 0 discards the replay entries. -/
  | mtsSrTcause (x : Bit) (a : Reg)
  /-- MTS_SR_IPEND (R320). Withdraws pending events by W1C, delivering a queued message. -/
  | mtsSrIpend (x : Bit) (a : Reg)
  /-- MTS_SR_ASID (R320). Changes the pip's address-space identifier from the next instruction. -/
  | mtsSrAsid (x : Bit) (a : Reg)
  /-- MTS_SR_ENGERR (R243). Clears the engine error record by W1C. -/
  | mtsSrEngerr (x : Bit) (a : Reg)
  /-- MTS_SR_LVLINT (R27). Sets the cluster's levelling interval. -/
  | mtsSrLvlint (x : Bit) (a : Reg)
  /-- MTS_SR_MUCHECK (R206). Sets hazard checking for later matrix tasks of the cluster. -/
  | mtsSrMucheck (x : Bit) (a : Reg)
  /-- MTS_SR_PBOUND (R223). Sets the preemption bound for later matrix tasks of the cluster. -/
  | mtsSrPbound (x : Bit) (a : Reg)
  /-- MTS_SR_AGE (R301). Sets the module's aging interval in every controller within 1 us. -/
  | mtsSrAge (x : Bit) (a : Reg)
  /-- MTS_SR_PREEMPTWAIT (R301). Sets the module's pre-emption wait and minimum residence. -/
  | mtsSrPreemptwait (x : Bit) (a : Reg)
  /-- MTS_SR_RAMPUP (R329). Sets the module's largest power rise per microsecond. -/
  | mtsSrRampup (x : Bit) (a : Reg)
  /-- MTS_SR_RAMPDOWN (R329). Sets the module's largest power fall per microsecond. -/
  | mtsSrRampdown (x : Bit) (a : Reg)
  /-- FULL_BIT_RESULT_WRITE (R30). A full-bit-class operation writes its destination and sets its full bit, readying parked pips. -/
  | fullBitResultWrite (p op : Nat)
  /-- HOME_L2_ACCESS (R98). A global store, atomic or missing load is performed at its home L2. -/
  | homeL2Access (p op : Nat) (lines drops : List Nat)
  /-- DEFERRED_FAULT (R316). A global data access fails translation at the L2 and becomes a replay entry. -/
  | deferredFault (p op : Nat)
  /-- RED_MERGE (R70). An update-only line merges into its home L2 line as one atomic update. -/
  | redMerge (core line : Nat)
  /-- WAIT_FULL_READ (R80). An outstanding wait-full load performs its read once no touched granule is EMPTY. -/
  | waitFullRead (p op : Nat)
  /-- TRAP_ENTRY (R315). A pip takes a deferred or asynchronous trap at an instruction boundary. -/
  | trapEntry (p : Nat)
  /-- TIMER (R320). Global time reaches SR_TCMP and TIMER becomes pending. -/
  | timer (p : Nat)
  /-- MESSAGE_POST (R314). A message posted to a pip reaches its die controller and is delivered or queued. -/
  | messagePost (launch : BitVec 32) (pipid value : Word)
  /-- MESSAGE_DELIVER (R314). The oldest queued message is delivered to SR_MSG after MESSAGE clears. -/
  | messageDeliver (p : Nat)
  /-- TASK_START (R44). An idle pip pops the most recent deque entry and starts a task. -/
  | taskStart (core : Nat)
  /-- DEQUE_LEVELLING (R45). At each levelling interval the cores sample and level their deques. -/
  | dequeLevelling (cl : Nat)
  /-- MIGRATION_DEPART (R47). After its drain a migrating pip becomes in transit and its packet leaves. -/
  | migrationDepart (p : Nat)
  /-- MIGRANT_RESUME (R47). An accepted migrant resumes in a freed slot of its destination. -/
  | migrantResume (cl entry : Nat)
  /-- ENGINE_COMMAND_ACCEPT (R227). A command at the head of the store queue is read, checked and accepted or refused by its context. -/
  | engineCommandAccept (p op : Nat)
  /-- ENGINE_COMMAND_COMPLETE (R117). An engine or NMA command completes, sealing, arriving and advancing its timeline. -/
  | engineCommandComplete (e : EngineRef) (id : Nat)
  /-- ENGINE_HANDOFF (R242). A command meeting a fault hands its remainder to die controller firmware. -/
  | engineHandoff (e : EngineRef) (id : Nat)
  /-- MLOAD_PERFORM (R185). The matrix unit reads, checks and installs or rejects a program image. -/
  | mloadPerform (cl : Nat)
  /-- TINV_COMPLETE (R123). A TINV writes rd once every covered translation and line is dropped. -/
  | tinvComplete (p op : Nat)
  /-- POD_TIMER_EXPIRY (R90). The cluster's global time reaches a timed pod's deadline: its seal point. -/
  | podTimerExpiry (cl pod : Nat)
  /-- SEAL_SLOT (R91). A bank's seal slot makes its footprint granules SEALED and records FULL ones. -/
  | sealSlot (cl pod bank : Nat)
  /-- SEAL_COMPLETE (R92). The seal completes: mask and OCOUNT are recorded and the handle posted. -/
  | sealComplete (cl pod : Nat)
  /-- TASK_DISPATCH (R199). The matrix unit dispatches the highest-priority ready task. -/
  | taskDispatch (cl : Nat)
  /-- MATRIX_BUNDLE_ISSUE (R201). A bundle of the running task issues STALL + 1 cycles after its predecessor. -/
  | matrixBundleIssue (cl : Nat)
  /-- MU_DELAYED_WRITE (R202). A fixed-latency matrix operation writes its result register at its stated cycle. -/
  | muDelayedWrite (cl : Nat)
  /-- TILE_LOAD_SERVICE_END (R203). A tile load's read-port service ends and its register is written. -/
  | tileLoadServiceEnd (cl : Nat)
  /-- TILE_STORE_SERVICE_END (R204). A TST or TSTX write-port service ends with its writes performed. -/
  | tileStoreServiceEnd (cl : Nat)
  /-- TSIG_SIGNAL (R218). At its signal cycle a TSIG seals its output and arrives. -/
  | tsigSignal (cl : Nat)
  /-- TASK_END (R219). A task ends: log, seals, frees, result word and timeline. -/
  | taskEnd (cl : Nat)
  /-- FILLER_MMA (R329). An idle matrix unit runs a filler MMA to limit the fall of draw. -/
  | fillerMma (cl : Nat)
  /-- HOST_LAUNCH_SUBMIT (R322). The control node submits a launch record through the Milcy port. -/
  | hostLaunchSubmit (controller job : Nat) (record : List Byte)
  /-- LAUNCH_PLACEMENT (R302). A controller places a queued launch on free units. -/
  | launchPlacement (die : Nat) (launch : BitVec 32) (units : List Nat)
  /-- AGING (R300). A launch that waited SR_AGE.CYCLES moves to the next higher queue. -/
  | aging (die : Nat) (launch : BitVec 32)
  /-- PREEMPTION_START (R307). A controller chooses victims and stops their launch contexts. -/
  | preemptionStart (die : Nat) (launch : BitVec 32)
  /-- CONTEXT_SAVE (R309). After the drain a launch context is saved and its clusters released. -/
  | contextSave (launch : BitVec 32)
  /-- CONTEXT_RESUME (R310). A preempted context is restored on its clusters and its waits re-issued. -/
  | contextResume (launch : BitVec 32)
  /-- LAUNCH_COMPLETE (R59). A launch completes, stores DONEVAL and frees its slots, pods and pins. -/
  | launchComplete (launch : BitVec 32)
  /-- RD (R292). A remote read request is performed at its target and answered. -/
  | rdReq (packet : Nat)
  /-- AT (R292). A remote atomic request is performed at its target and answered. -/
  | atReq (packet : Nat)
  /-- WR (R292). A remote write is performed in its target's bank slot and answered. -/
  | wrReq (packet : Nat)
  /-- MCW (R293). A multicast write piece is performed by each target cluster. -/
  | mcwReq (packet target : Nat)
  /-- MIG (R48). A migration packet arrives and is accepted into the inbox or refused. -/
  | migReq (packet : Nat)
  /-- FWD (R279). A forwarded request is served by firmware or recall and answered to the origin. -/
  | fwdReq (packet : Nat)
  /-- ACK (R284). An acknowledgement completes a remote access at its origin. -/
  | ackResp (packet : Nat)
  /-- DATA (R284). A data response completes a remote read or atomic at its origin. -/
  | dataResp (packet : Nat)
  /-- REFUSE (R89). A refusal response reaches the origin, counted or raising REMOTE_REFUSED. -/
  | refuseResp (packet : Nat)
  /-- MACK (R294). Migration acceptance frees the origin slot. -/
  | mackResp (packet : Nat)
  /-- MREF (R47). Migration refusal resumes the pip at its origin. -/
  | mrefResp (packet : Nat)
  /-- CONF (R284). A confirmation deletes the target's receipt. -/
  | confResp (packet : Nat)
  /-- UNKNOWN_KIND_PACKET (R276). A packet of unknown KIND is discarded and a module fault reported. -/
  | unknownKindPacket (packet : Nat)
  /-- LINK_FLIT_RECEIVE (R272). A flit or beat arrives, is checked and its slot returns adopted. -/
  | linkFlitReceive (link : Nat) (flit : Flit)
  /-- IDLE_FLIT (R281). An idle flit or beat is sent when no traffic has carried slot returns. -/
  | idleFlit (link : Nat)
  /-- LINK_DEAD (R273). A link loses lock, exhausts retries or falls silent and is declared dead. -/
  | linkDead (link : Nat)
  /-- ROUTE_CHANGE_START (R286). The route master computes and sends new tables after a link report. -/
  | routeChangeStart (tables : Tables) (unreachable : List (Nat × Nat))
  /-- ROUTE_TABLES_INSTALL (R286). A router installs the new version beside the old and acknowledges. -/
  | routeTablesInstall (router : Nat)
  /-- FLIP (R287). A node flips to the new version, replaying copies and re-offering responses. -/
  | flip (node : Nat)
  /-- TIME_SYNC_EXCHANGE (R295). A CTL time packet exchange steers the module's global time: it measures the domain's reference, to
  within so many ns. -/
  | timeSyncExchange (reference within : Nat)
  /-- STAGGER_SUBMIT (R296). The control node submits a STAGGER through the management channel. -/
  | staggerSubmit (job epoch t0 interval : Nat)
  /-- STAGGER (R297). A module receives a STAGGER broadcast and sets its start gate. -/
  | stagger (job epoch t0 interval : Nat)
  /-- START_GATE_OPEN (R296). A module's start gate opens at its time. -/
  | startGateOpen (job : Nat)
  /-- WINDOW_OPEN (R321). The control node opens a memory window. -/
  | windowOpen (window : WindowSpec)
  /-- WINDOW_READ (R322). A host read through a memory window is served at the home L2. -/
  | windowRead (window offset count : Nat)
  /-- WINDOW_WRITE (R322). A host write through a memory window is performed at the home L2. -/
  | windowWrite (window offset : Nat) (data : List Byte)
  /-- RANK_TABLE_INSTALL (R290). The control node installs or rewrites a job's rank table. -/
  | rankTableInstall (job ownRank : Nat) (entries : List (Nat × Word))
  /-- CLEAR_STEP_ENTRY (R327). A management command clears a step record entry. -/
  | clearStepEntry (entry : Nat)
  /-- SET_POWER_STATE (R328). The control node sets the power state P0 to P4. -/
  | setPowerState (state : PowerState)
  /-- SET_POWER_CAP (R328). The control node sets the P1 power cap. -/
  | setPowerCap (watts : Nat)
  /-- SET_RAMP_REGISTERS (R329). The control node sets the ramp registers. -/
  | setRampRegisters (up down : BitVec 16)
  /-- LIFECYCLE_MOVE (R323). A signed command moves the lifecycle forward. -/
  | lifecycleMove (target : Lifecycle) (signature : List Byte)
  /-- DEBUG_LEVEL_ENTER (R324). A management command enters a debug level, with a token where required. -/
  | debugLevelEnter (level : DebugLevel) (token : Option DebugToken)
  /-- DEBUG_HALT (R324). INTRUSIVE debug halts or steps a pip or matrix unit. -/
  | debugHalt (unit : DebugUnit) (action : DebugAction)
  /-- DEBUG_MEMORY_ACCESS (R324). INTRUSIVE debug reads or writes memory through the management channel. -/
  | debugMemoryAccess (access : DebugAccess)
  /-- ATTESTATION_REQUEST (R325). The module signs an attestation report over a requester's nonce. -/
  | attestationRequest (nonce : List Byte)
  /-- POWER_LIMIT_TRIP (R330). An operating limit is exceeded and the module enters P4. -/
  | powerLimitTrip (reading : LimitReading)
  /-- START_UP (R326). The module runs its start-up steps and reports ready. -/
  | startUp (plan : StartPlan)
  /-- NEAR_LOCAL_ACCESS (R98). A near local access (STL, STLV, AMOL, BARA, PRESET, PFREE or POPEN granule change, plain LDL) is performed in its bank slot after issue. -/
  | nearLocalAccess (p op : Nat)
  /-- ENGINE_ACCESS (R230). An accepted copy, gather, merge or NMA channel command performs one of its element reads or writes, with its barrier subtraction and any set-full or refusal. -/
  | engineAccess (e : EngineRef) (id piece : Nat)
  /-- ILLEGAL_INSTRUCTION (R161). A pip fetches a word with an unassigned major opcode, fn7 or fn6 and traps ILLEGAL_INSTRUCTION. -/
  | illegalInstruction (word : BitVec 32)
  /-- FIRMWARE_LAUNCH (R57). Die controller firmware submits a launch, possibly at priority 47, which pre-empts at once. -/
  | firmwareLaunch (controller job : Nat) (record : List Byte)
  /-- LAUNCH_RECORD_DELIVERY (R303). A module of a fabric-level launch receives the launch record from the module that took the submission and places its own part. -/
  | launchRecordDelivery (launch : BitVec 32) (job home issuerMode : Nat) (record : List Byte)
  /-- PART_COMPLETE_REPORT (R59). A module reports to the launch's home module that its own part of a multi-module launch is complete. -/
  | partCompleteReport (launch : BitVec 32) (rank discarded : Nat)
  /-- RANK_RELOCATION (R291). The control node moves a rank's saved contexts to another module, which then takes the rank's epoch and start gate. -/
  | rankRelocation (job rank : Nat) (modid : BitVec 20) (moving : Bool) (epoch gate : Option Nat)
  /-- FETCH_FAULT (R161). The fetch of the next instruction of a pip fails and the pip takes a fetch trap with SR_TPC = SR_TVAL. -/
  | fetchFault
  /-- FLIP_BROADCAST (R286). Once all routers acknowledge, the route master broadcasts FLIP. -/
  | flipBroadcast
  /-- ROUTE_VERSION_FREE (R286). Once all flips are acknowledged, the old version is freed. -/
  | routeVersionFree
  /-- TIME_SYNC_LOSS (R295). No exchange in 10 ms: the module reports loss and counts freely. -/
  | timeSyncLoss
  /-- READ_STEP_RECORD (R327). The control node reads the step record. -/
  | readStepRecord
  /-- READ_AST_BASE (R63). The control node reads the base of the address-space table. -/
  | readAstBase
  /-- READ_ROUTING_TABLES (R285). The control node reads the current version's routing tables. -/
  | readRoutingTables
  /-- DEBUG_TOKEN_EXPIRY (R324). A debug token expires, ending INTRUSIVE and resuming halted units. -/
  | debugTokenExpiry
  /-- DEBUG_READ_COUNTERS (R324). OBSERVE debug reads counters and trace. -/
  | debugReadCounters
  /-- DONE (R43). Ends the current task; the pip becomes idle once its operations have written. -/
  | done
  /-- ECALL (R366). System call trap. -/
  | ecall
  /-- BRK (R354). Breakpoint trap. -/
  | brk
  /-- ERET (R317). Performs replay entries and returns from a trap. -/
  | eret
  /-- WFI (R318). Parks the pip until an event is pending. -/
  | wfi
  /-- PAUSE (R403). Parks the pip for up to 64 cycles. -/
  | pause
  deriving DecidableEq, Repr

end Sys2Proof
end

