-- ==== Sys2Proof/WellFormed.lean ====
section
/-! DEFINITION. The field values that the chapter on encoding accepts (R161 step 2, R162 to R174). A word
whose fields break these is no instruction. -/

namespace Sys2Proof

/-- A field bd names b0 to b11 (R36). -/
def steerOk (e : Reg4) : Bool := e < 12

/-- Without an ordering bit the scope field is zero (R104, R166). -/
def scopeOk (ordered : Bool) (c : BitVec 3) : Bool := ordered || c == 0

/-- The width in bits of a lane of the type with the code `t` of R169 (R435); 0 for codes 13 to 15. -/
def laneWidth (t : Reg4) : Nat :=
  match t.toNat with
  | 9 | 10 => 64
  | 0 | 3 | 6 => 32
  | 1 | 2 | 4 | 7 => 16
  | 5 | 8 | 11 | 12 => 8
  | _ => 0

/-- The number of lanes of a v register of type `t` (R435). -/
def laneCount (t : Reg4) : Nat := if laneWidth t = 0 then 0 else 512 / laneWidth t

/-- The status register numbers that R319 assigns. -/
def statusNumbers : List Nat :=
  [0x000, 0x001, 0x002, 0x003, 0x004, 0x005, 0x008, 0x009, 0x010, 0x011, 0x012, 0x013, 0x014, 0x015,
   0x016, 0x018, 0x020, 0x021, 0x022, 0x030, 0x031, 0x040, 0x041, 0x042, 0x050, 0x051, 0x058, 0x059]

/-- The number names a status register (R162, R319). -/
def statusNumber (n : BitVec 12) : Bool := statusNumbers.contains n.toNat

/-- The opcode table gives MTS of these registers a row of its own (MTS_SR_STATUS and so on). -/
def mtsRows : List Nat :=
  [0x000, 0x009, 0x011, 0x014, 0x018, 0x022, 0x040, 0x041, 0x042, 0x050, 0x051, 0x058, 0x059]

/-- The register has a row of its own, so the row MTS does not stand for it. -/
def mtsRow (n : BitVec 12) : Bool := mtsRows.contains n.toNat

/-- The instruction's fields lie in the ranges the spec accepts. An event has no word and no such range. -/
def Instr.wf : Instr → Bool
  | .nop => true
  | .add _ _ _ _ _ _ => true
  | .sub _ _ _ _ _ _ => true
  | .mul _ _ _ _ _ _ => true
  | .mulh _ _ _ _ _ _ => true
  | .mulhZ _ _ _ _ _ _ => true
  | .div _ _ _ _ _ _ => true
  | .divZ _ _ _ _ _ _ => true
  | .rem _ _ _ _ _ _ => true
  | .remZ _ _ _ _ _ _ => true
  | .and _ _ _ _ _ _ => true
  | .or _ _ _ _ _ _ => true
  | .xor _ _ _ _ _ _ => true
  | .shl _ _ _ _ _ _ => true
  | .shr _ _ _ _ _ _ => true
  | .sra _ _ _ _ _ _ => true
  | .rot _ _ _ _ _ _ => true
  | .min _ _ _ _ _ _ => true
  | .minZ _ _ _ _ _ _ => true
  | .max _ _ _ _ _ _ => true
  | .maxZ _ _ _ _ _ _ => true
  | .clz _ _ _ _ => true
  | .ctz _ _ _ _ => true
  | .popc _ _ _ _ => true
  | .ext _ k _ _ => k ≤ 5
  | .hash _ _ _ _ _ _ => true
  | .sel _ _ _ n _ _ _ => n ≤ 11
  | .addI _ _ _ _ _ => true
  | .andI _ _ _ _ _ => true
  | .orI _ _ _ _ _ => true
  | .xorI _ _ _ _ _ => true
  | .shlI w _ i _ _ => i < (if w = 1 then 32 else 64)
  | .shrI w _ i _ _ => i < (if w = 1 then 32 else 64)
  | .sraI w _ i _ _ => i < (if w = 1 then 32 else 64)
  | .rotI w _ i _ _ => i < (if w = 1 then 32 else 64)
  | .mulI _ _ _ _ _ => true
  | .bfx _ l p _ _ => p.toNat + l.toNat + 1 ≤ 64
  | .bfi _ l p _ _ => p.toNat + l.toNat + 1 ≤ 64
  | .li _ _ => true
  | .lih h _ d => h ≠ 0 && d ≠ 0
  | .cmp _ _ _ e => steerOk e
  | .cmpI c i _ e => steerOk e && (c < 6 || i < 64)
  | .fcmp c _ _ _ e => steerOk e && c ≤ 5
  | .prep _ e => steerOk e
  | .prepr _ _ e => steerOk e
  | .br k e => steerOk e && k ≠ 3
  | .call e => steerOk e
  | .ret => true
  | .fadd _ _ _ _ _ _ => true
  | .fsub _ _ _ _ _ _ => true
  | .fmul _ _ _ _ _ _ => true
  | .fdiv _ _ _ _ _ _ => true
  | .fsqrt _ _ _ _ => true
  | .fmin _ _ _ _ _ _ => true
  | .fmax _ _ _ _ _ _ => true
  | .fcvt w _ s r t _ _ => t ≠ (if w = 1 then 1 else 0) && (s = 0 || (r = 0 && 4 ≤ t))
  | .ffma _ _ _ _ _ _ _ => true
  | .ld _ o _ c _ _ _ => scopeOk (o = 1) c
  | .st _ o _ c _ _ _ => scopeOk (o = 1) c
  | .ldv _ o c _ _ _ => scopeOk (o = 1) c
  | .stv _ o c _ _ _ => scopeOk (o = 1) c
  | .ldvx _ o _ c _ _ _ => scopeOk (o = 1) c
  | .stvx _ o _ c _ _ _ => scopeOk (o = 1) c
  | .amo _ r q c o _ _ _ => o ≤ 8 && scopeOk (q = 1 || r = 1) c
  | .cas _ r q c _ _ _ => scopeOk (q = 1 || r = 1) c
  | .red _ _ _ o _ _ => 1 ≤ o && o ≤ 9
  | .fence k _ => k ≠ 3
  | .mark => true
  | .pref _ _ _ h => h ≤ 1
  | .cpin _ _ _ _ => true
  | .cunpin _ _ _ => true
  | .cflush _ _ _ => true
  | .ldl _ j _ q _ _ _ => q ≤ 3 && (j = 0 || q ≠ 0)
  | .stl _ j _ q _ _ _ => q ≤ 3 && (j = 0 || 2 ≤ q)
  | .ldlv _ j q _ _ _ => q ≤ 3 && (j = 0 || q ≠ 0)
  | .stlv _ j q _ _ _ => q ≤ 3 && (j = 0 || 2 ≤ q)
  | .amol _ r q c o _ _ _ => o ≤ 8 && scopeOk (q = 1 || r = 1) c
  | .popen _ _ _ _ _ => true
  | .seal _ _ _ => true
  | .pstat _ _ _ _ => true
  | .pfree _ _ _ => true
  | .preset _ _ _ _ => true
  | .bari _ _ _ _ => true
  | .bara _ _ => true
  | .barw _ _ => true
  | .waitge m _ n b _ _ => m ≤ 4 && (if m = 0 then n ≤ 3 else n = 0) && (m = 4 || b = 0)
  | .sendr _ _ _ _ d => d ≠ 0
  | .pause => true
  | .fork _ e => steerOk e
  | .join _ => true
  | .done => true
  | .launch _ _ => true
  | .copy n _ _ => n ≤ 3
  | .mcast n _ _ => n ≤ 3
  | .gatherList _ _ => true
  | .gatherSpr _ _ => true
  | .scatterList _ _ => true
  | .scatterSpr _ _ => true
  | .mergeM0 _ _ => true
  | .mergeM1 _ _ => true
  | .mergeM2 _ _ => true
  | .mergeM3 _ _ => true
  | .mtask _ _ => true
  | .mload _ _ => true
  | .tinvRange c _ _ => 2 ≤ c
  | .tinvAsid c _ _ => 2 ≤ c
  | .tinvAll c _ _ => 2 ≤ c
  | .pgalloc _ _ => true
  | .pgfree _ _ => true
  | .pgfork _ _ => true
  | .pglook _ _ => true
  | .pgins _ _ => true
  | .pgshift _ _ => true
  | .kvapp _ _ => true
  | .kvld _ _ => true
  | .attn _ _ => true
  | .vadd t _ _ _ _ _ => t ≤ 10
  | .vsub t _ _ _ _ _ => t ≤ 10
  | .vmul t _ _ _ _ _ => t ≤ 10
  | .vmax t _ _ _ _ _ => t ≤ 10
  | .vmin t _ _ _ _ _ => t ≤ 10
  | .vexp t _ _ _ => t ≤ 2
  | .vrcp t _ _ _ => t ≤ 2
  | .vrsq t _ _ _ => t ≤ 2
  | .vbitAnd t _ _ _ _ _ => 3 ≤ t && t ≤ 10
  | .vbitOr t _ _ _ _ _ => 3 ≤ t && t ≤ 10
  | .vbitXor t _ _ _ _ _ => 3 ≤ t && t ≤ 10
  | .vbitAndn t _ _ _ _ _ => 3 ≤ t && t ≤ 10
  | .vshfL t _ _ _ _ _ => 3 ≤ t && t ≤ 10
  | .vshfR t _ _ _ _ _ => 3 ≤ t && t ≤ 10
  | .vshfRa t _ _ _ _ _ => 3 ≤ t && t ≤ 10
  | .vfma t _ _ _ _ _ => t ≤ 2
  | .vcvt u s d _ _ _ => s ≤ 12 && d ≤ 12 && s ≠ d && (u = 0 || !(3 ≤ d && d ≤ 10))
  | .vcmp _ c t _ _ _ _ e => steerOk e && t ≤ 12 && (c ≤ 3 || (3 ≤ t && t ≤ 10))
  | .vsel _ t _ _ _ _ _ => t ≤ 12
  | .vperm t _ _ _ _ _ => t ≤ 12
  | .vred o t _ _ _ => t ≤ 10 && o ≤ 2
  | .vmaxi t _ _ _ _ _ => t ≤ 12
  | .vbcast t _ _ => t ≤ 12
  | .vmov _ _ _ _ => true
  | .vmovIns t l _ _ => t ≤ 12 && l.toNat < laneCount t
  | .vmovExt t l _ _ => t ≤ 12 && l.toNat < laneCount t
  | .vcomp t _ _ _ _ _ => t ≤ 12
  | .ecall => true
  | .eret => true
  | .brk => true
  | .wfi => true
  | .mfs n _ => statusNumber n
  | .mts _ n _ => statusNumber n && !mtsRow n
  | .mtsSrStatus _ _ => true
  | .mtsSrTcmp _ _ => true
  | .mtsSrTcause _ _ => true
  | .mtsSrIpend _ _ => true
  | .mtsSrAsid _ _ => true
  | .mtsSrEngerr _ _ => true
  | .mtsSrLvlint _ _ => true
  | .mtsSrMucheck _ _ => true
  | .mtsSrPbound _ _ => true
  | .mtsSrAge _ _ => true
  | .mtsSrPreemptwait _ _ => true
  | .mtsSrRampup _ _ => true
  | .mtsSrRampdown _ _ => true
  | .fullBitResultWrite _ _ => true
  | .homeL2Access _ _ _ _ => true
  | .deferredFault _ _ => true
  | .redMerge _ _ => true
  | .waitFullRead _ _ => true
  | .trapEntry _ => true
  | .timer _ => true
  | .messagePost _ _ _ => true
  | .messageDeliver _ => true
  | .taskStart _ => true
  | .dequeLevelling _ => true
  | .migrationDepart _ => true
  | .migrantResume _ _ => true
  | .engineCommandAccept _ _ => true
  | .engineCommandComplete _ _ => true
  | .engineHandoff _ _ => true
  | .mloadPerform _ => true
  | .tinvComplete _ _ => true
  | .podTimerExpiry _ _ => true
  | .sealSlot _ _ _ => true
  | .sealComplete _ _ => true
  | .taskDispatch _ => true
  | .matrixBundleIssue _ => true
  | .muDelayedWrite _ => true
  | .tileLoadServiceEnd _ => true
  | .tileStoreServiceEnd _ => true
  | .tsigSignal _ => true
  | .taskEnd _ => true
  | .fillerMma _ => true
  | .hostLaunchSubmit _ _ _ => true
  | .launchPlacement _ _ _ => true
  | .aging _ _ => true
  | .preemptionStart _ _ => true
  | .contextSave _ => true
  | .contextResume _ => true
  | .launchComplete _ => true
  | .rdReq _ => true
  | .atReq _ => true
  | .wrReq _ => true
  | .mcwReq _ _ => true
  | .migReq _ => true
  | .fwdReq _ => true
  | .ackResp _ => true
  | .dataResp _ => true
  | .refuseResp _ => true
  | .mackResp _ => true
  | .mrefResp _ => true
  | .confResp _ => true
  | .unknownKindPacket _ => true
  | .linkFlitReceive _ _ => true
  | .idleFlit _ => true
  | .linkDead _ => true
  | .routeChangeStart _ _ => true
  | .routeTablesInstall _ => true
  | .flipBroadcast => true
  | .flip _ => true
  | .routeVersionFree => true
  | .timeSyncExchange _ _ => true
  | .timeSyncLoss => true
  | .staggerSubmit _ _ _ _ => true
  | .stagger _ _ _ _ => true
  | .startGateOpen _ => true
  | .windowOpen _ => true
  | .windowRead _ _ _ => true
  | .windowWrite _ _ _ => true
  | .rankTableInstall _ _ _ => true
  | .readStepRecord => true
  | .clearStepEntry _ => true
  | .readAstBase => true
  | .readRoutingTables => true
  | .setPowerState _ => true
  | .setPowerCap _ => true
  | .setRampRegisters _ _ => true
  | .lifecycleMove _ _ => true
  | .debugLevelEnter _ _ => true
  | .debugTokenExpiry => true
  | .debugHalt _ _ => true
  | .debugMemoryAccess _ => true
  | .debugReadCounters => true
  | .attestationRequest _ => true
  | .powerLimitTrip _ => true
  | .startUp _ => true
  | .nearLocalAccess _ _ => true
  | .engineAccess _ _ _ => true
  | .illegalInstruction _ => true
  | .fetchFault => true
  | .firmwareLaunch _ _ _ => true
  | .launchRecordDelivery _ _ _ _ _ => true
  | .partCompleteReport _ _ _ => true
  | .rankRelocation _ _ _ _ _ _ => true

end Sys2Proof
end

