-- ==== Sys2Proof/Decode.lean ====
section
/-! DEFINITION. The decoder of pip instruction words, total on any bytes and rejecting by name, and after it
the encoder, both written from the encoding tables of 06_encoding.md and the reference entries. A word is a
natural number below 2^32; a field is cut out of it by division, so that the round trip is arithmetic. -/

namespace Sys2Proof

/-- Why a word is no instruction (R161 step 2). -/
inductive Reject where
  /-- The major opcode is not assigned (R171). -/
  | unassignedOpcode (maj : Nat)
  /-- The group's function or mode field is not assigned (R172, R173, R174, R167). -/
  | unassignedFunction (maj fn : Nat)
  /-- A bit the format fixes does not hold its value. -/
  | fixedBit (mnemonic : String)
  /-- A field lies outside the range the chapter accepts. -/
  | fieldRange (mnemonic : String)
  /-- Fewer than four bytes. -/
  | short
  deriving DecidableEq, Repr

/-- Bits [lo + n - 1 : lo] of a word. -/
def fld (w lo n : Nat) : BitVec n := BitVec.ofNat n (w / 2 ^ lo)

/-- Accept `i` for the word when the listed fields (low bit, length, value) hold and its own fields lie in
range. -/
def row (w : Nat) (mnemonic : String) (fixed : List (Nat × Nat × Nat)) (i : Instr) : Except Reject Instr :=
  if fixed.all (fun f => w / 2 ^ f.1 % 2 ^ f.2.1 == f.2.2) then
    if i.wf then .ok i else .error (.fieldRange mnemonic)
  else .error (.fixedBit mnemonic)

/-- The ALU group, by fn7 (R172). -/
def decodeAlu (w : Nat) : Except Reject Instr :=
  match w / 2 ^ 22 % 2 ^ 7 with
  | 0 => row w "ADD" [] (.add (fld w 31 1) (fld w 30 1) (fld w 29 1) (fld w 17 5) (fld w 12 5) (fld w 7 5))
  | 1 => row w "SUB" [] (.sub (fld w 31 1) (fld w 30 1) (fld w 29 1) (fld w 17 5) (fld w 12 5) (fld w 7 5))
  | 2 => row w "MUL" [] (.mul (fld w 31 1) (fld w 30 1) (fld w 29 1) (fld w 17 5) (fld w 12 5) (fld w 7 5))
  | 3 => row w "MULH" [] (.mulh (fld w 31 1) (fld w 30 1) (fld w 29 1) (fld w 17 5) (fld w 12 5) (fld w 7 5))
  | 4 => row w "MULH_Z" [] (.mulhZ (fld w 31 1) (fld w 30 1) (fld w 29 1) (fld w 17 5) (fld w 12 5) (fld w 7 5))
  | 5 => row w "DIV" [] (.div (fld w 31 1) (fld w 30 1) (fld w 29 1) (fld w 17 5) (fld w 12 5) (fld w 7 5))
  | 6 => row w "DIV_Z" [] (.divZ (fld w 31 1) (fld w 30 1) (fld w 29 1) (fld w 17 5) (fld w 12 5) (fld w 7 5))
  | 7 => row w "REM" [] (.rem (fld w 31 1) (fld w 30 1) (fld w 29 1) (fld w 17 5) (fld w 12 5) (fld w 7 5))
  | 8 => row w "REM_Z" [] (.remZ (fld w 31 1) (fld w 30 1) (fld w 29 1) (fld w 17 5) (fld w 12 5) (fld w 7 5))
  | 9 => row w "AND" [] (.and (fld w 31 1) (fld w 30 1) (fld w 29 1) (fld w 17 5) (fld w 12 5) (fld w 7 5))
  | 10 => row w "OR" [] (.or (fld w 31 1) (fld w 30 1) (fld w 29 1) (fld w 17 5) (fld w 12 5) (fld w 7 5))
  | 11 => row w "XOR" [] (.xor (fld w 31 1) (fld w 30 1) (fld w 29 1) (fld w 17 5) (fld w 12 5) (fld w 7 5))
  | 12 => row w "SHL" [] (.shl (fld w 31 1) (fld w 30 1) (fld w 29 1) (fld w 17 5) (fld w 12 5) (fld w 7 5))
  | 13 => row w "SHR" [] (.shr (fld w 31 1) (fld w 30 1) (fld w 29 1) (fld w 17 5) (fld w 12 5) (fld w 7 5))
  | 14 => row w "SRA" [] (.sra (fld w 31 1) (fld w 30 1) (fld w 29 1) (fld w 17 5) (fld w 12 5) (fld w 7 5))
  | 15 => row w "ROT" [] (.rot (fld w 31 1) (fld w 30 1) (fld w 29 1) (fld w 17 5) (fld w 12 5) (fld w 7 5))
  | 16 => row w "MIN" [] (.min (fld w 31 1) (fld w 30 1) (fld w 29 1) (fld w 17 5) (fld w 12 5) (fld w 7 5))
  | 17 => row w "MIN_Z" [] (.minZ (fld w 31 1) (fld w 30 1) (fld w 29 1) (fld w 17 5) (fld w 12 5) (fld w 7 5))
  | 18 => row w "MAX" [] (.max (fld w 31 1) (fld w 30 1) (fld w 29 1) (fld w 17 5) (fld w 12 5) (fld w 7 5))
  | 19 => row w "MAX_Z" [] (.maxZ (fld w 31 1) (fld w 30 1) (fld w 29 1) (fld w 17 5) (fld w 12 5) (fld w 7 5))
  | 20 => row w "CLZ" [(17, 5, 0), (30, 1, 0)] (.clz (fld w 31 1) (fld w 29 1) (fld w 12 5) (fld w 7 5))
  | 21 => row w "CTZ" [(17, 5, 0), (30, 1, 0)] (.ctz (fld w 31 1) (fld w 29 1) (fld w 12 5) (fld w 7 5))
  | 22 => row w "POPC" [(17, 5, 0), (30, 1, 0)] (.popc (fld w 31 1) (fld w 29 1) (fld w 12 5) (fld w 7 5))
  | 23 => row w "EXT" [(30, 2, 0)] (.ext (fld w 29 1) (fld w 17 5) (fld w 12 5) (fld w 7 5))
  | 25 => row w "HASH" [] (.hash (fld w 31 1) (fld w 30 1) (fld w 29 1) (fld w 17 5) (fld w 12 5) (fld w 7 5))
  | 32 | 33 | 34 | 35 | 36 | 37 | 38 | 39 | 40 | 41 | 42 | 43 | 44 | 45 | 46 | 47 => row w "SEL" [] (.sel (fld w 31 1) (fld w 30 1) (fld w 29 1) (fld w 22 4) (fld w 17 5) (fld w 12 5) (fld w 7 5))
  | k => .error (.unassignedFunction 2 k)

/-- CMP with a register or an immediate, by i (R164). -/
def decodeCmp (w : Nat) : Except Reject Instr :=
  match w / 2 ^ 11 % 2 ^ 1 with
  | 0 => row w "CMP" [(22, 7, 0)] (.cmp (fld w 29 3) (fld w 17 5) (fld w 12 5) (fld w 7 4))
  | _ => row w "CMP_I" [] (.cmpI (fld w 29 3) (fld w 17 12) (fld w 12 5) (fld w 7 4))

/-- The floating-point group, by fn7 (R174). -/
def decodeFloat (w : Nat) : Except Reject Instr :=
  match w / 2 ^ 22 % 2 ^ 7 with
  | 0 => row w "FADD" [] (.fadd (fld w 31 1) (fld w 30 1) (fld w 29 1) (fld w 17 5) (fld w 12 5) (fld w 7 5))
  | 1 => row w "FSUB" [] (.fsub (fld w 31 1) (fld w 30 1) (fld w 29 1) (fld w 17 5) (fld w 12 5) (fld w 7 5))
  | 2 => row w "FMUL" [] (.fmul (fld w 31 1) (fld w 30 1) (fld w 29 1) (fld w 17 5) (fld w 12 5) (fld w 7 5))
  | 3 => row w "FDIV" [] (.fdiv (fld w 31 1) (fld w 30 1) (fld w 29 1) (fld w 17 5) (fld w 12 5) (fld w 7 5))
  | 4 => row w "FSQRT" [(17, 5, 0), (30, 1, 0)] (.fsqrt (fld w 31 1) (fld w 29 1) (fld w 12 5) (fld w 7 5))
  | 5 => row w "FMIN" [] (.fmin (fld w 31 1) (fld w 30 1) (fld w 29 1) (fld w 17 5) (fld w 12 5) (fld w 7 5))
  | 6 => row w "FMAX" [] (.fmax (fld w 31 1) (fld w 30 1) (fld w 29 1) (fld w 17 5) (fld w 12 5) (fld w 7 5))
  | 16 => row w "FCVT" [(30, 1, 0)] (.fcvt (fld w 31 1) (fld w 29 1) (fld w 21 1) (fld w 20 1) (fld w 17 3) (fld w 12 5) (fld w 7 5))
  | k => .error (.unassignedFunction 24 k)

/-- GATHER by mode (R167). -/
def decodeGather (w : Nat) : Except Reject Instr :=
  match w / 2 ^ 28 % 2 ^ 4 with
  | 0 => row w "GATHER_LIST" [(17, 11, 0)] (.gatherList (fld w 12 5) (fld w 7 5))
  | 1 => row w "GATHER_SPR" [(17, 11, 0)] (.gatherSpr (fld w 12 5) (fld w 7 5))
  | k => .error (.unassignedFunction 82 k)

/-- SCATTER by mode (R167). -/
def decodeScatter (w : Nat) : Except Reject Instr :=
  match w / 2 ^ 28 % 2 ^ 4 with
  | 0 => row w "SCATTER_LIST" [(17, 11, 0)] (.scatterList (fld w 12 5) (fld w 7 5))
  | 1 => row w "SCATTER_SPR" [(17, 11, 0)] (.scatterSpr (fld w 12 5) (fld w 7 5))
  | k => .error (.unassignedFunction 83 k)

/-- MERGE by mode (R167). -/
def decodeMerge (w : Nat) : Except Reject Instr :=
  match w / 2 ^ 28 % 2 ^ 4 with
  | 0 => row w "MERGE_M0" [(17, 11, 0)] (.mergeM0 (fld w 12 5) (fld w 7 5))
  | 1 => row w "MERGE_M1" [(17, 11, 0)] (.mergeM1 (fld w 12 5) (fld w 7 5))
  | 2 => row w "MERGE_M2" [(17, 11, 0)] (.mergeM2 (fld w 12 5) (fld w 7 5))
  | 3 => row w "MERGE_M3" [(17, 11, 0)] (.mergeM3 (fld w 12 5) (fld w 7 5))
  | k => .error (.unassignedFunction 84 k)

/-- TINV by mode (R167). -/
def decodeTinv (w : Nat) : Except Reject Instr :=
  match w / 2 ^ 28 % 2 ^ 4 with
  | 0 => row w "TINV_RANGE" [(17, 8, 0)] (.tinvRange (fld w 25 3) (fld w 12 5) (fld w 7 5))
  | 1 => row w "TINV_ASID" [(17, 8, 0)] (.tinvAsid (fld w 25 3) (fld w 12 5) (fld w 7 5))
  | 2 => row w "TINV_ALL" [(17, 8, 0)] (.tinvAll (fld w 25 3) (fld w 12 5) (fld w 7 5))
  | k => .error (.unassignedFunction 87 k)

/-- The vector arithmetic group, by fn6 (R173). -/
def decodeVector (w : Nat) : Except Reject Instr :=
  match w / 2 ^ 26 % 2 ^ 6 with
  | 0 => row w "VADD" [(11, 1, 0)] (.vadd (fld w 22 4) (fld w 21 1) (fld w 17 4) (fld w 16 1) (fld w 12 4) (fld w 7 4))
  | 1 => row w "VSUB" [(11, 1, 0)] (.vsub (fld w 22 4) (fld w 21 1) (fld w 17 4) (fld w 16 1) (fld w 12 4) (fld w 7 4))
  | 2 => row w "VMUL" [(11, 1, 0)] (.vmul (fld w 22 4) (fld w 21 1) (fld w 17 4) (fld w 16 1) (fld w 12 4) (fld w 7 4))
  | 3 => row w "VMAX" [(11, 1, 0)] (.vmax (fld w 22 4) (fld w 21 1) (fld w 17 4) (fld w 16 1) (fld w 12 4) (fld w 7 4))
  | 4 => row w "VMIN" [(11, 1, 0)] (.vmin (fld w 22 4) (fld w 21 1) (fld w 17 4) (fld w 16 1) (fld w 12 4) (fld w 7 4))
  | 5 => row w "VEXP" [(11, 1, 0), (17, 5, 0)] (.vexp (fld w 22 4) (fld w 16 1) (fld w 12 4) (fld w 7 4))
  | 6 => row w "VRCP" [(11, 1, 0), (17, 5, 0)] (.vrcp (fld w 22 4) (fld w 16 1) (fld w 12 4) (fld w 7 4))
  | 7 => row w "VRSQ" [(11, 1, 0), (17, 5, 0)] (.vrsq (fld w 22 4) (fld w 16 1) (fld w 12 4) (fld w 7 4))
  | 8 => row w "VBIT_AND" [(11, 1, 0)] (.vbitAnd (fld w 22 4) (fld w 21 1) (fld w 17 4) (fld w 16 1) (fld w 12 4) (fld w 7 4))
  | 9 => row w "VBIT_OR" [(11, 1, 0)] (.vbitOr (fld w 22 4) (fld w 21 1) (fld w 17 4) (fld w 16 1) (fld w 12 4) (fld w 7 4))
  | 10 => row w "VBIT_XOR" [(11, 1, 0)] (.vbitXor (fld w 22 4) (fld w 21 1) (fld w 17 4) (fld w 16 1) (fld w 12 4) (fld w 7 4))
  | 11 => row w "VBIT_ANDN" [(11, 1, 0)] (.vbitAndn (fld w 22 4) (fld w 21 1) (fld w 17 4) (fld w 16 1) (fld w 12 4) (fld w 7 4))
  | 12 => row w "VSHF_L" [(11, 1, 0)] (.vshfL (fld w 22 4) (fld w 21 1) (fld w 17 4) (fld w 16 1) (fld w 12 4) (fld w 7 4))
  | 13 => row w "VSHF_R" [(11, 1, 0)] (.vshfR (fld w 22 4) (fld w 21 1) (fld w 17 4) (fld w 16 1) (fld w 12 4) (fld w 7 4))
  | 14 => row w "VSHF_RA" [(11, 1, 0)] (.vshfRa (fld w 22 4) (fld w 21 1) (fld w 17 4) (fld w 16 1) (fld w 12 4) (fld w 7 4))
  | k => .error (.unassignedFunction 104 k)

/-- The forms of VMOV, by fn6 (R168). -/
def decodeVmov (w : Nat) : Except Reject Instr :=
  match w / 2 ^ 26 % 2 ^ 6 with
  | 0 => row w "VMOV" [(11, 1, 0), (17, 5, 0)] (.vmov (fld w 22 4) (fld w 16 1) (fld w 12 4) (fld w 7 4))
  | 1 => row w "VMOV_INS" [(11, 1, 0)] (.vmovIns (fld w 22 4) (fld w 17 5) (fld w 12 5) (fld w 7 4))
  | 2 => row w "VMOV_EXT" [(16, 1, 0)] (.vmovExt (fld w 22 4) (fld w 17 5) (fld w 12 4) (fld w 7 5))
  | k => .error (.unassignedFunction 113 k)

/-- MTS by register number: thirteen registers have a row of their own (R319, R400). -/
def decodeMts (w : Nat) : Except Reject Instr :=
  match w / 2 ^ 17 % 2 ^ 12 with
  | 0 => row w "MTS_SR_STATUS" [(7, 5, 0), (30, 2, 0)] (.mtsSrStatus (fld w 29 1) (fld w 12 5))
  | 9 => row w "MTS_SR_TCMP" [(7, 5, 0), (30, 2, 0)] (.mtsSrTcmp (fld w 29 1) (fld w 12 5))
  | 17 => row w "MTS_SR_TCAUSE" [(7, 5, 0), (30, 2, 0)] (.mtsSrTcause (fld w 29 1) (fld w 12 5))
  | 20 => row w "MTS_SR_IPEND" [(7, 5, 0), (30, 2, 0)] (.mtsSrIpend (fld w 29 1) (fld w 12 5))
  | 24 => row w "MTS_SR_ASID" [(7, 5, 0), (30, 2, 0)] (.mtsSrAsid (fld w 29 1) (fld w 12 5))
  | 34 => row w "MTS_SR_ENGERR" [(7, 5, 0), (30, 2, 0)] (.mtsSrEngerr (fld w 29 1) (fld w 12 5))
  | 64 => row w "MTS_SR_LVLINT" [(7, 5, 0), (30, 2, 0)] (.mtsSrLvlint (fld w 29 1) (fld w 12 5))
  | 65 => row w "MTS_SR_MUCHECK" [(7, 5, 0), (30, 2, 0)] (.mtsSrMucheck (fld w 29 1) (fld w 12 5))
  | 66 => row w "MTS_SR_PBOUND" [(7, 5, 0), (30, 2, 0)] (.mtsSrPbound (fld w 29 1) (fld w 12 5))
  | 80 => row w "MTS_SR_AGE" [(7, 5, 0), (30, 2, 0)] (.mtsSrAge (fld w 29 1) (fld w 12 5))
  | 81 => row w "MTS_SR_PREEMPTWAIT" [(7, 5, 0), (30, 2, 0)] (.mtsSrPreemptwait (fld w 29 1) (fld w 12 5))
  | 88 => row w "MTS_SR_RAMPUP" [(7, 5, 0), (30, 2, 0)] (.mtsSrRampup (fld w 29 1) (fld w 12 5))
  | 89 => row w "MTS_SR_RAMPDOWN" [(7, 5, 0), (30, 2, 0)] (.mtsSrRampdown (fld w 29 1) (fld w 12 5))
  | _ => row w "MTS" [(7, 5, 0), (30, 2, 0)] (.mts (fld w 29 1) (fld w 17 12) (fld w 12 5))

/-- The decoder of pip words: the major opcode selects the row (R171), a group's function field its member,
and every fixed bit must hold (R161 step 2: bits are never ignored). Total: a word that is no instruction
is rejected by name. -/
def decode (w : Nat) : Except Reject Instr :=
  match w % 128 with
  | 0x01 => row w "NOP" [(7, 25, 0)] .nop
  | 0x02 => decodeAlu w
  | 0x03 => row w "ADD_I" [(30, 1, 0)] (.addI (fld w 31 1) (fld w 29 1) (fld w 17 12) (fld w 12 5) (fld w 7 5))
  | 0x04 => row w "AND_I" [(30, 1, 0)] (.andI (fld w 31 1) (fld w 29 1) (fld w 17 12) (fld w 12 5) (fld w 7 5))
  | 0x05 => row w "OR_I" [(30, 1, 0)] (.orI (fld w 31 1) (fld w 29 1) (fld w 17 12) (fld w 12 5) (fld w 7 5))
  | 0x06 => row w "XOR_I" [(30, 1, 0)] (.xorI (fld w 31 1) (fld w 29 1) (fld w 17 12) (fld w 12 5) (fld w 7 5))
  | 0x07 => row w "SHL_I" [(30, 1, 0)] (.shlI (fld w 31 1) (fld w 29 1) (fld w 17 12) (fld w 12 5) (fld w 7 5))
  | 0x08 => row w "SHR_I" [(30, 1, 0)] (.shrI (fld w 31 1) (fld w 29 1) (fld w 17 12) (fld w 12 5) (fld w 7 5))
  | 0x09 => row w "SRA_I" [(30, 1, 0)] (.sraI (fld w 31 1) (fld w 29 1) (fld w 17 12) (fld w 12 5) (fld w 7 5))
  | 0x0A => row w "ROT_I" [(30, 1, 0)] (.rotI (fld w 31 1) (fld w 29 1) (fld w 17 12) (fld w 12 5) (fld w 7 5))
  | 0x0B => row w "MUL_I" [(30, 1, 0)] (.mulI (fld w 31 1) (fld w 29 1) (fld w 17 12) (fld w 12 5) (fld w 7 5))
  | 0x0C => row w "BFX" [(30, 2, 0)] (.bfx (fld w 29 1) (fld w 23 6) (fld w 17 6) (fld w 12 5) (fld w 7 5))
  | 0x0D => row w "BFI" [(30, 2, 0)] (.bfi (fld w 29 1) (fld w 23 6) (fld w 17 6) (fld w 12 5) (fld w 7 5))
  | 0x0E => row w "LI" [] (.li (fld w 12 20) (fld w 7 5))
  | 0x0F => row w "LIH" [(30, 2, 0)] (.lih (fld w 28 2) (fld w 12 16) (fld w 7 5))
  | 0x10 => decodeCmp w
  | 0x11 => row w "FCMP" [(11, 1, 0), (23, 6, 0)] (.fcmp (fld w 29 3) (fld w 22 1) (fld w 17 5) (fld w 12 5) (fld w 7 4))
  | 0x12 => row w "PREP" [(11, 1, 0)] (.prep (fld w 12 20) (fld w 7 4))
  | 0x13 => row w "PREPR" [(11, 1, 0), (29, 3, 0)] (.prepr (fld w 17 12) (fld w 12 5) (fld w 7 4))
  | 0x14 => row w "BR" [(11, 1, 0), (14, 18, 0)] (.br (fld w 12 2) (fld w 7 4))
  | 0x15 => row w "CALL" [(11, 21, 0)] (.call (fld w 7 4))
  | 0x16 => row w "RET" [(7, 25, 0)] .ret
  | 0x18 => decodeFloat w
  | 0x19 => row w "FFMA" [(27, 2, 0)] (.ffma (fld w 31 1) (fld w 30 1) (fld w 29 1) (fld w 22 5) (fld w 17 5) (fld w 12 5) (fld w 7 5))
  | 0x20 => row w "LD" [] (.ld (fld w 31 1) (fld w 30 1) (fld w 28 2) (fld w 25 3) (fld w 17 8) (fld w 12 5) (fld w 7 5))
  | 0x21 => row w "ST" [] (.st (fld w 31 1) (fld w 30 1) (fld w 28 2) (fld w 25 3) (fld w 17 8) (fld w 12 5) (fld w 7 5))
  | 0x22 => row w "LDV" [(11, 1, 0), (28, 2, 3)] (.ldv (fld w 31 1) (fld w 30 1) (fld w 25 3) (fld w 17 8) (fld w 12 5) (fld w 7 4))
  | 0x23 => row w "STV" [(11, 1, 0), (28, 2, 3)] (.stv (fld w 31 1) (fld w 30 1) (fld w 25 3) (fld w 17 8) (fld w 12 5) (fld w 7 4))
  | 0x24 => row w "LDVX" [(11, 1, 0), (21, 4, 0), (29, 1, 1)] (.ldvx (fld w 31 1) (fld w 30 1) (fld w 28 1) (fld w 25 3) (fld w 17 4) (fld w 12 5) (fld w 7 4))
  | 0x25 => row w "STVX" [(11, 1, 0), (21, 4, 0), (29, 1, 1)] (.stvx (fld w 31 1) (fld w 30 1) (fld w 28 1) (fld w 25 3) (fld w 17 4) (fld w 12 5) (fld w 7 4))
  | 0x26 => row w "AMO" [] (.amo (fld w 31 1) (fld w 30 1) (fld w 29 1) (fld w 26 3) (fld w 22 4) (fld w 17 5) (fld w 12 5) (fld w 7 5))
  | 0x27 => row w "CAS" [(22, 4, 0)] (.cas (fld w 31 1) (fld w 30 1) (fld w 29 1) (fld w 26 3) (fld w 17 5) (fld w 12 5) (fld w 7 5))
  | 0x28 => row w "RED" [(7, 5, 0), (26, 3, 0)] (.red (fld w 31 1) (fld w 30 1) (fld w 29 1) (fld w 22 4) (fld w 17 5) (fld w 12 5))
  | 0x29 => row w "FENCE" [(7, 18, 0), (30, 2, 0)] (.fence (fld w 28 2) (fld w 25 3))
  | 0x2A => row w "MARK" [(7, 25, 0)] .mark
  | 0x2B => row w "PREF" [(25, 6, 24)] (.pref (fld w 31 1) (fld w 17 8) (fld w 12 5) (fld w 7 5))
  | 0x2C => row w "CPIN" [(25, 6, 24)] (.cpin (fld w 31 1) (fld w 17 8) (fld w 12 5) (fld w 7 5))
  | 0x2D => row w "CUNPIN" [(7, 5, 0), (25, 6, 24)] (.cunpin (fld w 31 1) (fld w 17 8) (fld w 12 5))
  | 0x2E => row w "CFLUSH" [(7, 5, 0), (25, 6, 24)] (.cflush (fld w 31 1) (fld w 17 8) (fld w 12 5))
  | 0x30 => row w "LDL" [] (.ldl (fld w 31 1) (fld w 30 1) (fld w 28 2) (fld w 25 3) (fld w 17 8) (fld w 12 5) (fld w 7 5))
  | 0x31 => row w "STL" [] (.stl (fld w 31 1) (fld w 30 1) (fld w 28 2) (fld w 25 3) (fld w 17 8) (fld w 12 5) (fld w 7 5))
  | 0x32 => row w "LDLV" [(11, 1, 0), (28, 2, 3)] (.ldlv (fld w 31 1) (fld w 30 1) (fld w 25 3) (fld w 17 8) (fld w 12 5) (fld w 7 4))
  | 0x33 => row w "STLV" [(11, 1, 0), (28, 2, 3)] (.stlv (fld w 31 1) (fld w 30 1) (fld w 25 3) (fld w 17 8) (fld w 12 5) (fld w 7 4))
  | 0x34 => row w "AMOL" [] (.amol (fld w 31 1) (fld w 30 1) (fld w 29 1) (fld w 26 3) (fld w 22 4) (fld w 17 5) (fld w 12 5) (fld w 7 5))
  | 0x38 => row w "POPEN" [(22, 7, 0), (31, 1, 0)] (.popen (fld w 30 1) (fld w 29 1) (fld w 17 5) (fld w 12 5) (fld w 7 5))
  | 0x39 => row w "SEAL" [(17, 12, 0), (30, 2, 0)] (.seal (fld w 29 1) (fld w 12 5) (fld w 7 5))
  | 0x3A => row w "PSTAT" [(19, 10, 0), (30, 2, 0)] (.pstat (fld w 29 1) (fld w 17 2) (fld w 12 5) (fld w 7 5))
  | 0x3B => row w "PFREE" [(17, 12, 0), (30, 2, 0)] (.pfree (fld w 29 1) (fld w 12 5) (fld w 7 5))
  | 0x3C => row w "PRESET" [(7, 5, 0), (22, 7, 0), (31, 1, 0)] (.preset (fld w 30 1) (fld w 29 1) (fld w 17 5) (fld w 12 5))
  | 0x40 => row w "BARI" [(7, 5, 0), (22, 7, 0), (31, 1, 0)] (.bari (fld w 30 1) (fld w 29 1) (fld w 17 5) (fld w 12 5))
  | 0x41 => row w "BARA" [(7, 5, 0), (17, 12, 0), (30, 2, 0)] (.bara (fld w 29 1) (fld w 12 5))
  | 0x42 => row w "BARW" [(17, 15, 0)] (.barw (fld w 12 5) (fld w 7 5))
  | 0x43 => row w "WAITGE" [] (.waitge (fld w 28 4) (fld w 25 3) (fld w 22 3) (fld w 17 5) (fld w 12 5) (fld w 7 5))
  | 0x44 => row w "SENDR" [(22, 7, 0), (31, 1, 0)] (.sendr (fld w 30 1) (fld w 29 1) (fld w 17 5) (fld w 12 5) (fld w 7 5))
  | 0x45 => row w "PAUSE" [(7, 25, 0)] .pause
  | 0x48 => row w "FORK" [(11, 1, 0), (17, 15, 0)] (.fork (fld w 12 5) (fld w 7 4))
  | 0x49 => row w "JOIN" [(7, 5, 0), (17, 15, 0)] (.join (fld w 12 5))
  | 0x4A => row w "DONE" [(7, 25, 0)] .done
  | 0x4B => row w "LAUNCH" [(17, 15, 0)] (.launch (fld w 12 5) (fld w 7 5))
  | 0x50 => row w "COPY" [(17, 5, 0), (25, 7, 0)] (.copy (fld w 22 3) (fld w 12 5) (fld w 7 5))
  | 0x51 => row w "MCAST" [(17, 5, 0), (25, 7, 0)] (.mcast (fld w 22 3) (fld w 12 5) (fld w 7 5))
  | 0x52 => decodeGather w
  | 0x53 => decodeScatter w
  | 0x54 => decodeMerge w
  | 0x55 => row w "MTASK" [(17, 15, 0)] (.mtask (fld w 12 5) (fld w 7 5))
  | 0x56 => row w "MLOAD" [(17, 15, 0)] (.mload (fld w 12 5) (fld w 7 5))
  | 0x57 => decodeTinv w
  | 0x58 => row w "PGALLOC" [(17, 15, 0)] (.pgalloc (fld w 12 5) (fld w 7 5))
  | 0x59 => row w "PGFREE" [(17, 15, 0)] (.pgfree (fld w 12 5) (fld w 7 5))
  | 0x5A => row w "PGFORK" [(17, 15, 0)] (.pgfork (fld w 12 5) (fld w 7 5))
  | 0x5B => row w "PGLOOK" [(17, 15, 0)] (.pglook (fld w 12 5) (fld w 7 5))
  | 0x5C => row w "PGINS" [(17, 15, 0)] (.pgins (fld w 12 5) (fld w 7 5))
  | 0x5D => row w "PGSHIFT" [(17, 15, 0)] (.pgshift (fld w 12 5) (fld w 7 5))
  | 0x5E => row w "KVAPP" [(17, 15, 0)] (.kvapp (fld w 12 5) (fld w 7 5))
  | 0x5F => row w "KVLD" [(17, 15, 0)] (.kvld (fld w 12 5) (fld w 7 5))
  | 0x60 => row w "ATTN" [(17, 15, 0)] (.attn (fld w 12 5) (fld w 7 5))
  | 0x68 => decodeVector w
  | 0x69 => row w "VFMA" [(11, 1, 0), (26, 6, 0)] (.vfma (fld w 22 4) (fld w 21 1) (fld w 17 4) (fld w 16 1) (fld w 12 4) (fld w 7 4))
  | 0x6A => row w "VCVT" [(11, 1, 0), (17, 5, 0), (31, 1, 0)] (.vcvt (fld w 30 1) (fld w 26 4) (fld w 22 4) (fld w 16 1) (fld w 12 4) (fld w 7 4))
  | 0x6B => row w "VCMP" [(11, 1, 0), (30, 2, 0)] (.vcmp (fld w 29 1) (fld w 26 3) (fld w 22 4) (fld w 21 1) (fld w 17 4) (fld w 16 1) (fld w 12 4) (fld w 7 4))
  | 0x6C => row w "VSEL" [(11, 1, 0), (30, 2, 0)] (.vsel (fld w 26 4) (fld w 22 4) (fld w 21 1) (fld w 17 4) (fld w 16 1) (fld w 12 4) (fld w 7 4))
  | 0x6D => row w "VPERM" [(11, 1, 0), (26, 6, 0)] (.vperm (fld w 22 4) (fld w 21 1) (fld w 17 4) (fld w 16 1) (fld w 12 4) (fld w 7 4))
  | 0x6E => row w "VRED" [(11, 1, 0), (17, 5, 0), (29, 3, 0)] (.vred (fld w 26 3) (fld w 22 4) (fld w 16 1) (fld w 12 4) (fld w 7 4))
  | 0x6F => row w "VMAXI" [(11, 1, 0), (26, 6, 0)] (.vmaxi (fld w 22 4) (fld w 21 1) (fld w 17 4) (fld w 16 1) (fld w 12 4) (fld w 7 4))
  | 0x70 => row w "VBCAST" [(11, 1, 0), (17, 5, 0), (26, 6, 0)] (.vbcast (fld w 22 4) (fld w 12 5) (fld w 7 4))
  | 0x71 => decodeVmov w
  | 0x72 => row w "VCOMP" [(11, 1, 0), (26, 6, 0)] (.vcomp (fld w 22 4) (fld w 21 1) (fld w 17 4) (fld w 16 1) (fld w 12 4) (fld w 7 4))
  | 0x78 => row w "ECALL" [(7, 25, 0)] .ecall
  | 0x79 => row w "ERET" [(7, 25, 0)] .eret
  | 0x7A => row w "BRK" [(7, 25, 0)] .brk
  | 0x7B => row w "WFI" [(7, 25, 0)] .wfi
  | 0x7C => row w "MFS" [(12, 5, 0), (29, 3, 0)] (.mfs (fld w 17 12) (fld w 7 5))
  | 0x7D => decodeMts w
  | k => .error (.unassignedOpcode k)

/-- The natural number whose little-endian bytes are `bs` (R1). -/
def leValue : List Byte → Nat
  | [] => 0
  | b :: bs => b.toNat + 256 * leValue bs

/-- The `n` little-endian bytes of `x` (R1). -/
def leBytes : Nat → Nat → List Byte
  | 0, _ => []
  | n + 1, x => BitVec.ofNat 8 x :: leBytes n (x / 256)

/-- Decode the instruction at the head of a list of bytes, and the bytes after it (R158). -/
def decodeBytes : List Byte → Except Reject (Instr × List Byte)
  | a :: b :: c :: d :: rest =>
    match decode (leValue [a, b, c, d]) with
    | .ok i => .ok (i, rest)
    | .error e => .error e
  | _ => .error .short

/-- What the decoder reads from an instruction whose bits are `w`, bit 0 the least significant bit of the
first word. Every instruction of the L9 with a word is one 32-bit word (R158). -/
def decodeTableWord (nbits w : Nat) : Option Instr :=
  match decodeBytes (leBytes 4 (w % 2 ^ nbits)) with
  | .ok (i, _) => some i
  | .error _ => none

/-- A word from the value of its fixed bits and its fields, each a low bit and a value. -/
def packed : Nat → List (Nat × Nat) → Nat
  | base, [] => base
  | base, (lo, v) :: fs => packed (base + v * 2 ^ lo) fs

/-- The encoder: the word of an instruction, from the same tables; an event has none. -/
def Instr.encode : Instr → Option Nat
  | .nop => some (packed 0x00000001 [])
  | .add w y x b a d => some (packed 0x00000002 [(31, w.toNat), (30, y.toNat), (29, x.toNat), (17, b.toNat), (12, a.toNat), (7, d.toNat)])
  | .sub w y x b a d => some (packed 0x00400002 [(31, w.toNat), (30, y.toNat), (29, x.toNat), (17, b.toNat), (12, a.toNat), (7, d.toNat)])
  | .mul w y x b a d => some (packed 0x00800002 [(31, w.toNat), (30, y.toNat), (29, x.toNat), (17, b.toNat), (12, a.toNat), (7, d.toNat)])
  | .mulh w y x b a d => some (packed 0x00C00002 [(31, w.toNat), (30, y.toNat), (29, x.toNat), (17, b.toNat), (12, a.toNat), (7, d.toNat)])
  | .mulhZ w y x b a d => some (packed 0x01000002 [(31, w.toNat), (30, y.toNat), (29, x.toNat), (17, b.toNat), (12, a.toNat), (7, d.toNat)])
  | .div w y x b a d => some (packed 0x01400002 [(31, w.toNat), (30, y.toNat), (29, x.toNat), (17, b.toNat), (12, a.toNat), (7, d.toNat)])
  | .divZ w y x b a d => some (packed 0x01800002 [(31, w.toNat), (30, y.toNat), (29, x.toNat), (17, b.toNat), (12, a.toNat), (7, d.toNat)])
  | .rem w y x b a d => some (packed 0x01C00002 [(31, w.toNat), (30, y.toNat), (29, x.toNat), (17, b.toNat), (12, a.toNat), (7, d.toNat)])
  | .remZ w y x b a d => some (packed 0x02000002 [(31, w.toNat), (30, y.toNat), (29, x.toNat), (17, b.toNat), (12, a.toNat), (7, d.toNat)])
  | .and w y x b a d => some (packed 0x02400002 [(31, w.toNat), (30, y.toNat), (29, x.toNat), (17, b.toNat), (12, a.toNat), (7, d.toNat)])
  | .or w y x b a d => some (packed 0x02800002 [(31, w.toNat), (30, y.toNat), (29, x.toNat), (17, b.toNat), (12, a.toNat), (7, d.toNat)])
  | .xor w y x b a d => some (packed 0x02C00002 [(31, w.toNat), (30, y.toNat), (29, x.toNat), (17, b.toNat), (12, a.toNat), (7, d.toNat)])
  | .shl w y x b a d => some (packed 0x03000002 [(31, w.toNat), (30, y.toNat), (29, x.toNat), (17, b.toNat), (12, a.toNat), (7, d.toNat)])
  | .shr w y x b a d => some (packed 0x03400002 [(31, w.toNat), (30, y.toNat), (29, x.toNat), (17, b.toNat), (12, a.toNat), (7, d.toNat)])
  | .sra w y x b a d => some (packed 0x03800002 [(31, w.toNat), (30, y.toNat), (29, x.toNat), (17, b.toNat), (12, a.toNat), (7, d.toNat)])
  | .rot w y x b a d => some (packed 0x03C00002 [(31, w.toNat), (30, y.toNat), (29, x.toNat), (17, b.toNat), (12, a.toNat), (7, d.toNat)])
  | .min w y x b a d => some (packed 0x04000002 [(31, w.toNat), (30, y.toNat), (29, x.toNat), (17, b.toNat), (12, a.toNat), (7, d.toNat)])
  | .minZ w y x b a d => some (packed 0x04400002 [(31, w.toNat), (30, y.toNat), (29, x.toNat), (17, b.toNat), (12, a.toNat), (7, d.toNat)])
  | .max w y x b a d => some (packed 0x04800002 [(31, w.toNat), (30, y.toNat), (29, x.toNat), (17, b.toNat), (12, a.toNat), (7, d.toNat)])
  | .maxZ w y x b a d => some (packed 0x04C00002 [(31, w.toNat), (30, y.toNat), (29, x.toNat), (17, b.toNat), (12, a.toNat), (7, d.toNat)])
  | .clz w x a d => some (packed 0x05000002 [(31, w.toNat), (29, x.toNat), (12, a.toNat), (7, d.toNat)])
  | .ctz w x a d => some (packed 0x05400002 [(31, w.toNat), (29, x.toNat), (12, a.toNat), (7, d.toNat)])
  | .popc w x a d => some (packed 0x05800002 [(31, w.toNat), (29, x.toNat), (12, a.toNat), (7, d.toNat)])
  | .ext x k a d => some (packed 0x05C00002 [(29, x.toNat), (17, k.toNat), (12, a.toNat), (7, d.toNat)])
  | .hash w y x b a d => some (packed 0x06400002 [(31, w.toNat), (30, y.toNat), (29, x.toNat), (17, b.toNat), (12, a.toNat), (7, d.toNat)])
  | .sel w y x n b a d => some (packed 0x08000002 [(31, w.toNat), (30, y.toNat), (29, x.toNat), (22, n.toNat), (17, b.toNat), (12, a.toNat), (7, d.toNat)])
  | .addI w x i a d => some (packed 0x00000003 [(31, w.toNat), (29, x.toNat), (17, i.toNat), (12, a.toNat), (7, d.toNat)])
  | .andI w x i a d => some (packed 0x00000004 [(31, w.toNat), (29, x.toNat), (17, i.toNat), (12, a.toNat), (7, d.toNat)])
  | .orI w x i a d => some (packed 0x00000005 [(31, w.toNat), (29, x.toNat), (17, i.toNat), (12, a.toNat), (7, d.toNat)])
  | .xorI w x i a d => some (packed 0x00000006 [(31, w.toNat), (29, x.toNat), (17, i.toNat), (12, a.toNat), (7, d.toNat)])
  | .shlI w x i a d => some (packed 0x00000007 [(31, w.toNat), (29, x.toNat), (17, i.toNat), (12, a.toNat), (7, d.toNat)])
  | .shrI w x i a d => some (packed 0x00000008 [(31, w.toNat), (29, x.toNat), (17, i.toNat), (12, a.toNat), (7, d.toNat)])
  | .sraI w x i a d => some (packed 0x00000009 [(31, w.toNat), (29, x.toNat), (17, i.toNat), (12, a.toNat), (7, d.toNat)])
  | .rotI w x i a d => some (packed 0x0000000A [(31, w.toNat), (29, x.toNat), (17, i.toNat), (12, a.toNat), (7, d.toNat)])
  | .mulI w x i a d => some (packed 0x0000000B [(31, w.toNat), (29, x.toNat), (17, i.toNat), (12, a.toNat), (7, d.toNat)])
  | .bfx x l p a d => some (packed 0x0000000C [(29, x.toNat), (23, l.toNat), (17, p.toNat), (12, a.toNat), (7, d.toNat)])
  | .bfi x l p a d => some (packed 0x0000000D [(29, x.toNat), (23, l.toNat), (17, p.toNat), (12, a.toNat), (7, d.toNat)])
  | .li i d => some (packed 0x0000000E [(12, i.toNat), (7, d.toNat)])
  | .lih h i d => some (packed 0x0000000F [(28, h.toNat), (12, i.toNat), (7, d.toNat)])
  | .cmp c b a e => some (packed 0x00000010 [(29, c.toNat), (17, b.toNat), (12, a.toNat), (7, e.toNat)])
  | .cmpI c i a e => some (packed 0x00000810 [(29, c.toNat), (17, i.toNat), (12, a.toNat), (7, e.toNat)])
  | .fcmp c f b a e => some (packed 0x00000011 [(29, c.toNat), (22, f.toNat), (17, b.toNat), (12, a.toNat), (7, e.toNat)])
  | .prep i e => some (packed 0x00000012 [(12, i.toNat), (7, e.toNat)])
  | .prepr i a e => some (packed 0x00000013 [(17, i.toNat), (12, a.toNat), (7, e.toNat)])
  | .br k e => some (packed 0x00000014 [(12, k.toNat), (7, e.toNat)])
  | .call e => some (packed 0x00000015 [(7, e.toNat)])
  | .ret => some (packed 0x00000016 [])
  | .fadd w y x b a d => some (packed 0x00000018 [(31, w.toNat), (30, y.toNat), (29, x.toNat), (17, b.toNat), (12, a.toNat), (7, d.toNat)])
  | .fsub w y x b a d => some (packed 0x00400018 [(31, w.toNat), (30, y.toNat), (29, x.toNat), (17, b.toNat), (12, a.toNat), (7, d.toNat)])
  | .fmul w y x b a d => some (packed 0x00800018 [(31, w.toNat), (30, y.toNat), (29, x.toNat), (17, b.toNat), (12, a.toNat), (7, d.toNat)])
  | .fdiv w y x b a d => some (packed 0x00C00018 [(31, w.toNat), (30, y.toNat), (29, x.toNat), (17, b.toNat), (12, a.toNat), (7, d.toNat)])
  | .fsqrt w x a d => some (packed 0x01000018 [(31, w.toNat), (29, x.toNat), (12, a.toNat), (7, d.toNat)])
  | .fmin w y x b a d => some (packed 0x01400018 [(31, w.toNat), (30, y.toNat), (29, x.toNat), (17, b.toNat), (12, a.toNat), (7, d.toNat)])
  | .fmax w y x b a d => some (packed 0x01800018 [(31, w.toNat), (30, y.toNat), (29, x.toNat), (17, b.toNat), (12, a.toNat), (7, d.toNat)])
  | .fcvt w x s r t a d => some (packed 0x04000018 [(31, w.toNat), (29, x.toNat), (21, s.toNat), (20, r.toNat), (17, t.toNat), (12, a.toNat), (7, d.toNat)])
  | .ffma w y x c b a d => some (packed 0x00000019 [(31, w.toNat), (30, y.toNat), (29, x.toNat), (22, c.toNat), (17, b.toNat), (12, a.toNat), (7, d.toNat)])
  | .ld x o s c i a t => some (packed 0x00000020 [(31, x.toNat), (30, o.toNat), (28, s.toNat), (25, c.toNat), (17, i.toNat), (12, a.toNat), (7, t.toNat)])
  | .st x o s c i a t => some (packed 0x00000021 [(31, x.toNat), (30, o.toNat), (28, s.toNat), (25, c.toNat), (17, i.toNat), (12, a.toNat), (7, t.toNat)])
  | .ldv x o c i a v => some (packed 0x30000022 [(31, x.toNat), (30, o.toNat), (25, c.toNat), (17, i.toNat), (12, a.toNat), (7, v.toNat)])
  | .stv x o c i a v => some (packed 0x30000023 [(31, x.toNat), (30, o.toNat), (25, c.toNat), (17, i.toNat), (12, a.toNat), (7, v.toNat)])
  | .ldvx x o s c j a v => some (packed 0x20000024 [(31, x.toNat), (30, o.toNat), (28, s.toNat), (25, c.toNat), (17, j.toNat), (12, a.toNat), (7, v.toNat)])
  | .stvx x o s c j a v => some (packed 0x20000025 [(31, x.toNat), (30, o.toNat), (28, s.toNat), (25, c.toNat), (17, j.toNat), (12, a.toNat), (7, v.toNat)])
  | .amo w r q c o b a d => some (packed 0x00000026 [(31, w.toNat), (30, r.toNat), (29, q.toNat), (26, c.toNat), (22, o.toNat), (17, b.toNat), (12, a.toNat), (7, d.toNat)])
  | .cas w r q c b a d => some (packed 0x00000027 [(31, w.toNat), (30, r.toNat), (29, q.toNat), (26, c.toNat), (17, b.toNat), (12, a.toNat), (7, d.toNat)])
  | .red w y x o b a => some (packed 0x00000028 [(31, w.toNat), (30, y.toNat), (29, x.toNat), (22, o.toNat), (17, b.toNat), (12, a.toNat)])
  | .fence k c => some (packed 0x00000029 [(28, k.toNat), (25, c.toNat)])
  | .mark => some (packed 0x0000002A [])
  | .pref x i a h => some (packed 0x3000002B [(31, x.toNat), (17, i.toNat), (12, a.toNat), (7, h.toNat)])
  | .cpin x i a d => some (packed 0x3000002C [(31, x.toNat), (17, i.toNat), (12, a.toNat), (7, d.toNat)])
  | .cunpin x i a => some (packed 0x3000002D [(31, x.toNat), (17, i.toNat), (12, a.toNat)])
  | .cflush x i a => some (packed 0x3000002E [(31, x.toNat), (17, i.toNat), (12, a.toNat)])
  | .ldl x j s q i a t => some (packed 0x00000030 [(31, x.toNat), (30, j.toNat), (28, s.toNat), (25, q.toNat), (17, i.toNat), (12, a.toNat), (7, t.toNat)])
  | .stl x j s q i a t => some (packed 0x00000031 [(31, x.toNat), (30, j.toNat), (28, s.toNat), (25, q.toNat), (17, i.toNat), (12, a.toNat), (7, t.toNat)])
  | .ldlv x j q i a v => some (packed 0x30000032 [(31, x.toNat), (30, j.toNat), (25, q.toNat), (17, i.toNat), (12, a.toNat), (7, v.toNat)])
  | .stlv x j q i a v => some (packed 0x30000033 [(31, x.toNat), (30, j.toNat), (25, q.toNat), (17, i.toNat), (12, a.toNat), (7, v.toNat)])
  | .amol w r q c o b a d => some (packed 0x00000034 [(31, w.toNat), (30, r.toNat), (29, q.toNat), (26, c.toNat), (22, o.toNat), (17, b.toNat), (12, a.toNat), (7, d.toNat)])
  | .popen y x b a d => some (packed 0x00000038 [(30, y.toNat), (29, x.toNat), (17, b.toNat), (12, a.toNat), (7, d.toNat)])
  | .seal x a d => some (packed 0x00000039 [(29, x.toNat), (12, a.toNat), (7, d.toNat)])
  | .pstat x w a d => some (packed 0x0000003A [(29, x.toNat), (17, w.toNat), (12, a.toNat), (7, d.toNat)])
  | .pfree x a d => some (packed 0x0000003B [(29, x.toNat), (12, a.toNat), (7, d.toNat)])
  | .preset y x b a => some (packed 0x0000003C [(30, y.toNat), (29, x.toNat), (17, b.toNat), (12, a.toNat)])
  | .bari y x b a => some (packed 0x00000040 [(30, y.toNat), (29, x.toNat), (17, b.toNat), (12, a.toNat)])
  | .bara x a => some (packed 0x00000041 [(29, x.toNat), (12, a.toNat)])
  | .barw a d => some (packed 0x00000042 [(12, a.toNat), (7, d.toNat)])
  | .waitge m c n b a d => some (packed 0x00000043 [(28, m.toNat), (25, c.toNat), (22, n.toNat), (17, b.toNat), (12, a.toNat), (7, d.toNat)])
  | .sendr y x b a d => some (packed 0x00000044 [(30, y.toNat), (29, x.toNat), (17, b.toNat), (12, a.toNat), (7, d.toNat)])
  | .pause => some (packed 0x00000045 [])
  | .fork a e => some (packed 0x00000048 [(12, a.toNat), (7, e.toNat)])
  | .join a => some (packed 0x00000049 [(12, a.toNat)])
  | .done => some (packed 0x0000004A [])
  | .launch a d => some (packed 0x0000004B [(12, a.toNat), (7, d.toNat)])
  | .copy n a d => some (packed 0x00000050 [(22, n.toNat), (12, a.toNat), (7, d.toNat)])
  | .mcast n a d => some (packed 0x00000051 [(22, n.toNat), (12, a.toNat), (7, d.toNat)])
  | .gatherList a d => some (packed 0x00000052 [(12, a.toNat), (7, d.toNat)])
  | .gatherSpr a d => some (packed 0x10000052 [(12, a.toNat), (7, d.toNat)])
  | .scatterList a d => some (packed 0x00000053 [(12, a.toNat), (7, d.toNat)])
  | .scatterSpr a d => some (packed 0x10000053 [(12, a.toNat), (7, d.toNat)])
  | .mergeM0 a d => some (packed 0x00000054 [(12, a.toNat), (7, d.toNat)])
  | .mergeM1 a d => some (packed 0x10000054 [(12, a.toNat), (7, d.toNat)])
  | .mergeM2 a d => some (packed 0x20000054 [(12, a.toNat), (7, d.toNat)])
  | .mergeM3 a d => some (packed 0x30000054 [(12, a.toNat), (7, d.toNat)])
  | .mtask a d => some (packed 0x00000055 [(12, a.toNat), (7, d.toNat)])
  | .mload a d => some (packed 0x00000056 [(12, a.toNat), (7, d.toNat)])
  | .tinvRange c a d => some (packed 0x00000057 [(25, c.toNat), (12, a.toNat), (7, d.toNat)])
  | .tinvAsid c a d => some (packed 0x10000057 [(25, c.toNat), (12, a.toNat), (7, d.toNat)])
  | .tinvAll c a d => some (packed 0x20000057 [(25, c.toNat), (12, a.toNat), (7, d.toNat)])
  | .pgalloc a d => some (packed 0x00000058 [(12, a.toNat), (7, d.toNat)])
  | .pgfree a d => some (packed 0x00000059 [(12, a.toNat), (7, d.toNat)])
  | .pgfork a d => some (packed 0x0000005A [(12, a.toNat), (7, d.toNat)])
  | .pglook a d => some (packed 0x0000005B [(12, a.toNat), (7, d.toNat)])
  | .pgins a d => some (packed 0x0000005C [(12, a.toNat), (7, d.toNat)])
  | .pgshift a d => some (packed 0x0000005D [(12, a.toNat), (7, d.toNat)])
  | .kvapp a d => some (packed 0x0000005E [(12, a.toNat), (7, d.toNat)])
  | .kvld a d => some (packed 0x0000005F [(12, a.toNat), (7, d.toNat)])
  | .attn a d => some (packed 0x00000060 [(12, a.toNat), (7, d.toNat)])
  | .vadd t y b x a d => some (packed 0x00000068 [(22, t.toNat), (21, y.toNat), (17, b.toNat), (16, x.toNat), (12, a.toNat), (7, d.toNat)])
  | .vsub t y b x a d => some (packed 0x04000068 [(22, t.toNat), (21, y.toNat), (17, b.toNat), (16, x.toNat), (12, a.toNat), (7, d.toNat)])
  | .vmul t y b x a d => some (packed 0x08000068 [(22, t.toNat), (21, y.toNat), (17, b.toNat), (16, x.toNat), (12, a.toNat), (7, d.toNat)])
  | .vmax t y b x a d => some (packed 0x0C000068 [(22, t.toNat), (21, y.toNat), (17, b.toNat), (16, x.toNat), (12, a.toNat), (7, d.toNat)])
  | .vmin t y b x a d => some (packed 0x10000068 [(22, t.toNat), (21, y.toNat), (17, b.toNat), (16, x.toNat), (12, a.toNat), (7, d.toNat)])
  | .vexp t x a d => some (packed 0x14000068 [(22, t.toNat), (16, x.toNat), (12, a.toNat), (7, d.toNat)])
  | .vrcp t x a d => some (packed 0x18000068 [(22, t.toNat), (16, x.toNat), (12, a.toNat), (7, d.toNat)])
  | .vrsq t x a d => some (packed 0x1C000068 [(22, t.toNat), (16, x.toNat), (12, a.toNat), (7, d.toNat)])
  | .vbitAnd t y b x a d => some (packed 0x20000068 [(22, t.toNat), (21, y.toNat), (17, b.toNat), (16, x.toNat), (12, a.toNat), (7, d.toNat)])
  | .vbitOr t y b x a d => some (packed 0x24000068 [(22, t.toNat), (21, y.toNat), (17, b.toNat), (16, x.toNat), (12, a.toNat), (7, d.toNat)])
  | .vbitXor t y b x a d => some (packed 0x28000068 [(22, t.toNat), (21, y.toNat), (17, b.toNat), (16, x.toNat), (12, a.toNat), (7, d.toNat)])
  | .vbitAndn t y b x a d => some (packed 0x2C000068 [(22, t.toNat), (21, y.toNat), (17, b.toNat), (16, x.toNat), (12, a.toNat), (7, d.toNat)])
  | .vshfL t y b x a d => some (packed 0x30000068 [(22, t.toNat), (21, y.toNat), (17, b.toNat), (16, x.toNat), (12, a.toNat), (7, d.toNat)])
  | .vshfR t y b x a d => some (packed 0x34000068 [(22, t.toNat), (21, y.toNat), (17, b.toNat), (16, x.toNat), (12, a.toNat), (7, d.toNat)])
  | .vshfRa t y b x a d => some (packed 0x38000068 [(22, t.toNat), (21, y.toNat), (17, b.toNat), (16, x.toNat), (12, a.toNat), (7, d.toNat)])
  | .vfma t y b x a d => some (packed 0x00000069 [(22, t.toNat), (21, y.toNat), (17, b.toNat), (16, x.toNat), (12, a.toNat), (7, d.toNat)])
  | .vcvt u s d x a v => some (packed 0x0000006A [(30, u.toNat), (26, s.toNat), (22, d.toNat), (16, x.toNat), (12, a.toNat), (7, v.toNat)])
  | .vcmp l c t y b x a e => some (packed 0x0000006B [(29, l.toNat), (26, c.toNat), (22, t.toNat), (21, y.toNat), (17, b.toNat), (16, x.toNat), (12, a.toNat), (7, e.toNat)])
  | .vsel m t y b x a d => some (packed 0x0000006C [(26, m.toNat), (22, t.toNat), (21, y.toNat), (17, b.toNat), (16, x.toNat), (12, a.toNat), (7, d.toNat)])
  | .vperm t y b x a d => some (packed 0x0000006D [(22, t.toNat), (21, y.toNat), (17, b.toNat), (16, x.toNat), (12, a.toNat), (7, d.toNat)])
  | .vred o t x a d => some (packed 0x0000006E [(26, o.toNat), (22, t.toNat), (16, x.toNat), (12, a.toNat), (7, d.toNat)])
  | .vmaxi t y b x a d => some (packed 0x0000006F [(22, t.toNat), (21, y.toNat), (17, b.toNat), (16, x.toNat), (12, a.toNat), (7, d.toNat)])
  | .vbcast t g d => some (packed 0x00000070 [(22, t.toNat), (12, g.toNat), (7, d.toNat)])
  | .vmov t x a d => some (packed 0x00000071 [(22, t.toNat), (16, x.toNat), (12, a.toNat), (7, d.toNat)])
  | .vmovIns t l g d => some (packed 0x04000071 [(22, t.toNat), (17, l.toNat), (12, g.toNat), (7, d.toNat)])
  | .vmovExt t l a g => some (packed 0x08000071 [(22, t.toNat), (17, l.toNat), (12, a.toNat), (7, g.toNat)])
  | .vcomp t y b x a d => some (packed 0x00000072 [(22, t.toNat), (21, y.toNat), (17, b.toNat), (16, x.toNat), (12, a.toNat), (7, d.toNat)])
  | .ecall => some (packed 0x00000078 [])
  | .eret => some (packed 0x00000079 [])
  | .brk => some (packed 0x0000007A [])
  | .wfi => some (packed 0x0000007B [])
  | .mfs n d => some (packed 0x0000007C [(17, n.toNat), (7, d.toNat)])
  | .mts x n a => some (packed 0x0000007D [(29, x.toNat), (17, n.toNat), (12, a.toNat)])
  | .mtsSrStatus x a => some (packed 0x0000007D [(29, x.toNat), (12, a.toNat)])
  | .mtsSrTcmp x a => some (packed 0x0012007D [(29, x.toNat), (12, a.toNat)])
  | .mtsSrTcause x a => some (packed 0x0022007D [(29, x.toNat), (12, a.toNat)])
  | .mtsSrIpend x a => some (packed 0x0028007D [(29, x.toNat), (12, a.toNat)])
  | .mtsSrAsid x a => some (packed 0x0030007D [(29, x.toNat), (12, a.toNat)])
  | .mtsSrEngerr x a => some (packed 0x0044007D [(29, x.toNat), (12, a.toNat)])
  | .mtsSrLvlint x a => some (packed 0x0080007D [(29, x.toNat), (12, a.toNat)])
  | .mtsSrMucheck x a => some (packed 0x0082007D [(29, x.toNat), (12, a.toNat)])
  | .mtsSrPbound x a => some (packed 0x0084007D [(29, x.toNat), (12, a.toNat)])
  | .mtsSrAge x a => some (packed 0x00A0007D [(29, x.toNat), (12, a.toNat)])
  | .mtsSrPreemptwait x a => some (packed 0x00A2007D [(29, x.toNat), (12, a.toNat)])
  | .mtsSrRampup x a => some (packed 0x00B0007D [(29, x.toNat), (12, a.toNat)])
  | .mtsSrRampdown x a => some (packed 0x00B2007D [(29, x.toNat), (12, a.toNat)])
  | .fullBitResultWrite _ _ => none
  | .homeL2Access _ _ _ _ => none
  | .deferredFault _ _ => none
  | .redMerge _ _ => none
  | .waitFullRead _ _ => none
  | .trapEntry _ => none
  | .timer _ => none
  | .messagePost _ _ _ => none
  | .messageDeliver _ => none
  | .taskStart _ => none
  | .dequeLevelling _ => none
  | .migrationDepart _ => none
  | .migrantResume _ _ => none
  | .engineCommandAccept _ _ => none
  | .engineCommandComplete _ _ => none
  | .engineHandoff _ _ => none
  | .mloadPerform _ => none
  | .tinvComplete _ _ => none
  | .podTimerExpiry _ _ => none
  | .sealSlot _ _ _ => none
  | .sealComplete _ _ => none
  | .taskDispatch _ => none
  | .matrixBundleIssue _ => none
  | .muDelayedWrite _ => none
  | .tileLoadServiceEnd _ => none
  | .tileStoreServiceEnd _ => none
  | .tsigSignal _ => none
  | .taskEnd _ => none
  | .fillerMma _ => none
  | .hostLaunchSubmit _ _ _ => none
  | .launchPlacement _ _ _ => none
  | .aging _ _ => none
  | .preemptionStart _ _ => none
  | .contextSave _ => none
  | .contextResume _ => none
  | .launchComplete _ => none
  | .rdReq _ => none
  | .atReq _ => none
  | .wrReq _ => none
  | .mcwReq _ _ => none
  | .migReq _ => none
  | .fwdReq _ => none
  | .ackResp _ => none
  | .dataResp _ => none
  | .refuseResp _ => none
  | .mackResp _ => none
  | .mrefResp _ => none
  | .confResp _ => none
  | .unknownKindPacket _ => none
  | .linkFlitReceive _ _ => none
  | .idleFlit _ => none
  | .linkDead _ => none
  | .routeChangeStart _ _ => none
  | .routeTablesInstall _ => none
  | .flipBroadcast => none
  | .flip _ => none
  | .routeVersionFree => none
  | .timeSyncExchange _ _ => none
  | .timeSyncLoss => none
  | .staggerSubmit _ _ _ _ => none
  | .stagger _ _ _ _ => none
  | .startGateOpen _ => none
  | .windowOpen _ => none
  | .windowRead _ _ _ => none
  | .windowWrite _ _ _ => none
  | .rankTableInstall _ _ _ => none
  | .readStepRecord => none
  | .clearStepEntry _ => none
  | .readAstBase => none
  | .readRoutingTables => none
  | .setPowerState _ => none
  | .setPowerCap _ => none
  | .setRampRegisters _ _ => none
  | .lifecycleMove _ _ => none
  | .debugLevelEnter _ _ => none
  | .debugTokenExpiry => none
  | .debugHalt _ _ => none
  | .debugMemoryAccess _ => none
  | .debugReadCounters => none
  | .attestationRequest _ => none
  | .powerLimitTrip _ => none
  | .startUp _ => none
  | .nearLocalAccess _ _ => none
  | .engineAccess _ _ _ => none
  | .illegalInstruction _ => none
  | .fetchFault => none
  | .firmwareLaunch _ _ _ => none
  | .launchRecordDelivery _ _ _ _ _ => none
  | .partCompleteReport _ _ _ => none
  | .rankRelocation _ _ _ _ _ _ => none

/-- The word of an instruction as a number; 0 for an event. -/
def Instr.word (i : Instr) : Nat := i.encode.getD 0

end Sys2Proof
end

