-- ==== Sys2Proof/Config.lean ====
section
/-! DEFINITION. What the manual leaves to the implementation or open: free values, which nothing constrains,
and the functions of firmware and cryptography whose keys the manual does not give. None has a body. -/

namespace Sys2Proof

/-- A byte whose value the manual leaves open, one for each value of the state's counter `fresh`
(what an access of a pip reads from a line with an uncorrectable memory error). -/
opaque Config.freeByte : Nat → Byte

/-- A 64-bit value the manual leaves open. -/
opaque Config.freeWord : Nat → Word

/-- The public keys of the manufacturer and of the firmware's releases (R323), and the owner key that a move to SECURED fuses. -/
opaque Config.manufacturingKey : List Byte
opaque Config.releaseKey : List Byte
opaque Config.ownerKey : List Byte

/-- The key under which a lifecycle move from a state verifies, and the bytes signed for a move (R323, R324): the spec names neither. -/
opaque Config.moveKey : Lifecycle → List Byte
opaque Config.moveMessage : Lifecycle → Lifecycle → List Byte

/-- The identity key (R325), by tree: 0 the top one, n + 1 that which the top one's leaf n signs: the identifier of a tree, the
secret strings of its leaves by leaf and place, and the string that a signature by a leaf is randomised with. -/
opaque Config.treeId : Nat → Vector Byte 16
opaque Config.otsSecret : Nat → Nat → Nat → Vector Byte 32
opaque Config.otsRandom : Nat → Nat → Vector Byte 32

/-- The module's serial number, to which a debug token is bound (R325). -/
opaque Config.serial : Nat

/-- The nonces the module issues for debug tokens, by number (R325). -/
opaque Config.tokenNonce : Nat → Vector Byte 32

/-- The mesh router of a die's endpoint that is no cluster, by TYPE, die and UNIT, and of a port: the spec gives only those
of the clusters (R9, R271). -/
opaque Config.meshNode : Nat → Nat → Nat → Nat
opaque Config.portNode : Nat → Nat

/-- The space for responses that an origin keeps beyond one gang's, and the egress slots in the forward class that a target
keeps beyond one (R278, R279), by the TYPE of the endpoint. -/
opaque Config.responseSpace : Nat → Nat
opaque Config.forwardSlots : Nat → Nat

/-- By how many slots the ingress buffer of a virtual channel of a link exceeds the largest packet (R281). -/
opaque Config.depth : Nat → Nat

end Sys2Proof
end

