-- ==== Sys2Proof/Machine/Parts.lean ====
section
/-! DEFINITION. The parts of the machine's state as plain data: pips, their outstanding operations, clusters,
engines, matrix units, launches and the fabric. Every field is named after what the manual calls it. -/

namespace Sys2Proof.Machine

/-- Sparse data by number: the keys rise strictly, and an absent key has the reader's default. -/
abbrev Map (α : Type) := List (Nat × α)

/-- The states of a 16-byte granule (R79). -/
inductive Gran where
  | empty | full | closed | sealed
  deriving DecidableEq, Repr

/-- A steer register (R36): the condition bit, the target-valid bit and the target. -/
structure Steer where
  c : Bool := false
  tv : Bool := false
  t : Word := 0
  deriving DecidableEq, Repr

/-- The destination of an operation of the full-bit class (R30); `none` for an operation outside it. -/
inductive Dest where
  | none
  | g (r : Reg)
  | v (r : Reg4)
  deriving DecidableEq, Repr

/-- What an engine command asks for (R224, R251, R261). -/
inductive CmdKind where
  | copy | mcast
  | gatherList | gatherSpr | scatterList | scatterSpr
  | merge (mode : Nat)
  | mtask | mload
  | pgalloc | pgfree | pgfork | pglook | pgins | pgshift | kvapp
  | kvld | attn
  | launch
  deriving DecidableEq, Repr

/-- What an outstanding operation of a pip does. Addresses are the computed ones. `pieces` are the (address,
bytes) parts of a vector access in lane order. -/
inductive OpKind where
  | loadG (pieces : List (Word × Nat))
  | storeG (pieces : List (Word × Nat)) (data : List Byte)
  | atomicG (addr : Word) (bytes op : Nat) (operand : Word)
  | casG (addr : Word) (bytes : Nat) (expected new : Word)
  | redG (addr : Word) (bytes op : Nat) (operand : Word)
  | pinG (addr : Word)
  | unpinG (addr : Word)
  | flushG (addr : Word)
  | loadL (addr : Word) (bytes : Nat) (q : Nat)
  | storeL (addr : Word) (data : List Byte) (setFull : Bool)
  | atomicL (addr : Word) (bytes op : Nat) (operand : Word)
  /-- PRESET: the next granule and how many are left (R410). -/
  | presetL (first count : Nat)
  /-- The granule change of POPEN or PFREE on a footprint, with the banks it is still due in (R404, R407). -/
  | footL (first count : Nat) (state : Gran) (banks : List Nat)
  | joinL (addr : Word)
  | bariL (addr : Word) (count : Nat)
  | baraL (addr : Word)
  | barwL (addr : Word) (found : Option Nat)
  | waitge (e : EngineRef) (value : Word)
  | command (kind : CmdKind) (record : Word) (channel : Nat)
  | tinv (mode : Nat) (record : Word)
  /-- The result is known at issue (DIV, VRED and the like). -/
  | pure
  | mark
  | fence (kind : Nat)
  deriving DecidableEq, Repr

/-- A line that a global load needs and its core's L1 does not hold (R67, R68): the leaf's R and U bits, and the halves that
have come from a home L2 on another die. -/
structure Fetch where
  vline : Nat
  pline : Nat
  r : Bool
  u : Bool
  halves : List (Option (List Byte)) := [none, none]
  deriving DecidableEq, Repr

/-- How far an outstanding operation has come. -/
inductive Phase where
  /-- Not performed. -/
  | waiting
  /-- Its packet is on its way or awaits an answer (R98, remote accesses). -/
  | sent
  /-- A RED whose partial value lies in an update-only line (R70). -/
  | deposited
  /-- Translation failed: a replay entry with its cause and address (R316). -/
  | deferred (cause : Nat) (addr : Word)
  /-- A command that reads in another module before it is accepted: the bytes so far, and what it awaits (0 nothing,
  1 a read, 2 the barrier's answer). -/
  | fetching (side : List (Option Byte)) (stage : Nat)
  /-- An accepted TINV with the commands ahead of its markers (R244), or an accepted MLOAD with its own (R396). -/
  | accepted (ahead : List (EngineRef × Nat))
  /-- Performed; the result waits to be written. -/
  | done
  deriving DecidableEq, Repr

/-- An outstanding operation of a pip (R30, R99). Operations stand in program order. -/
structure Op where
  id : Nat
  kind : OpKind
  dest : Dest := .none
  /-- The scope of its acquire, if it is one (R107). -/
  acq : Option Nat := Option.none
  /-- The scope of its release, if it is one (R107). -/
  rel : Option Nat := Option.none
  /-- The cycle of its issue (R78: oldest first). -/
  born : Nat := 0
  /-- The address-space identifier and the mode of its issue (R66). -/
  asid : BitVec 16 := 0
  mode : Bool := false
  phase : Phase := .waiting
  result : VWord := 0
  /-- The record of a TINV as it was read when the TINV was accepted (R428), or of a command as it was read when its acceptance began
  (R227). -/
  data : List Byte := []
  /-- Where reads of a command that is being accepted have been refused: recorded at its issuer if it is accepted (R89, R227). -/
  refusals : List Word := []
  /-- The lines that a load has asked of other dies, and the pieces of a store that has begun and are not performed: virtual and
  physical address, bytes (R98). -/
  fetch : List Fetch := []
  parts : List (Word × Nat × List Byte) := []
  /-- The cycle since which a command has stood at the head of its store queue (R225), and the modules whose part of a TINV is not
  over (R429). -/
  head : Option Nat := Option.none
  modules : List Nat := []
  deriving DecidableEq, Repr

/-- What an engine or a matrix unit tells the pip that issued a command: an error (R243), as the fields of SR_ENGERR and the address, or
a refused access (R89). -/
inductive PipNews where
  | error (eng cause detail id : Nat) (addr : Word)
  | refusal (addr : Word)
  deriving DecidableEq, Repr

/-- Why a pip is parked (R23, R31). -/
inductive Park where
  /-- Until every one of these registers is full. -/
  | sources (gs : List Reg) (vs : List Reg4)
  /-- Until no operation of the full-bit class is outstanding on them. -/
  | written (gs : List Reg) (vs : List Reg4)
  /-- Until fewer than 16 operations of the full-bit class are outstanding (R30). -/
  | slots
  /-- SENDR: until the target's register is empty with nothing outstanding (R34). -/
  | target (slot : Nat) (r : Reg)
  /-- Until every earlier access is performed that a release at this scope waits for (R106). -/
  | release (scope : Nat)
  /-- FORK and a near JOIN: until nothing earlier holds back the update of the counter at this address (R110). -/
  | counter (a : Word)
  /-- DONE: until every operation of the full-bit class has written (R43). -/
  | drain
  /-- Before migration to the cluster of this address (R47 step 1). -/
  | migrate (a : Word)
  /-- PSTAT: until the seal of this pod completes (R94). -/
  | seal (pod : Nat)
  /-- PAUSE, until this cycle (R403). -/
  | pause (cycle : Nat)
  /-- WFI (R318). -/
  | wfi
  /-- JOIN: until this operation is performed (R42). -/
  | join (op : Nat)
  /-- ERET: until this replay entry is performed, or has failed again (R316, R317). -/
  | replay (op : Nat)
  deriving DecidableEq, Repr

/-- The condition of an occupied slot (R23); held is kept beside it. -/
inductive Cond where
  | ready
  | parked (why : Park)
  | idle
  | inTransit
  deriving DecidableEq, Repr

/-- A JOIN under way (R42): its address, the operation of its update, and the counter after it, once known. -/
structure Joined where
  pc : Word
  op : Nat
  result : Option Nat
  deriving DecidableEq, Repr

/-- A pip: its architectural state (R24) and what it has outstanding. -/
structure Pip where
  launch : BitVec 32 := 0
  cond : Cond := .ready
  /-- Held by debug, by the pre-emption of its cluster, by a launch fault (R23, R315). -/
  heldDebug : Bool := false
  heldPreempt : Bool := false
  heldFault : Bool := false
  pc : Word := 0
  g : Vector Word 32 := Vector.replicate 32 0
  gFull : BitVec 32 := BitVec.allOnes 32
  v : Vector VWord 16 := Vector.replicate 16 0
  vFull : BitVec 16 := BitVec.allOnes 16
  b : Vector Steer 12 := Vector.replicate 12 {}
  status : Word := 0
  pipid : Word := 0
  coord : Word := 0
  extent : Word := 0
  tcmp : Word := 0xFFFF_FFFF_FFFF_FFFF
  tvec : Word := 0
  tcause : Word := 0
  tval : Word := 0
  tpc : Word := 0
  ipend : Word := 0
  msg : Word := 0
  hsave : Word := 0
  asid : BitVec 16 := 0
  fpmode : Word := 0
  refused : Word := 0
  engerr : Word := 0
  /-- The SR_TVAL that REMOTE_REFUSED, ENGINE_ERROR and ENGINE_REJECT will write (R311). -/
  refusedVal : Word := 0
  engerrVal : Word := 0
  rejectVal : Word := 0
  ops : List Op := []
  nextOp : Nat := 0
  /-- A deferred trap not yet taken: cause and address (R316). -/
  deferredTrap : Option (Nat × Word) := none
  /-- Waiting messages, oldest first (R314), and whether the next is due after MESSAGE was cleared. -/
  messages : List Word := []
  lastIssue : Option Nat := none
  /-- Debug lets it issue one instruction (R324). -/
  stepping : Bool := false
  /-- The JOINs whose update has been issued and which have not gone on (R42). -/
  joined : List Joined := []
  /-- The address of a load whose migration was refused: it executes as a remote read (R47). -/
  stay : Option Word := none
  /-- The registers whose value a SENDR delivered: their first read is an acquire (R35). -/
  delivered : BitVec 32 := 0
  /-- The replay entries that an ERET under way has still to perform (R316). -/
  eret : Option (List Nat) := none
  /-- What has come to its origin slot for a pip on its way to another module, since it left this one (R48, R89, R243). -/
  news : List PipNews := []
  deriving DecidableEq, Repr

/-- A deque entry (R39): target, g4 to g7, join counter address. -/
structure Task4 where
  t : Word
  g4 : Word
  g5 : Word
  g6 : Word
  g7 : Word
  counter : Word
  deriving DecidableEq, Repr

/-- A line of a core's L1 data cache (R68). -/
structure Line where
  asid : BitVec 16
  vline : Nat
  data : List Byte
  r : Bool
  u : Bool
  deriving DecidableEq, Repr

/-- A line of a core's L1 instruction cache (R22, R124). -/
structure CodeLine where
  asid : BitVec 16
  vline : Nat
  data : List Byte
  x : Bool
  u : Bool
  deriving DecidableEq, Repr

/-- Where the values of an update-only line are: in the core's L1, to leave it for their home L2, or on their way there. -/
inductive RedWay where
  | here | leaving | sent
  deriving DecidableEq, Repr

/-- An update-only line of RED (R70): the elements touched with their partial values. -/
structure RedLine where
  asid : BitVec 16
  vline : Nat
  pline : Nat
  op : Nat
  bytes : Nat
  elems : Map Word
  /-- The REDs it holds, as (slot, operation). -/
  by_ : List (Nat × Nat)
  way : RedWay := .here
  deriving DecidableEq, Repr

/-- A line that a load has asked of another die and that the core's L1 may still keep: no event of R69, no store of the core
and no other copy of the line has come in between. -/
structure Awaited where
  slot : Nat
  op : Nat
  asid : BitVec 16
  vline : Nat
  deriving DecidableEq, Repr

/-- A core (R22): its deque with the most recent entry first, the slot that issued last, its L1 caches. -/
structure Core where
  deque : List Task4 := []
  lastSlot : Option Nat := none
  lastCycle : Option Nat := none
  lines : List Line := []
  code : List CodeLine := []
  reds : List RedLine := []
  awaited : List Awaited := []
  deriving DecidableEq, Repr

/-- A pod descriptor as its four words (R81). -/
structure Pod where
  w0 : Word := 0
  w1 : Word := 0
  w2 : Word := 0
  w3 : Word := 0
  deriving DecidableEq, Repr

/-- A seal under way (R90, R91): its seal point, the banks whose seal slot is due, the granules recorded FULL
and the cycle of its last seal slot. -/
structure Seal where
  pod : Nat
  point : Nat
  due : List Nat
  full : List Nat := []
  last : Nat := 0
  /-- Its seal point is a timer's (R90). -/
  timer : Bool := false
  /-- The command whose completion the seal holds back (R234). -/
  cmd : Option (EngineRef × Nat) := none
  deriving DecidableEq, Repr

/-- Who issued a command: launch, SR_PIPID, and the die, cluster and core it issued from. -/
structure Issuer where
  launch : BitVec 32
  pipid : Word
  cl : Nat
  core : Nat
  asid : BitVec 16
  mode : Bool
  job : Nat
  deriving DecidableEq, Repr

/-- Where a MERGE stands (R240, R241): entries taken from each stream, the heads read and not taken, the last keys taken,
the key being combined with its values, the entries output, and those not yet written. -/
structure MergeState where
  takenA : Nat := 0
  takenB : Nat := 0
  headA : Option (Nat × Nat) := none
  headB : Option (Nat × Nat) := none
  lastA : Option Nat := none
  lastB : Option Nat := none
  key : Option Nat := none
  valsA : List Nat := []
  valsB : List Nat := []
  out : Nat := 0
  buf : List Byte := []
  written : Nat := 0
  trunc : Bool := false
  unsorted : Option Bool := none
  counted : Bool := false
  deriving DecidableEq, Repr

/-- An accepted engine command (R224, R227). -/
structure Cmd where
  id : Nat
  kind : CmdKind
  issuer : Issuer
  record : List Byte
  /-- The destination clusters of a local destination: one, or those of a multicast (R235). -/
  targets : List Nat
  /-- What was read at acceptance: the index list, or the SPR header and slice table (R379). A byte whose read failed
  is absent. -/
  side : List (Option Byte) := []
  /-- Its first access has begun (R117). -/
  begun : Bool := false
  /-- Every piece below `next` is done, and those listed beyond it. -/
  next : Nat := 0
  finished : List Nat := []
  /-- Source bytes read by piece; a byte whose read was skipped is absent (R242). -/
  got : List (Nat × List (Option Byte)) := []
  /-- Packets unanswered: piece and cluster; and those not yet performed at their target. -/
  awaiting : List (Nat × Nat) := []
  unperformed : List (Nat × Nat) := []
  /-- By target: pieces performed, and the cycle of the last. -/
  performed : Map (Nat × Nat) := []
  /-- Bytes not yet subtracted from the barrier (R120). -/
  left : Nat := 0
  merge : MergeState := {}
  /-- Stopped at a failing access; handed to firmware (R242); the first failure, as SR_ENGERR's CAUSE and the address. -/
  stopped : Bool := false
  firmware : Bool := false
  error : Option (Nat × Word) := none
  /-- Targets whose seal has been requested (R234), those of a multicast that have had their arrival, and the arrival of another
  command; the subtraction at a barrier in another module has been sent. -/
  sealedIn : List Nat := []
  arrivedIn : List Nat := []
  arrived : Bool := false
  subSent : Bool := false
  /-- Bytes that a barrier in another module is still to lose, and that no packet has taken there yet (R120). -/
  owed : Nat := 0
  deriving DecidableEq, Repr

/-- An engine context (R225): the counter of identifiers, the timeline, what lies beyond it completed, the queue
with the oldest command first. -/
structure Ctx where
  counter : Nat := 1
  timeline : Nat := 0
  completed : List Nat := []
  queue : List Cmd := []
  deriving DecidableEq, Repr

/-- The tile type of an operand register (R194). -/
structure TileType where
  fmt : Nat := 0
  escapes : Bool := false
  grp : Nat := 0
  /-- The N of a pruned tile, or 0 when dense (R210). -/
  pruned : Nat := 0
  deriving DecidableEq, Repr

/-- An entry of an outlier buffer: its line, its position in the line, its bf16 value (R211). -/
structure Outlier where
  line : Nat
  pos : Nat
  value : BitVec 16
  deriving DecidableEq, Repr

/-- An operand register ta or tb (R194). Data short of 4,096 bytes stands for zero bytes after it. -/
structure Tile where
  data : List Byte := []
  buffer : List Outlier := []
  /-- Group parameter words per line, in order of the groups the line touches. -/
  params : List (List (BitVec 32)) := []
  /-- The positions kept of each line of a pruned tile. -/
  masks : List (List Nat) := []
  /-- The lines and the K positions that are absent because of a pod row's mask bit. -/
  absentLines : List Nat := []
  absentK : List Nat := []
  type : TileType := {}
  deriving DecidableEq, Repr

/-- A 64 by 64 block of f32 encodings, row after row; short of 4,096 entries it stands for zeros after it. -/
abbrev Block := List (BitVec 32)

/-- What a delayed write of the matrix unit does (R202). -/
inductive MuAct where
  | acc (n : Nat) (value : Block)
  /-- An MMA or MMAS reads its accumulator (at 64), and writes it 8 cycles later. -/
  | mma (n : Nat) (minus : Bool) (a : Tile) (bs : List Tile)
  | tile (side : Bool) (n : Nat) (value : Tile)
  /-- TLDV's 64 values. -/
  | tileValues (side : Bool) (n : Nat) (bytes : List Byte)
  | sl (value : BitVec 32)
  | lc (n value : Nat)
  | config (rm arr : Nat)
  deriving DecidableEq, Repr

/-- A register of the matrix unit, for the hazards of R205. -/
inductive MuReg where
  | acc (n : Nat) | tile (side : Bool) (n : Nat)
  deriving DecidableEq, Repr

/-- A read or write of a register by an operation, for the hazards of R205: its cycle, and the issue cycle of its bundle. -/
structure MuUse where
  reg : MuReg
  isWrite : Bool
  cycle : Nat
  bundle : Nat
  deriving DecidableEq, Repr

/-- A write due at a cycle; `order` is the program order of its operation. A tile load's is due when its service in the
read port ends (R203). -/
structure MuWrite where
  cycle : Nat
  order : Nat
  act : MuAct
  port : Bool := false
  deriving DecidableEq, Repr

/-- A TST or TSTX in the write port (R204): the end of its service, and its writes as (slot cycle, offset, bytes). -/
structure MuSave where
  ends : Nat
  writes : List (Nat × Nat × List Byte)
  deriving DecidableEq, Repr

/-- A TSIG whose effects are pending (R218): its signal cycle, the handle to seal, whether it arrives. -/
structure Tsig where
  cycle : Nat
  output : Option (BitVec 16)
  arrive : Bool
  deriving DecidableEq, Repr

/-- A matrix task in the dependency table (R196, R197). -/
structure MTask where
  id : Nat
  issuer : Issuer
  prog : Nat
  gang : Bool
  prio : Nat
  ins : List (BitVec 16)
  outs : List (BitVec 16)
  consume : Byte
  barrier : Word
  resultAt : Word
  scaleLog : Word
  /-- The issuer's identifier and cluster, for the parts of a gang task (R200). -/
  gangId : Nat
  gangCl : Nat
  deriving DecidableEq, Repr

/-- The stages of a running task and of its end (R219). -/
inductive EndStage where
  /-- Bundles issue. -/
  | running
  /-- MEND has issued, or a fault has been detected: what was issued completes. -/
  | over
  /-- The scale log is written; the outputs have their seal point in this cycle. -/
  | sealing (cycle : Nat)
  /-- The outputs' seals are under way. -/
  | closing
  /-- The issuer's part of a gang task is over, and another member's is not: step 6 waits. -/
  | passing
  deriving DecidableEq, Repr

/-- The running task (R199 to R223). -/
structure Run where
  task : MTask
  /-- Handles bound to h0 to h15. -/
  h : List (Option (BitVec 16)) := []
  /-- The mask and the leading outlier entries of each input, read at dispatch, by descriptor index. -/
  stores : List (Nat × Nat × List (BitVec 32)) := []
  check : Bool := false
  bound : Nat := 0
  pos : Nat := 0
  /-- The first bundle has issued; the issue cycle of the next. -/
  started : Bool := false
  due : Nat := 0
  lastPoint : Nat := 0
  /-- The program order of the next operation. -/
  order : Nat := 0
  writes : List MuWrite := []
  saves : List MuSave := []
  tsigs : List Tsig := []
  /-- The ends of the read port's, the write port's and the array's present work, and the last write of a TST or TSTX. -/
  readEnd : Nat := 0
  writeEnd : Nat := 0
  arrayEnd : Nat := 0
  savedBy : Nat := 0
  /-- Arrivals sent to another module and not yet answered. -/
  unanswered : Nat := 0
  uses : List MuUse := []
  log : List (BitVec 32) := []
  refused : Nat := 0
  /-- Outlier entries appended to each output, by its handle register. -/
  appended : Map Nat := []
  qmaxes : Nat := 0
  /-- CODE, POS and SLOT of the fault (R220). -/
  fault : Option (Nat × Nat × Nat) := none
  /-- SCALELOG broke R216. -/
  badLog : Bool := false
  stage : EndStage := .running
  deriving DecidableEq, Repr

/-- A program in the code memory (R182, R184): dictionary bundles and index entries. -/
structure Program where
  dict : List (BitVec 384)
  stream : List (BitVec 16)
  deriving DecidableEq, Repr

/-- The matrix unit of a cluster (R194). -/
structure MatrixUnit where
  acc : Map Block := []
  ta : Map Tile := []
  tb : Map Tile := []
  lc : List Nat := [0, 0, 0, 0]
  sl : BitVec 32 := 0
  rm : Nat := 0
  arr : Nat := 0
  table : List MTask := []
  programs : Map Program := []
  run : Option Run := none
  /-- The end of a filler MMA that has begun (R198). -/
  fillerEnd : Nat := 0
  /-- The first cycle in which a task may be dispatched again: the one after step 6 of the last task's end (R219). -/
  freeAt : Nat := 0
  /-- Halted by debug, and let issue one bundle (R324). -/
  halted : Bool := false
  stepping : Bool := false
  deriving DecidableEq, Repr

/-- A migrant in an inbox (R48, R49): its packet, and the messages that wait for it (R314). -/
structure Migrant where
  bytes : List Byte
  messages : List Word := []
  /-- The SR_TVAL of traps pending in the packet: REMOTE_REFUSED, ENGINE_ERROR, ENGINE_REJECT. -/
  refusedVal : Word := 0
  engerrVal : Word := 0
  rejectVal : Word := 0
  /-- The reading of global time that its pip may have had where it departed: it resumes at no lower one (R395). The model's own. -/
  notBefore : Nat := 0
  deriving DecidableEq, Repr

/-- A cluster: the context it holds and the cluster's own state. -/
structure Cluster where
  launch : Option (BitVec 32) := none
  spres : Nat := 0
  podBytes : Nat := 0
  podDesc : Nat := 0
  lvlInt : Word := 2048
  muCheck : Word := 0
  pBound : Word := 262144
  /-- Scratchpad bytes by offset; an unlisted byte is zero. -/
  sp : List Host.Cell := []
  /-- Granule states by granule number; an unlisted one is FULL in the plain region, CLOSED in the pod region. -/
  grans : Map Gran := []
  pods : Map Pod := []
  /-- The cycle in which each descriptor was last opened (R86), or its cluster resumed (R97): a deadline that has passed
  has its seal point after it. -/
  opened : Map Nat := []
  /-- Freed pods whose closing has not yet been performed in every bank (R404). -/
  freeing : List Pod := []
  seals : List Seal := []
  /-- The last cycle in which each bank gave a slot, plus one (R77). -/
  banks : Map Nat := []
  copies : List Ctx := [{}, {}, {}, {}]
  gather : Ctx := {}
  merge : Ctx := {}
  matrix : Ctx := {}
  mu : MatrixUnit := {}
  /-- The migrant inbox by entry (R48). -/
  inbox : Map Migrant := []
  /-- The cycle of the last levelling (R45). -/
  lastLevel : Option Nat := none
  deriving DecidableEq, Repr

/-- A translation in a die's TLB (R66): the page's first address bits, its size as a power of two, the leaf. -/
structure Tlb where
  asid : BitVec 16
  vpage : Nat
  size : Nat
  leaf : Word
  deriving DecidableEq, Repr

/-- A level entry of a launch record (R51). -/
structure Level where
  domain : Nat
  extent : Nat
  origin : Nat
  deriving DecidableEq, Repr

/-- A launch record (R50). -/
structure LaunchRecord where
  levels : List Level
  prio : Nat
  flags : Nat
  asid : BitVec 16
  entry : Word
  args : Word
  spres : Nat
  podBytes : Nat
  podDesc : Nat
  pinQuota : Nat
  doneAddr : Word
  doneVal : Word
  deriving DecidableEq, Repr

/-- Where a launch stands in its life on this module. -/
inductive LaunchPhase where
  | queued | resident | stopping | saved
  /-- Its part here is complete and other modules' parts are awaited (R59). -/
  | partDone
  deriving DecidableEq, Repr

/-- A launch (R50 to R59, R298 to R306). -/
structure Launch where
  id : BitVec 32
  job : Nat
  record : LaunchRecord
  phase : LaunchPhase := .queued
  /-- Submitted by LAUNCH (true) or by the host or firmware: which 512 entries it uses (R298). -/
  device : Bool
  /-- The queuing controller's die. -/
  die : Nat
  /-- Takes an entry of the controller until placed (a pre-empted launch takes none). -/
  entryHeld : Bool := true
  prio : Nat
  /-- The cycle of its entry into its present queue (below 0 when it precedes the last restart of the count, R19), and whether it stands at the head (R300). -/
  entered : Int
  atHead : Bool := false
  /-- Cycles queued before that entry (R300: total wait). -/
  waited : Nat := 0
  /-- The home module's MODID (R59). -/
  home : Nat
  /-- This module's coordinate in the fabric level, if the record has one; absent when it takes no part here. -/
  fabricCoord : Option Nat := some 0
  /-- Ranks whose parts are not yet complete, at the home module. -/
  partsLeft : List Nat := []
  discarded : Nat := 0
  /-- Its part here is complete and has been counted; and, at a module that is not its home, the launch itself is (R59). -/
  partOver : Bool := false
  ended : Bool := false
  clusters : List Nat := []
  placedAt : Int := 0
  /-- Placed or resumed at this cycle (R306: MINRES). -/
  residentSince : Nat := 0
  deriving DecidableEq, Repr

/-- A saved launch context (R309), with the whole image of each cluster it holds. -/
structure Saved where
  launch : BitVec 32
  job : Nat
  savedAt : Int
  clusters : Map Cluster
  /-- By cluster: how much of its scratchpad later launches have made the engine save (R309); the rest still stands there. -/
  copied : Map Nat := []
  deques : Map (List Task4)
  pips : Map Pip
  deriving DecidableEq, Repr

/-- What the control node knows of a job on this module (R290, R296). -/
structure Job where
  ranks : Map Word := []
  ownRank : Nat := 0
  epoch : Option Nat := none
  /-- The time at which the start gate opens; none when it is open. -/
  gate : Option Nat := none
  /-- The moving ranks for which it has reported that no packet is unconfirmed (R291). -/
  drained : List Nat := []
  deriving DecidableEq, Repr

/-- Whose access an outstanding packet carries. -/
inductive Origin where
  | pip (slot op : Nat)
  /-- A half (0 or 1) of a line that a load needs from a home L2 on another die, or a piece of another global access. -/
  | part (slot op piece : Nat)
  | engine (e : EngineRef) (id piece : Nat)
  | migrant (slot : Nat)
  /-- The recall of a core's update-only copy of a line (R279). -/
  | recall (core pline : Nat)
  /-- An update-only line that merges at a home L2 on another die (R70). -/
  | merge (core pline : Nat)
  /-- A part of what an agent of the module asks of home L2s on other dies, or writes there. -/
  | ask (id part : Nat)
  | firmware
  deriving DecidableEq, Repr

/-- An agent of the module that may read or write at home L2s before it can act. -/
inductive Asker where
  /-- A pip's operation: the walk of its translation, the command that it is (R66, R227). -/
  | op (slot op : Nat)
  /-- The fetch of the instruction at an address (R161). -/
  | fetch (slot : Nat) (pc : Word)
  /-- An access of an engine command (R244). -/
  | engine (e : EngineRef) (id piece : Nat)
  /-- An MLOAD at the head of the matrix unit's command queue (R396). -/
  | mload (cl id : Nat)
  /-- A prefetch (R408). -/
  | pref (core : Nat) (asid : BitVec 16) (mode : Bool) (a : Word) (toL1 : Bool)
  /-- The store of DONEVAL (R59). -/
  | launch (id : BitVec 32)
  /-- A request through the Milcy port (R322, R324). -/
  | host (i : Instr)
  /-- One that is gone, whose writes are still on their way. -/
  | gone
  deriving DecidableEq, Repr

/-- 64 bytes that an agent needs of a home L2 on another die: the endpoint that reads them, their number in physical memory,
whether the read has been sent, and what has come. -/
structure AskPart where
  src : Word
  part : Nat
  sent : Bool := false
  data : Option (List Byte) := none
  deriving DecidableEq, Repr

/-- What an agent has asked of home L2s: parts on other dies, lines of its own die whose update-only copies are recalled, and, once
its access has been performed as far as that, the writes that are still to be sent and how many have not been answered. A page
instruction holds its page unit so long (R251). -/
structure Ask where
  id : Nat
  who : Asker
  parts : List AskPart := []
  lines : List Nat := []
  unit : Option Word := none
  closing : Bool := false
  writes : List (Word × Nat × List Byte) := []
  acks : Nat := 0
  deriving DecidableEq, Repr

/-- An agent's access as it is being tried: the endpoint that reads and writes, what has come, what is missing, the lines of its own
die that must be recalled, what it writes on other dies, its page unit, and whether it must wait for that. -/
structure Reach where
  src : Word
  ask : Option Nat := none
  came : Map (List Byte) := []
  missing : List (Word × Nat) := []
  lines : List Nat := []
  writes : List (Word × Nat × List Byte) := []
  unit : Option Word := none
  waits : Bool := false
  deriving DecidableEq, Repr

/-- An outstanding request of this module (R282, R284): the latest copy injected, whether it is retained, and
whether its first response has completed the access. -/
structure Outstanding where
  origin : Origin
  packet : Packet
  retained : Bool
  completed : Bool := false
  deriving DecidableEq, Repr

/-- A receipt (R283). -/
structure Receipt where
  src : Word
  dst : Word
  seq : BitVec 16
  response : Packet
  deriving DecidableEq, Repr

/-- One end of a link, with its two directions (R272, R273, R281). -/
structure Link where
  dead : Bool := false
  used : List Nat := [0, 0, 0, 0, 0, 0, 0, 0]
  returned : List Nat := [0, 0, 0, 0, 0, 0, 0, 0]
  freed : List Nat := [0, 0, 0, 0, 0, 0, 0, 0]
  /-- Link sequence numbers: of the last flit sent, the highest received without error. -/
  sent : Nat := 0
  received : Nat := 0
  /-- The link buffer: what has been sent and is not known to have arrived, oldest first. -/
  buffer : List Flit := []
  /-- Consecutive arrivals that failed their check. -/
  retries : Nat := 0
  /-- When it last sent (in ns at a port, in cycles elsewhere), and when something last arrived (in ns). -/
  lastSend : Nat := 0
  lastArrival : Nat := 0
  /-- The bytes of packets that have arrived in part, by virtual channel. -/
  partly : Map (List Byte) := []
  deriving DecidableEq, Repr

/-- Where a packet stands: at a router of a die, or on a link whose sending end is numbered so. -/
inductive Spot where
  | router (die node : Nat)
  | link (l : Nat)
  deriving DecidableEq, Repr

/-- The way of a packet that has not been taken up: where it stands, and the receiving link end and virtual channel in whose
ingress buffer it lies. -/
structure Transit where
  spot : Spot
  held : Option (Nat × Nat) := none
  deriving DecidableEq, Repr

/-- How far a request that touches several bank lines has come: the bank lines served, the bytes read, the refusal. -/
structure Sink where
  lines : Nat := 0
  bytes : List Byte := []
  refusal : Option Nat := none
  deriving DecidableEq, Repr

/-- A change of routing version under way (R286): the tables that this module's dies have installed and the dies that have
flipped; at the route master also the plan, the pairs that it leaves unconnected, and the routers whose acknowledgements, of the
tables and of their flip, have come. -/
structure RouteChange where
  version : Byte
  tables : Tables := []
  flipped : List Nat := []
  plan : Tables := []
  unreachable : List (Nat × Nat) := []
  ackInstalled : List Nat := []
  broadcast : Bool := false
  ackFlipped : List Nat := []
  deriving DecidableEq, Repr

/-- A TINV of another module of a job, of scope job or system (R429): its record, and the commands here ahead of its markers. -/
structure ForeignTinv where
  job : Nat
  modid : Nat
  mode : Nat
  record : List Byte
  ahead : List (EngineRef × Nat)
  deriving DecidableEq, Repr

/-- A memory window (R321). -/
abbrev Window := WindowSpec

/-- What the module has reported or answered: through the Milcy port (R321), or to other modules (R59, R296, R303). -/
inductive Report where
  | ready (astBase : Nat)
  | stepOutcome (step : Nat) (entry : Word)
  | halted (step : Nat)
  | submitted (result : Word)
  | launchComplete (launch : BitVec 32) (discarded : Nat)
  | partComplete (launch : BitVec 32) (rank discarded : Nat)
  | recordSent (launch : BitVec 32) (rank : Nat)
  /-- A TINV of scope job or system goes to the job's other modules; another module's is over here (R429). -/
  | tinvSent (job mode : Nat) (record : List Byte)
  | tinvOver (modid : Nat)
  | launchFault (launch : BitVec 32) (pipid : Word) (cause : Nat) (pc : Word)
  | moduleFault (detail : Nat)
  | engineError (launch : BitVec 32) (pipid : Word) (record : Word) (addr : Word)
  | unreachable (a b : Nat)
  | syncLost
  | syncRecovered
  | windowData (window : Nat) (data : List Byte)
  | windowDone (window : Nat)
  | windowError (window : Nat)
  | windowOpened (window : Nat)
  | messagePosted (code : Nat)
  /-- The messages of a pip that migrated to another module pass to the die controller there (R314). -/
  | messagesPassed (launch : BitVec 32) (pipid : Word) (values : List Word)
  /-- What an engine here tells a pip that has migrated to another module goes there (R89, R243). -/
  | passedOn (launch : BitVec 32) (pipid : Word) (news : PipNews)
  | rankTable (job : Nat)
  | rankDrained (job rank : Nat)
  | stagger (job epoch t0 interval : Nat)
  | stepRecord (entries : List Word)
  | astBase (base : Nat)
  | routingTables (tables : Tables)
  | done (command : String)
  /-- A management command is refused, with the reason (R324). -/
  | refused (command reason : String)
  /-- The SMBus alert of a start that halts before step 13 (R326). -/
  | alert (step : Nat)
  | debugData (data : List Byte)
  | nonceIssued (nonce : List Byte)
  | counters (values : List Nat) (trace : List Byte)
  | attestation (nonce : List Byte) (modid : BitVec 20) (lifecycle : Lifecycle) (debug : DebugLevel)
      (firmware : List Byte) (records : List Byte) (signature : List Byte)
  | smbus (reading : LimitReading)
  deriving DecidableEq, Repr

/-- A turn of the environment and the schedulers: which agent acts next. -/
inductive Turn where
  /-- The next arithmetic clock cycle begins (R19). -/
  | tick
  /-- Global time advances (R295); by how much less in clusters whose reading ran ahead (R20). -/
  | time (ns : Nat) (less : List (Nat × Nat))
  /-- A core issues from this slot (R28). -/
  | issue (slot : Nat)
  /-- An event of the opcode table. -/
  | event (i : Instr)
  /-- A die controller adopts SR_AGE and SR_PREEMPTWAIT (R301). -/
  | adopt (die : Nat)
  /-- A line of HBM gains an uncorrectable error, or loses it (R242). -/
  | memoryError (pline : Nat) (bad : Bool)
  /-- A cluster's reading runs ahead of the master count by so many ns (R20). -/
  | skew (cl ns : Nat)
  /-- A CTL packet is taken up at its die controller (R276): a report, an acknowledgement, the freeing of a version. -/
  | control (packet : Nat)
  /-- A packet goes over a link, on a virtual channel (R277, R285, R466). -/
  | hop (packet link channel : Nat)
  /-- A packet queued for a dead link, or of an old version at a router, is dropped (R286, R287). -/
  | lose (packet : Nat)
  /-- An agent goes on with what it has asked of home L2s. -/
  | goOn (id : Nat)
  /-- The home module of a launch has completed it (R59). -/
  | launchOver (launch : BitVec 32)
  /-- The saved contexts and launches of a relocated rank arrive here (R291 step 3). -/
  | moveIn (contexts : List Saved) (launches : List Launch)
  /-- Another module withdraws a pip's waiting operation at its target (R308). -/
  | withdrawn (slot op : Nat)
  /-- The control node ends a job (R289): its packets are discarded with it. -/
  | endJob (job : Nat)
  /-- A barrier in another module has been read by a BARW of this module (R350, R351). -/
  | phaseRead (slot op phase : Nat)
  /-- The messages that pass to this module with a migrant from another (R314). -/
  | takeMessages (cl entry : Nat) (values : List Word)
  /-- An engine of another module tells a pip that has migrated to this one (R89, R243). -/
  | news (launch : BitVec 32) (pipid : Word) (x : PipNews)
  /-- A TINV of another module of a job reaches this one, and is over here once nothing stands ahead of its markers (R429). -/
  | tinvArrives (job modid mode : Nat) (record : List Byte)
  | tinvOver (index : Nat)
  /-- Another module's part of a TINV of this module is over (R123, R429). -/
  | tinvAnswered (slot op modid : Nat)
  /-- The module issues a nonce for a debug token (R325). -/
  | nonce
  /-- A translation leaves a full TLB, a clean line leaves an L1 (R66, R102). -/
  | dropTranslation (die index : Nat)
  | dropLine (core index : Nat)
  deriving DecidableEq, Repr

end Sys2Proof.Machine
end

