-- ==== Sys2Proof/Machine/State.lean ====
section
/-! DEFINITION. The state of one LS9-64 module as plain data, its reset value, and the reasons a step can stop.
What lies outside the module (other modules, the control node) acts through the arguments of events. -/

namespace Sys2Proof.Machine

/-- Why the machine stops. Ordinary data never stops it: traps, status codes and refusals are next states. -/
inductive Fault where
  /-- Raised by every meaning of an instruction word when `cur` names no occupied slot: an instruction is executed
  by a pip, and there is none. Safe: no behaviour of the hardware is asserted. -/
  | noPip
  deriving DecidableEq, Repr

/-- Why the model gives no meaning. -/
inductive Refusal where
  /-- Raised by an arm of `exec` whose instruction has no meaning yet. Safe: the model says nothing. -/
  | notModelled (mnemonic : String)
  deriving DecidableEq, Repr

/-- The host side of the module: power, security, start-up, the Milcy port (12_host_security_power.md). -/
structure HostSide where
  power : PowerState := .p0
  /-- The P1 cap in watts (R328). -/
  cap : Option Nat := none
  lifecycle : Lifecycle := .manufacture
  debug : DebugLevel := .off
  /-- The expiry of the token under which the present level was entered (R325). -/
  tokenExpiry : Option Nat := none
  /-- How many nonces have been issued, and those that have been accepted (R325). -/
  noncesIssued : Nat := 0
  noncesUsed : List (List Byte) := []
  identityKey : Bool := false
  ownerKey : Bool := false
  /-- Session keys (R324): no rule of the spec makes one or uses one. -/
  sessionKeys : List (List Byte) := []
  /-- Where the values stand that the counters and the trace are frozen at in P3 (R324), among the free ones. -/
  frozen : Nat := 0
  /-- The one-time index of the identity key (R325). -/
  signIndex : Nat := 0
  /-- The step record: 16 entries (R327). -/
  steps : Vector Word 16 := Vector.replicate 16 0
  ready : Bool := false
  haltedStep : Option Nat := none
  firmware : List Byte := []
  modid : BitVec 20 := 0
  astBase : Nat := 0
  saveBase : Nat := 0
  saveSize : Nat := 0
  /-- The firmware's own memory (R321). -/
  firmwareBase : Nat := 0
  firmwareSize : Nat := 0
  /-- The bytes of the save areas that debug has written since a context was last saved. The model's own (log entry 26). -/
  saveWritten : Map Unit := []
  windows : List Window := []
  reports : List Report := []
  /-- Time synchronisation is held, and the master time of the last exchange (R295). -/
  synced : Bool := false
  lastExchange : Nat := 0
  /-- When time packets were last sent to the neighbours (R295). -/
  lastTimeSent : Nat := 0
  deriving DecidableEq, Repr

/-- The fabric as this module sees it (10_fabric.md). -/
structure Net where
  /-- Packets in flight or waiting, by a number of the model's. -/
  packets : Map Packet := []
  nextPacket : Nat := 0
  /-- Where each packet stands on its way; one that is not listed stands at its end. -/
  transit : Map Transit := []
  /-- How far requests over several bank lines have come, by packet. -/
  sinks : Map Sink := []
  outstanding : List Outstanding := []
  /-- The next SEQ of each origin and target, by the number of the pair. -/
  nextSeq : Map Nat := []
  receipts : List Receipt := []
  /-- Link ends: port q is link q, link 32 + 256 * d + 64 * e + i the i-th of die d's edge e, and mesh links follow. -/
  links : Map Link := []
  version : Byte := 0
  tables : Tables := []
  /-- The MODID of the route master's module (R285), and the modules at the far ends of the ports. -/
  routeMaster : Nat := 0
  neighbours : Map Nat := []
  change : Option RouteChange := none
  /-- The deaths that have reached the route master, as MODID and link (R286). -/
  reportedDead : List (Nat × Nat) := []
  unreachable : List (Nat × Nat) := []
  /-- The TINVs of other modules that are under way here (R429). -/
  tinvs : List ForeignTinv := []
  /-- What agents of the module have asked of home L2s, oldest first, and the number of the next. -/
  asks : List Ask := []
  nextAsk : Nat := 0
  deriving DecidableEq, Repr

/-- The machine. Clusters are numbered 256 * d + c, cores 16 * cluster + k, pip slots 256 * cluster + slot. -/
structure State where
  /-- The global cycle (R19). -/
  cycle : Nat
  /-- The master count of global time (R295). -/
  time : Nat
  /-- How far each cluster's reading runs ahead of the master count, in ns (R20). -/
  skew : Map Nat
  /-- SR_AGE and SR_PREEMPTWAIT (R301), SR_RAMPUP, SR_RAMPDOWN.RATE and the filler MMAs counted (R329). -/
  age : Word
  preemptWait : Word
  rampUp : Word
  rampDown : Word
  fillers : Nat
  /-- The SR_AGE and SR_PREEMPTWAIT that a die's controller still applies where it has not adopted the last write, and the
  cycle by which every controller has (R301). -/
  applied : Map (Word × Word)
  adoptBy : Option Nat
  host : HostSide
  jobs : Map Job
  /-- HBM by physical address; an unlisted byte is zero. -/
  hbm : List Host.Cell
  /-- Physical lines: not yet written back, pinned and by which launch, with an uncorrectable error. -/
  dirty : Map Unit
  pins : Map (BitVec 32)
  bad : Map Unit
  tlbs : Map (List Tlb)
  nmas : Map Ctx
  net : Net
  launches : Map Launch
  nextLaunch : BitVec 32
  saved : List Saved
  clusters : Map Cluster
  cores : Map Core
  pips : Map Pip
  /-- The slot whose instruction `exec` runs. The model's own. -/
  cur : Nat
  /-- The turns chosen so far, next first. The model's own. -/
  agenda : List Turn
  /-- The counter that the free values of Config are applied to. The model's own. -/
  fresh : Nat
  /-- The access that is being tried; none between steps. The model's own. -/
  reach : Option Reach
  deriving DecidableEq, Repr

/-- The machine right after module reset: every slot is free (R54), the module's registers hold their reset
values, nothing is listed in memory; where the manual gives no value, the one the assumption log names. -/
def State.reset : State where
  cycle := 0
  time := 0
  skew := []
  age := 1200000
  preemptWait := BitVec.ofNat 64 (120000 * 2 ^ 32 + 2400000)
  rampUp := 40
  rampDown := 40
  fillers := 0
  applied := []
  adoptBy := none
  host := {}
  jobs := []
  hbm := []
  dirty := []
  pins := []
  bad := []
  tlbs := []
  nmas := []
  net := {}
  launches := []
  nextLaunch := 1
  saved := []
  clusters := []
  cores := []
  pips := []
  cur := 0
  agenda := []
  fresh := 0
  reach := none

end Sys2Proof.Machine
end

