-- ==== Sys2Proof/Machine/Ops.lean ====
section
/-! DEFINITION. The named operations over maps, memory, registers and pips, taking a trap (R315) and returning
from one (R317). -/

namespace Sys2Proof.Machine

/-! ### Maps and memory -/

/-- The entry of a key. -/
def mget {α : Type} : Map α → Nat → Option α
  | [], _ => none
  | (k, x) :: m, n => if k = n then some x else mget m n

/-- The entry of a key, or a default. -/
def mgetD {α : Type} (m : Map α) (n : Nat) (d : α) : α := (mget m n).getD d

/-- The map without a key. -/
def merase {α : Type} (m : Map α) (n : Nat) : Map α := m.filter (fun e => e.1 != n)

/-- The map with an entry. -/
def mset {α : Type} (m : Map α) (n : Nat) (x : α) : Map α :=
  m.filter (fun e => decide (e.1 < n)) ++ (n, x) :: m.filter (fun e => decide (n < e.1))

/-- The keys rise strictly. -/
def risingFrom {α : Type} : Nat → List (Nat × α) → Bool
  | _, [] => true
  | n, (k, _) :: m => decide (n ≤ k) && risingFrom (k + 1) m

/-- A byte of memory; an unlisted byte is zero (log entry 1 for HBM, R75 for scratchpad). -/
def readByte (m : List Host.Cell) (a : Nat) : Byte := mgetD m a 0

/-- `n` bytes from an address. -/
def readBytes (m : List Host.Cell) (a n : Nat) : List Byte := (List.range n).map (fun i => readByte m (a + i))

/-- The cells that list the bytes that are not zero. -/
def cellsOf : Nat → List Byte → List Host.Cell
  | _, [] => []
  | a, b :: bs => if b = 0 then cellsOf (a + 1) bs else (a, b) :: cellsOf (a + 1) bs

/-- Write bytes from an address, keeping the canonical form. -/
def writeBytes (m : List Host.Cell) (a : Nat) (bs : List Byte) : List Host.Cell :=
  m.filter (fun e => decide (e.1 < a)) ++ cellsOf a bs ++ m.filter (fun e => decide (a + bs.length ≤ e.1))

/-- The canonical form of memory: addresses strictly rising, no entry equal to what an unlisted byte reads as. -/
def Memory.wf (m : List Host.Cell) : Bool := risingFrom 0 m && m.all (fun e => e.2 != 0)

/-- The little-endian value of bytes (R1). -/
def leNat : List Byte → Nat
  | [] => 0
  | b :: bs => b.toNat + 256 * leNat bs

/-- The `n` little-endian bytes of a value (R1). -/
def natBytes : Nat → Nat → List Byte
  | 0, _ => []
  | n + 1, x => BitVec.ofNat 8 x :: natBytes n (x / 256)

/-- The little-endian value of `n` bytes at an offset of a record. -/
def fieldAt (r : List Byte) (off n : Nat) : Nat := leNat ((r.drop off).take n)

/-- A 64-bit word from a natural number. -/
def word (n : Nat) : Word := BitVec.ofNat 64 n

/-- Bits [lo + n - 1 : lo] of a word as a number (R5). -/
def fieldOf (x : Word) (lo n : Nat) : Nat := x.toNat / 2 ^ lo % 2 ^ n

/-- A word with bits [lo + n - 1 : lo] replaced. -/
def setField (x : Word) (lo n v : Nat) : Word :=
  word (x.toNat - fieldOf x lo n * 2 ^ lo + v % 2 ^ n * 2 ^ lo)

/-- `sext(x, n)` of R5 as a word. -/
def sextWord (x n : Nat) : Word := BitVec.ofInt 64 (sextInt x n)

/-- A status or error value 0x8000_0000_0000_0000 + detail (R167). -/
def statusWord (detail : Nat) : Word := word (2 ^ 63 + detail)

/-! ### Components -/

/-- A cluster; one that nothing has touched holds no context. -/
def State.cluster (s : State) (cl : Nat) : Cluster := mgetD s.clusters cl {}

/-- The state with a cluster replaced. -/
def State.setCluster (s : State) (cl : Nat) (c : Cluster) : State := { s with clusters := mset s.clusters cl c }

/-- A core, by 16 * cluster + k. -/
def State.core (s : State) (k : Nat) : Core := mgetD s.cores k {}

/-- The state with a core replaced. -/
def State.setCore (s : State) (k : Nat) (c : Core) : State := { s with cores := mset s.cores k c }

/-- The pip in a slot, by 256 * cluster + slot. -/
def State.pip (s : State) (k : Nat) : Option Pip := mget s.pips k

/-- The state with a slot's pip replaced. -/
def State.setPip (s : State) (k : Nat) (p : Pip) : State := { s with pips := mset s.pips k p }

/-- The state with the current slot's pip replaced. -/
def State.put (s : State) (p : Pip) : State := s.setPip s.cur p

/-- The state with a slot's pip changed, if there is one. -/
def State.modPip (s : State) (k : Nat) (f : Pip → Pip) : State :=
  match s.pip k with
  | some p => s.setPip k (f p)
  | none => s

/-- The cluster of the current slot. -/
def State.curCl (s : State) : Nat := s.cur / 256

/-- A launch. -/
def State.launch (s : State) (l : BitVec 32) : Option Launch := mget s.launches l.toNat

/-- The state with a launch replaced. -/
def State.setLaunch (s : State) (l : Launch) : State := { s with launches := mset s.launches l.id.toNat l }

/-- A pre-emption of the cluster is pending (R198, R222, R307). -/
def State.stopping (s : State) (cl : Nat) : Bool :=
  match (s.cluster cl).launch.bind s.launch with
  | some l => l.phase == .stopping
  | none => false

/-- A job as this module knows it. -/
def State.jobOf (s : State) (j : Nat) : Job := mgetD s.jobs j {}

/-- The job of a launch (R73). -/
def State.jobOfLaunch (s : State) (l : BitVec 32) : Nat :=
  match s.launch l with
  | some x => x.job
  | none => 0

/-- A report leaves through the Milcy port (R321). -/
def State.report (s : State) (r : Report) : State := { s with host := { s.host with reports := s.host.reports ++ [r] } }

/-- The Milcy port works: after start-up, or in a module that start-up has left halted beyond step 13 (R326), unless it is
off. -/
def State.managed (s : State) : Bool :=
  s.host.power != .p4 && (s.host.ready || s.host.haltedStep.any (fun n => decide (13 < n)))

/-- The cluster's reading of global time (R20). -/
def State.timeAt (s : State) (cl : Nat) : Nat := s.time + mgetD s.skew cl 0

/-! ### Registers of a pip -/

/-- The value of a g register; g0 reads zero (R24). -/
def Pip.gv (p : Pip) (r : Reg) : Word := if r = 0 then 0 else p.g[r.toNat]'(by have := r.isLt; omega)

/-- The full bit of a g register; g0 is always full (R24). -/
def Pip.gf (p : Pip) (r : Reg) : Bool := r == 0 || p.gFull.getLsbD r.toNat

/-- The value of a v register. -/
def Pip.vv (p : Pip) (r : Reg4) : VWord := p.v[r.toNat]'(by have := r.isLt; omega)

/-- The full bit of a v register. -/
def Pip.vf (p : Pip) (r : Reg4) : Bool := p.vFull.getLsbD r.toNat

/-- Write a g register and set it full; g0 discards writes (R24, R31). -/
def Pip.setG (p : Pip) (r : Reg) (x : Word) : Pip :=
  if r = 0 then p
  else { p with g := p.g.set r.toNat x (by have := r.isLt; omega)
                gFull := p.gFull ||| BitVec.twoPow 32 r.toNat
                delivered := p.delivered &&& ~~~(BitVec.twoPow 32 r.toNat) }

/-- Write a v register and set it full. -/
def Pip.setV (p : Pip) (r : Reg4) (x : VWord) : Pip :=
  { p with v := p.v.set r.toNat x (by have := r.isLt; omega)
           vFull := p.vFull ||| BitVec.twoPow 16 r.toNat }

/-- Clear the full bit of a g register; g0 stays full (R31). -/
def Pip.clearG (p : Pip) (r : Reg) : Pip :=
  if r = 0 then p else { p with gFull := p.gFull &&& ~~~(BitVec.twoPow 32 r.toNat) }

/-- Clear the full bit of a v register. -/
def Pip.clearV (p : Pip) (r : Reg4) : Pip := { p with vFull := p.vFull &&& ~~~(BitVec.twoPow 16 r.toNat) }

/-- A steer register b0 to b11 (R36). -/
def Pip.steer (p : Pip) (n : Nat) : Steer := if h : n < 12 then p.b[n] else {}

/-- Replace a steer register. -/
def Pip.setSteer (p : Pip) (n : Nat) (x : Steer) : Pip :=
  if h : n < 12 then { p with b := p.b.set n x h } else p

/-- SR_STATUS.PRIV (R26): true in mode S. -/
def Pip.mode (p : Pip) : Bool := p.status.getLsbD 0

/-- SR_STATUS.IE (R26). -/
def Pip.ie (p : Pip) : Bool := p.status.getLsbD 1

/-- The pip is held (R23). -/
def Pip.held (p : Pip) : Bool := p.heldDebug || p.heldPreempt || p.heldFault

/-- An operation of the full-bit class. -/
def Op.fullBit (o : Op) : Bool := o.dest != .none

/-- A g register has an operation of the full-bit class outstanding (R31). -/
def Pip.gBusy (p : Pip) (r : Reg) : Bool := r != 0 && p.ops.any (fun o => o.dest == .g r)

/-- A v register has one outstanding. -/
def Pip.vBusy (p : Pip) (r : Reg4) : Bool := p.ops.any (fun o => o.dest == .v r)

/-- How many operations of the full-bit class are outstanding (R30). -/
def Pip.fullBits (p : Pip) : Nat := p.ops.countP Op.fullBit

/-- The destination is cleared when an operation of the full-bit class issues (R31). -/
def Pip.clearDest (p : Pip) : Dest → Pip
  | .none => p
  | .g r => p.clearG r
  | .v r => p.clearV r

/-- A result is written and the full bit set (R31). -/
def Pip.writeDest (p : Pip) (x : VWord) : Dest → Pip
  | .none => p
  | .g r => p.setG r (x.setWidth 64)
  | .v r => p.setV r x

/-- Issue an operation: its destination is cleared, and it joins the outstanding ones in program order. -/
def Pip.issue (p : Pip) (o : Op) : Pip :=
  { (p.clearDest o.dest) with ops := p.ops ++ [{ o with id := p.nextOp, asid := p.asid, mode := p.mode }], nextOp := p.nextOp + 1 }

/-- An outstanding operation of a pip. -/
def Pip.op (p : Pip) (n : Nat) : Option Op := p.ops.find? (fun o => o.id == n)

/-- Change an outstanding operation. -/
def Pip.modOp (p : Pip) (n : Nat) (f : Op → Op) : Pip :=
  { p with ops := p.ops.map (fun o => if o.id == n then f o else o) }

/-- Remove an outstanding operation. -/
def Pip.dropOp (p : Pip) (n : Nat) : Pip := { p with ops := p.ops.filter (fun o => o.id != n) }

/-- The operation has been performed: with a destination it waits to be written (R30), without one it is over. -/
def Pip.finishOp (p : Pip) (n : Nat) (result : VWord) : Pip :=
  match p.op n with
  | some o => if o.fullBit then p.modOp n (fun o => { o with phase := .done, result := result }) else p.dropOp n
  | none => p

/-- The next instruction in order (R158). -/
def Pip.advance (p : Pip) : Pip := { p with pc := p.pc + 4, cond := .ready }

/-- Park the current pip: nothing the instruction would change has changed (R31). -/
def State.parkPip (s : State) (p : Pip) (why : Park) : State := s.put { p with cond := .parked why }

/-! ### Status registers that traps use -/

/-- The bits of SR_IPEND (R320). -/
def ipTimer : Nat := 0
def ipMessage : Nat := 1
def ipRefused : Nat := 2
def ipEngerr : Nat := 3
def ipReject : Nat := 4

/-- A bit of SR_IPEND is set. -/
def Pip.pending (p : Pip) (n : Nat) : Bool := p.ipend.getLsbD n

/-- Set a bit of SR_IPEND. -/
def Pip.raise (p : Pip) (n : Nat) : Pip := { p with ipend := p.ipend ||| BitVec.twoPow 64 n }

/-- Clear a bit of SR_IPEND. -/
def Pip.lower (p : Pip) (n : Nat) : Pip := { p with ipend := p.ipend &&& ~~~(BitVec.twoPow 64 n) }

/-- Count a refusal, or raise REMOTE_REFUSED (R89, R313). -/
def Pip.refuse (p : Pip) (addr : Word) : Pip :=
  if p.status.getLsbD 2 && !p.pending ipRefused then { (p.raise ipRefused) with refusedVal := addr }
  else { p with refused := p.refused + 1 }

/-- Replay entries are held (R316). -/
def Pip.replays (p : Pip) : Bool :=
  p.ops.any (fun o => match o.phase with | .deferred _ _ => true | _ => false)

/-! ### Traps -/

/-- The trap causes of R311. -/
inductive Cause where
  | illegal | privileged | misaligned | pageNotPresent | pagePermission | podSealed | podStale | localRange
  | ecallU | ecallS | breakpoint | remoteRefused | engineReject | steerInvalid | engineError | timer | message
  deriving DecidableEq, Repr

/-- The value written to SR_TCAUSE.CAUSE (R311). -/
def Cause.code : Cause → Nat
  | .illegal => 0x00 | .privileged => 0x01 | .misaligned => 0x02 | .pageNotPresent => 0x03
  | .pagePermission => 0x04 | .podSealed => 0x05 | .podStale => 0x06 | .localRange => 0x07
  | .ecallU => 0x08 | .ecallS => 0x09 | .breakpoint => 0x0A | .remoteRefused => 0x0B
  | .engineReject => 0x0C | .steerInvalid => 0x0D | .engineError => 0x0E | .timer => 0x10 | .message => 0x11

/-- The bit of SR_IPEND that trap entry clears (R315): every asynchronous cause's but TIMER's. -/
def Cause.ipendBit : Cause → Option Nat
  | .remoteRefused => some ipRefused
  | .engineReject => some ipReject
  | .engineError => some ipEngerr
  | .message => some ipMessage
  | _ => none

/-- The handler address of SR_TVEC: BASE << 2 (R315, R320). -/
def Pip.handler (p : Pip) : Word := p.tvec &&& ~~~3

/-- SR_STATUS on trap entry (R315): PPRIV := PRIV, PIE := IE, PRIV := 1, IE := 0. -/
def trapStatus (st : Word) : Word :=
  (st &&& ~~~0x63) ||| 1 ||| (if st.getLsbD 0 then 0x20 else 0) ||| (if st.getLsbD 1 then 0x40 else 0)

/-- SR_STATUS on the return from a trap (R317): PRIV := PPRIV, IE := PIE, PPRIV := 0, PIE := 0. -/
def returnStatus (st : Word) : Word :=
  (st &&& ~~~0x63) ||| (if st.getLsbD 5 then 1 else 0) ||| (if st.getLsbD 6 then 2 else 0)

/-- SR_TCAUSE as trap entry writes it (R315). -/
def trapCause (c : Cause) (async replay : Bool) : Word := word (c.code + 256 * async.toNat + 512 * replay.toNat)

/-- The pip on trap entry (R315), when SR_TVEC.BASE is not 0. -/
def Pip.enterTrap (p : Pip) (c : Cause) (async : Bool) (val : Word) : Pip :=
  let q := match c.ipendBit with
    | some n => p.lower n
    | none => p
  { q with tpc := p.pc, tcause := trapCause c async p.replays, tval := val, status := trapStatus p.status,
           pc := p.handler, cond := .ready }

/-- Taking a trap at the pip's instruction boundary, the one operation for every cause (R315): without a handler
the pip is held and a launch fault is reported. -/
def State.takeTrap (s : State) (k : Nat) (p : Pip) (c : Cause) (async : Bool) (val : Word) : State :=
  if p.handler = 0 then (s.setPip k { p with heldFault := true }).report (.launchFault p.launch p.pipid c.code p.pc)
  else s.setPip k (p.enterTrap c async val)

/-- The register part of the return from a trap (R317). -/
def Pip.returnFromTrap (p : Pip) : Pip :=
  { p with pc := p.tpc, status := returnStatus p.status, cond := .ready }

/-! ### What an instruction may do -/

/-- The outcome of an instruction's own entry (R161 step 5 and after). -/
inductive Done where
  /-- A precise trap: the instruction has no effect (R312). -/
  | trap (c : Cause) (val : Word)
  /-- The pip parks (R31). -/
  | park (why : Park)
  /-- The instruction's effect. -/
  | next (s : State)

/-! ### The scheduler's settings (R301) -/

/-- SR_AGE and SR_PREEMPTWAIT as a die's controller applies them. -/
def State.schedOf (s : State) (die : Nat) : Word × Word := mgetD s.applied die (s.age, s.preemptWait)

/-- A write of them: every controller goes on with what it had, for at most 1 µs (1,200 cycles). -/
def State.writeSched (s : State) (age wait : Word) : State :=
  { s with age := age, preemptWait := wait, applied := (List.range 64).map (fun d => (d, s.schedOf d)),
           adoptBy := s.adoptBy.or (some (s.cycle + 1200)) }

/-- A die's controller adopts the values written last. -/
def State.adopt (s : State) (die : Nat) : State :=
  let rest := merase s.applied die
  { s with applied := rest, adoptBy := if rest.isEmpty then none else s.adoptBy }

/-- At the end of the microsecond every controller has adopted them. -/
def State.adoptDue (s : State) : State :=
  match s.adoptBy with
  | some t => if t ≤ s.cycle then { s with applied := [], adoptBy := none } else s
  | none => s

end Sys2Proof.Machine
end

