-- ==== Sys2Proof/Machine/Operands.lean ====
section
/-! DEFINITION. The operand forms: what an instruction reads and writes, the order in which a pip examines it
(R161), parking and the full bits at issue (R31), immediates (R160, R162) and addresses (R165). -/

namespace Sys2Proof.Machine

/-- The registers an instruction names: sources, those read with `.s`, destinations; whether it belongs to the
full-bit class and whether it needs mode S. -/
structure Uses where
  g : List Reg := []
  v : List Reg4 := []
  gs : List Reg := []
  vs : List Reg4 := []
  gd : List Reg := []
  vd : List Reg4 := []
  fullBit : Bool := false
  priv : Bool := false
  deriving DecidableEq, Repr

/-- A register as a list when its sync-read bit is set. -/
def syncG (bit : Bit) (r : Reg) : List Reg := if bit = 1 then [r] else []

/-- As `syncG`, for a v register. -/
def syncV (bit : Bit) (r : Reg4) : List Reg4 := if bit = 1 then [r] else []

/-- Every source register is full (R31). -/
def Uses.sourcesFull (u : Uses) (p : Pip) : Bool := u.g.all p.gf && u.v.all p.vf

/-- No destination has an operation of the full-bit class outstanding (R31). -/
def Uses.destsFree (u : Uses) (p : Pip) : Bool := !u.gd.any p.gBusy && !u.vd.any p.vBusy

/-- The pip after the `.s` clears, at the next instruction (R31, R158). -/
def Uses.read (u : Uses) (p : Pip) : Pip := (u.vs.foldl Pip.clearV (u.gs.foldl Pip.clearG p)).advance

/-- A source holds a value that a SENDR delivered and that has not been read (R35). -/
def Uses.readsDelivered (u : Uses) (p : Pip) : Bool := u.g.any (fun r => r != 0 && p.delivered.getLsbD r.toNat)

/-- The pip with the delivered values it reads marked as read. -/
def Uses.markRead (u : Uses) (p : Pip) : Pip :=
  u.g.foldl (fun p r => { p with delivered := p.delivered &&& ~~~(BitVec.twoPow 32 r.toNat) }) p

/-- Every clean line of a core's L1 data cache is discarded (R69); update-only lines stay. -/
def State.discardLines (s : State) (k : Nat) : State := s.setCore k { s.core k with lines := [], awaited := [] }

/-- The acquire of a delivered value (R35): at cluster scope, it discards L1 lines. -/
def Uses.acquire (u : Uses) (p : Pip) (s : State) : State :=
  if u.readsDelivered p then s.discardLines (s.cur / 16) else s

/-- A pip examines an instruction in the order of R161: an illegal word, the privilege, empty sources, a busy
destination, the limit of 16 operations, then the entry's own rules, given the pip as it stands and as it stands
after its reads. -/
def runEntry (i : Instr) (u : Uses) (s : State) (entry : Pip → Pip → State → Done) : Host.Outcome State Fault Refusal :=
  match s.pip s.cur with
  | none => .fault .noPip
  | some p =>
    if !i.wf then .next (s.takeTrap s.cur p .illegal false (word i.word))
    else if u.priv && !p.mode then .next (s.takeTrap s.cur p .privileged false (word i.word))
    else if !u.sourcesFull p then .next (s.parkPip p (.sources u.g u.v))
    else if !u.destsFree p then .next (s.parkPip p (.written u.gd u.vd))
    else if u.fullBit && decide (16 ≤ p.fullBits) then .next (s.parkPip p .slots)
    else match entry p (u.read (u.markRead p)) (u.acquire p s) with
      | .trap c v => .next (s.takeTrap s.cur p c false v)
      | .park why => .next (s.parkPip p why)
      | .next t => .next t

/-- An instruction that only computes: its effect is on the pip alone (R29). -/
def runPure (i : Instr) (u : Uses) (s : State) (f : Pip → Pip → Pip) : Host.Outcome State Fault Refusal :=
  runEntry i u s (fun p q t => .next (t.put (f p q)))

/-- An operation on 64-bit values, or on the low 32 bits with its result sign-extended (R160). -/
def byWidth (w : Bit) (f : Nat → Nat → Nat → Nat) (a b : Word) : Word :=
  if w = 1 then sextWord (f 32 (a.toNat % 2 ^ 32) (b.toNat % 2 ^ 32)) 32 else word (f 64 a.toNat b.toNat)

/-- The operands of an R-format word with two sources. -/
def usesR (x y : Bit) (a b d : Reg) : Uses :=
  { g := [a, b], gs := syncG x a ++ syncG y b, gd := [d] }

/-- The operands of a word with one source. -/
def usesA (x : Bit) (a d : Reg) : Uses := { g := [a], gs := syncG x a, gd := [d] }

/-- imm12 sign-extended (R162). -/
def imm12 (i : BitVec 12) : Word := i.signExtend 64

/-- The byte address of an M-format word: g[ra] + sext(off8, 8) × scale (R165). -/
def memAddr (base : Word) (off : Byte) (scale : Nat) : Word := base + word scale * off.signExtend 64

/-- The access size of an M-format word's size field (R165). -/
def sizeOf (s : BitVec 2) : Nat := 2 ^ s.toNat

end Sys2Proof.Machine
end

