-- ==== Sys2Proof/Machine/Flags.lean ====
section
/-! DEFINITION. SR_FPMODE (R132): the rounding mode, FTZ, the sticky flags; and the conditions of compares
(R164). -/

namespace Sys2Proof.Machine

/-- SR_FPMODE.RM (R132). -/
def Pip.rm (p : Pip) : Nat := fieldOf p.fpmode 0 2

/-- SR_FPMODE.FTZ (R132). -/
def Pip.ftz (p : Pip) : Bool := p.fpmode.getLsbD 2

/-- The sticky flags that an operation raises become 1 (R132). -/
def Pip.addFlags (p : Pip) (f : FFlags) : Pip := { p with fpmode := p.fpmode ||| f.bits }

/-- The condition of an integer compare (R164): codes 0 to 7 on n-bit patterns. -/
def intCond (n : Nat) (c a b : Nat) : Bool :=
  match c with
  | 0 => a == b
  | 1 => a != b
  | 2 => decide (sextInt a n < sextInt b n)
  | 3 => decide (sextInt b n ≤ sextInt a n)
  | 4 => decide (a < b)
  | 5 => decide (b ≤ a)
  | 6 => a.testBit (b % n)
  | _ => !a.testBit (b % n)

/-- The condition of a floating-point compare (R164): codes 0 to 5; +0 equals −0. -/
def floatCond (c : Nat) (a b : Val) : Bool :=
  let un := a == .nan || b == .nan
  let o := compareVal a b
  match c with
  | 0 => !un && o == .eq
  | 1 => un || o != .eq
  | 2 => !un && o == .lt
  | 3 => !un && o != .lt
  | 4 => un
  | _ => !un

end Sys2Proof.Machine
end

