-- ==== Sys2Proof/Machine/Local.lean ====
section
/-! DEFINITION. Local space (03 R72 to R97): addresses, the checks at issue, banks and the frame, granules, pods,
refusals, and the atomic update of memory words and barriers. -/

namespace Sys2Proof.Machine

/-! ### Places -/

/-- The gang of a cluster within the module: 4d + g (R11, R302). -/
def gangOf (cl : Nat) : Nat := 4 * (cl / 256) + cl % 16 / 8 + 2 * (cl / 128 % 2)

/-- The cluster at gang column i mod 8 and gang row i div 8 of a cluster's gang (R235). -/
def gangMember (cl i : Nat) : Nat :=
  256 * (cl / 256) + 16 * (8 * (cl / 128 % 2) + i / 8) + 8 * (cl % 16 / 8) + i % 8

/-- The 64 clusters of a cluster's gang. -/
def gangMembers (cl : Nat) : List Nat := (List.range 64).map (gangMember cl)

/-- OFFSET of a local address (R72). -/
def offsetOf (a : Word) : Nat := a.toNat % 2 ^ 22

/-- CLUSTER and DIE of a local address as the module-wide cluster number (R72). -/
def clusterOf (a : Word) : Nat := a.toNat / 2 ^ 22 % 2 ^ 14

/-- RANK (R72). -/
def rankOf (a : Word) : Nat := a.toNat / 2 ^ 36 % 2 ^ 16

/-- GEN (R72). -/
def genOf (a : Word) : Nat := a.toNat / 2 ^ 52 % 2 ^ 8

/-- CHECK (R72). -/
def checkOf (a : Word) : Bool := a.getLsbD 60

/-- A local address of this module's cluster, with RANK 0xFFFF (R72). -/
def localAddr (cl off : Nat) : Word := word (0xFFFF * 2 ^ 36 + cl * 2 ^ 22 + off)

/-- The rank names a module of the job (R73, R290). -/
def State.rankValid (s : State) (job rank : Nat) : Bool :=
  rank == 0xFFFF || (mgetD (s.jobOf job).ranks rank 0).getLsbD 20

/-- The rank names this module: 0xFFFF or the module's own rank (R72). -/
def State.rankHere (s : State) (job rank : Nat) : Bool := rank == 0xFFFF || rank == (s.jobOf job).ownRank

/-- The address names this cluster of this module. -/
def State.namesCluster (s : State) (job cl : Nat) (a : Word) : Bool :=
  s.rankHere job (rankOf a) && clusterOf a == cl

/-! ### The checks at issue (R73) -/

/-- The first check that an access of `size` bytes fails, in the order of R73; `spres` is that of the issuer's own
launch. -/
def State.checkLocal (s : State) (job spres : Nat) (a : Word) (size : Nat) : Option Cause :=
  if a.toNat / 2 ^ 61 != 0 || !s.rankValid job (rankOf a) then some .localRange
  else if offsetOf a % size != 0 then some .misaligned
  else if 0x3E0000 < offsetOf a + size || spres < offsetOf a + size then some .localRange
  else none

/-! ### Banks and the frame -/

/-- The bank of a scratchpad offset: o[9:6] XOR o[13:10] (R76). -/
def bankOf (o : Nat) : Nat := Nat.xor (o / 64 % 16) (o / 1024 % 16)

/-- The owners of the positions of a bank's frame (R77). -/
inductive SlotClass where
  | matrixRead | matrixWrite | engine | pip
  deriving DecidableEq, Repr

/-- The owner of bank `b`'s slot in a cycle (R77). -/
def slotClass (cycle b : Nat) : SlotClass :=
  let p := (cycle + b) % 16
  if p % 4 = 0 then .matrixRead
  else if p = 5 ∨ p = 13 then .matrixWrite
  else if p % 4 = 2 then .engine
  else .pip

/-- The bank has not given its slot of this cycle. -/
def Cluster.bankFree (c : Cluster) (cycle b : Nat) : Bool := mgetD c.banks b 0 != cycle + 1

/-- The bank gives its slot of this cycle. -/
def Cluster.useBank (c : Cluster) (cycle b : Nat) : Cluster := { c with banks := mset c.banks b (cycle + 1) }

/-! ### Regions, granules, pods -/

/-- The end of the plain region: SPRES − PODBYTES (R74). -/
def Cluster.plainEnd (c : Cluster) : Nat := c.spres - c.podBytes

/-- The bytes lie in the plain region of the reservation. -/
def Cluster.inPlain (c : Cluster) (off n : Nat) : Bool := decide (off + n ≤ c.plainEnd)

/-- The state of the granule that holds an offset; an unlisted one is FULL or CLOSED as R75 sets it. -/
def Cluster.gran (c : Cluster) (off : Nat) : Gran :=
  mgetD c.grans (off / 16) (if off / 16 * 16 < c.plainEnd then .full else .closed)

/-- The cluster with a granule's state changed, in the canonical form. -/
def Cluster.setGran (c : Cluster) (g : Nat) (x : Gran) : Cluster :=
  if x = (if g * 16 < c.plainEnd then Gran.full else Gran.closed) then { c with grans := merase c.grans g }
  else { c with grans := mset c.grans g x }

/-- The granule numbers that an access touches. -/
def granulesOf (off n : Nat) : List Nat :=
  if n = 0 then [] else (List.range ((off + n - 1) / 16 - off / 16 + 1)).map (fun i => off / 16 + i)

/-- The fields of a descriptor's word 0 (R81). -/
def Pod.base (p : Pod) : Nat := fieldOf p.w0 0 22
def Pod.rows (p : Pod) : Nat := fieldOf p.w0 22 7 + 1
def Pod.rowBytes (p : Pod) : Nat := 16 * (fieldOf p.w0 29 5 + 1)
def Pod.fmt (p : Pod) : Nat := fieldOf p.w0 34 4
def Pod.grp (p : Pod) : Nat := fieldOf p.w0 38 2
def Pod.ocap (p : Pod) : Nat := fieldOf p.w0 40 2
def Pod.strict (p : Pod) : Bool := p.w0.getLsbD 42
def Pod.state (p : Pod) : Nat := fieldOf p.w0 43 2
def Pod.gen (p : Pod) : Nat := fieldOf p.w0 45 8
def Pod.ocount (p : Pod) : Nat := fieldOf p.w0 53 8
def Pod.timed (p : Pod) : Bool := p.w0.getLsbD 61

/-- The capacity of the outlier list in entries (R81). -/
def Pod.capacity (p : Pod) : Nat := match p.ocap with
  | 0 => 0 | 1 => 32 | 2 => 64 | _ => 128

/-- The bytes of the data, and of the footprint (R83). -/
def Pod.dataBytes (p : Pod) : Nat := p.rows * p.rowBytes
def Pod.footprint (p : Pod) : Nat := p.dataBytes + 4 * p.capacity

/-- A descriptor; one never written is FREE with GEN 0. -/
def Cluster.pod (c : Cluster) (i : Nat) : Pod := mgetD c.pods i {}

/-- The cluster with a descriptor replaced. -/
def Cluster.setPod (c : Cluster) (i : Nat) (p : Pod) : Cluster := { c with pods := mset c.pods i p }

/-- The descriptor index of a live handle (R84). -/
def Cluster.live (c : Cluster) (h : Word) : Option Nat :=
  let i := h.toNat % 256
  let p := c.pod i
  if h.toNat / 2 ^ 16 = 0 && decide (i < c.podDesc) && p.state != 0 && p.gen == h.toNat / 256 % 256 then some i
  else none

/-- The pod whose footprint holds an offset (R88). -/
def Cluster.podAt (c : Cluster) (off : Nat) : Option (Nat × Pod) :=
  c.pods.find? (fun e => decide (e.1 < c.podDesc) && e.2.state != 0 && decide (e.2.base ≤ off) &&
    decide (off < e.2.base + e.2.footprint))

/-- The pod that a granule belongs to for the check of R88: a freed one counts until its closing is performed there (R404). -/
def Cluster.podOf (c : Cluster) (off : Nat) : Option Pod :=
  match c.podAt off with
  | some (_, p) => some p
  | none => c.freeing.find? (fun p => decide (p.base ≤ off) && decide (off < p.base + p.footprint))

/-- The refusal causes of R276. -/
def refSealed : Nat := 1
def refStale : Nat := 2
def refRange : Nat := 3
def refNoContext : Nat := 4

/-- The stale line of the check of R88: CHECK is 1 and the granule is CLOSED or its pod's generation differs; a
granule of the plain region belongs to no pod. -/
def Cluster.stale (c : Cluster) (a : Word) (g : Gran) (off : Nat) : Bool :=
  checkOf a && (g == .closed || match c.podOf off with
    | some p => genOf a != p.gen
    | none => true)

/-- The check of R88 for one granule of a write whose state is `g`. -/
def Cluster.refusal (c : Cluster) (a : Word) (g : Gran) (off : Nat) (setFull : Bool) : Option Nat :=
  if c.stale a g off then some refStale
  else if g == .closed || g == .sealed then some refSealed
  else if setFull && g == .full && (match c.podOf off with
    | some p => p.strict
    | none => false) then some refSealed
  else none

/-- The state of a granule as a local store of the issuer's own cluster finds it at issue: SEALED when the pod's
STATE is SEALED (R88), and as the pip's own earlier POPEN or PFREE leaves it (R404, R407). -/
def Cluster.granAtIssue (c : Cluster) (p : Pip) (g : Nat) : Gran :=
  let own := p.ops.foldl (fun x o => match o.kind with
    | .footL first count x' _ => if first ≤ g ∧ g < first + count then x' else x
    | _ => x) (c.gran (16 * g))
  match c.podAt (16 * g) with
  | some (_, d) => if d.state = 2 then .sealed else own
  | none => own

/-- The refusal of a local store or AMOL at issue (R88), over every granule it touches, and the granule. -/
def Cluster.refusalAtIssue (c : Cluster) (p : Pip) (a : Word) (n : Nat) (setFull : Bool) : Option (Nat × Nat) :=
  (granulesOf (offsetOf a) n).findSome? (fun g =>
    (c.refusal a (c.granAtIssue p g) (16 * g) setFull).map (fun r => (r, g)))

/-- The refusal of a write in its bank slot (R88), and the granule. -/
def Cluster.refusalInSlot (c : Cluster) (a : Word) (off n : Nat) (setFull : Bool) : Option (Nat × Nat) :=
  (granulesOf off n).findSome? (fun g => (c.refusal a (c.gran (16 * g)) (16 * g) setFull).map (fun r => (r, g)))

/-- The REFUSED bit of a SEALED pod whose granule refused a write (R89). -/
def Cluster.markRefused (c : Cluster) (g : Nat) : Cluster :=
  match c.podAt (16 * g) with
  | some (i, d) => if d.state = 2 then c.setPod i { d with w0 := d.w0 ||| BitVec.twoPow 64 62 } else c
  | none => c

/-- A load whose target check fails: only the stale line (R88). -/
def Cluster.staleLoad (c : Cluster) (a : Word) (off n : Nat) : Bool :=
  (granulesOf off n).any (fun g => c.stale a (c.gran (16 * g)) (16 * g))

/-- Every touched granule that is EMPTY becomes FULL, and FULL ones stay (R79: a write with set-full). -/
def Cluster.fill (c : Cluster) (gs : List Nat) : Cluster :=
  gs.foldl (fun c g => if c.gran (16 * g) = .empty then c.setGran g .full else c) c

/-- Every FULL granule touched becomes EMPTY (R80, R385: q = 2). -/
def Cluster.drain (c : Cluster) (gs : List Nat) : Cluster :=
  gs.foldl (fun c g => if c.gran (16 * g) = .full then c.setGran g .empty else c) c

/-- Write bytes to the scratchpad. -/
def Cluster.write (c : Cluster) (off : Nat) (bs : List Byte) : Cluster := { c with sp := writeBytes c.sp off bs }

/-- Read bytes of the scratchpad. -/
def Cluster.read (c : Cluster) (off n : Nat) : List Byte := readBytes c.sp off n

/-- The granules that an engine's write with set-full makes FULL: those it covers whole (R79, R234). -/
def wholeGranules (off n : Nat) : List Nat :=
  (granulesOf off n).filter (fun g => decide (off ≤ 16 * g) && decide (16 * g + 16 ≤ off + n))

/-! ### Atomic operations -/

/-- The new value of an atomic on n-bit patterns (R338): codes 0 to 8. -/
def atomicNew (op n old b : Nat) : Nat :=
  match op with
  | 0 => b
  | 1 => (old + b) % 2 ^ n
  | 2 => old &&& b
  | 3 => old ||| b
  | 4 => old ^^^ b
  | 5 => if sextInt b n < sextInt old n then b else old
  | 6 => if sextInt old n < sextInt b n then b else old
  | 7 => if b < old then b else old
  | _ => if old < b then b else old

/-- The old value as an atomic writes it to its destination (R338). -/
def atomicResult (bytes old : Nat) : Word := if bytes = 4 then sextWord old 32 else word old

/-! ### Barriers (R347 to R350) -/

/-- A barrier granule by its fields (R347). -/
structure Barrier where
  expect : Nat
  remain : Nat
  pending : Nat
  phase : Nat
  nwait : Nat
  overflow : Bool
  deriving DecidableEq, Repr

/-- The barrier in 16 bytes. -/
def Barrier.ofBytes (bs : List Byte) : Barrier :=
  { expect := fieldAt bs 0 2, remain := fieldAt bs 2 2, pending := fieldAt bs 4 3, phase := fieldAt bs 7 1,
    nwait := fieldAt bs 8 3, overflow := fieldAt bs 11 1 % 2 == 1 }

/-- The 16 bytes of a barrier; bits [127:89] are written as zero. -/
def Barrier.bytes (b : Barrier) : List Byte :=
  natBytes 2 b.expect ++ natBytes 2 b.remain ++ natBytes 3 b.pending ++ natBytes 1 b.phase ++
  natBytes 3 b.nwait ++ natBytes 1 b.overflow.toNat ++ natBytes 4 0

/-- The completion of a phase (R348). -/
def Barrier.complete (b : Barrier) : Barrier :=
  { b with phase := (b.phase + 1) % 256, remain := b.expect, nwait := 0 }

/-- An arrival (R348). -/
def Barrier.arrive (b : Barrier) : Barrier :=
  if 0 < b.remain then
    let c := { b with remain := b.remain - 1 }
    if c.remain = 0 ∧ c.pending = 0 then c.complete else c
  else { b with overflow := true }

/-- The addition of a command's bytes; none when the sum would exceed 0xFF_FFFF (R348). -/
def Barrier.addBytes (b : Barrier) (n : Nat) : Option Barrier :=
  if 0xFFFFFF < b.pending + n then none else some { b with pending := b.pending + n }

/-- The subtraction of performed bytes (R348). -/
def Barrier.subBytes (b : Barrier) (n : Nat) : Barrier :=
  let c := if b.pending < n then { b with pending := 0, overflow := true } else { b with pending := b.pending - n }
  if c.pending = 0 ∧ b.pending ≠ 0 ∧ c.remain = 0 then c.complete else c

/-- BARI's value (R349). -/
def Barrier.init (n : Nat) : Barrier := ⟨n, n, 0, 0, 0, false⟩

/-- A BARW's first read adds 1 to NWAIT, saturating (R350). -/
def Barrier.await (b : Barrier) : Barrier := { b with nwait := min 0xFFFFFF (b.nwait + 1) }

/-- The barrier at an offset of a cluster. -/
def Cluster.barrier (c : Cluster) (off : Nat) : Barrier := Barrier.ofBytes (c.read off 16)

/-- Write a barrier's granule. -/
def Cluster.setBarrier (c : Cluster) (off : Nat) (b : Barrier) : Cluster := c.write off b.bytes

end Sys2Proof.Machine
end

