-- ==== Sys2Proof/Machine/Global.lean ====
section
/-! DEFINITION. Global space (03 R61 to R71): the walk, the TLB, the home L2, the L1 caches, update-only lines, pins,
and instruction fetch. -/

namespace Sys2Proof.Machine

/-- Bits [63:56] all equal bit 55 (R62). -/
def canonical (a : Word) : Bool := a.toNat / 2 ^ 55 == 0 || a.toNat / 2 ^ 55 == 511

/-- A physical address of R62: 128 stacks of 48 GiB. -/
def physical (a : Nat) : Bool := decide (a < 2 ^ 43) && decide (a % 2 ^ 36 < 0xC00000000)

/-- The home die of a physical address (R62). -/
def homeDie (pa : Nat) : Nat := pa / 2 ^ 36 / 2

/-! ### Fabric addresses (R274) -/

/-- The fabric address of an endpoint of this module. -/
def State.endpoint (s : State) (type die unit : Nat) : Word :=
  word (unit + type * 2 ^ 8 + die * 2 ^ 12 + s.host.modid.toNat * 2 ^ 18)

/-- The fabric address of a cluster. -/
def State.clusterAddr (s : State) (cl : Nat) : Word := s.endpoint 0 (cl / 256) (cl % 256)

/-- The home L2 slice of a physical address (R67), the endpoint of accesses to it from other dies. -/
def State.sliceAddr (s : State) (pa : Nat) : Word := s.endpoint 1 (homeDie pa) (pa / 128 % 64)

/-- A die controller. R274 gives its TYPE and DIE and no UNIT: 0 (the model's choice, log entry 58). -/
def State.controllerAddr (s : State) (die : Nat) : Word := s.endpoint 2 die 0

/-- The page unit of a die (R251, R274). R274 gives no UNIT here either: 0. -/
def State.pageUnitAddr (s : State) (die : Nat) : Word := s.endpoint 4 die 0

/-- UNIT, TYPE, DIE and MODID of a fabric address. -/
def unitOf (a : Word) : Nat := fieldOf a 0 8
def endType (a : Word) : Nat := fieldOf a 8 4
def dieOf (a : Word) : Nat := fieldOf a 12 6
def modidOf (a : Word) : Nat := fieldOf a 18 20

/-! ### The home L2 and update-only lines -/

/-- combine of RED (R415). -/
def combineRed (op bytes : Nat) (p b : Nat) : Nat :=
  if op = 9 then
    let t := if bytes = 4 then FType.f32 else FType.f64
    ((addVal (decodeF t p) (decodeF t b) 0).round t 0).1
  else atomicNew op (8 * bytes) p b

/-- Merge the elements of an update-only line into memory, as one atomic update (R70, R415). -/
def mergeElems (hbm : List Host.Cell) (base op bytes : Nat) : Map Word → List Host.Cell
  | [] => hbm
  | (off, x) :: es =>
    let old := leNat (readBytes hbm (base + off) bytes)
    mergeElems (writeBytes hbm (base + off) (natBytes bytes (combineRed op bytes old x.toNat))) base op bytes es

/-- A physical line is no longer equal to HBM's (R357). -/
def State.setDirty (s : State) (pline : Nat) : State := { s with dirty := mset s.dirty pline () }

/-- The REDs that a merged line held have been performed (R98). -/
def State.performReds (s : State) (reds : List (Nat × Nat)) : State :=
  reds.foldl (fun s r => s.modPip r.1 (fun p => p.dropOp r.2)) s

/-- Merge one core's update-only line of a physical line, at its home L2. -/
def State.mergeRed (s : State) (k : Nat) (r : RedLine) : State :=
  let c := s.core k
  let s := s.setCore k { c with reds := c.reds.filter (fun x => x != r) }
  ({ s with hbm := mergeElems s.hbm (128 * r.pline) r.op r.bytes r.elems }.setDirty r.pline).performReds r.by_

/-- An update-only line leaves its core (R70): it merges at a home L2 of the core's own die at once, and goes to another die's by a
packet. -/
def State.leaveRed (s : State) (k : Nat) (r : RedLine) : State :=
  if homeDie (128 * r.pline) = k / 4096 then s.mergeRed k r
  else
    let c := s.core k
    s.setCore k { c with reds := c.reds.map (fun x => if x = r then { x with way := .leaving } else x) }

/-- The update-only lines that a core's L1 holds. -/
def Core.redsHere (c : Core) : List RedLine := c.reds.filter (fun r => r.way == .here)

/-- The cores that hold update-only copies of a physical line, with those copies. -/
def State.redsOf (s : State) (pline : Nat) : List (Nat × RedLine) :=
  s.cores.flatMap (fun e => (e.2.reds.filter (fun r => r.pline == pline)).map (fun r => (e.1, r)))

/-- An access other than RED reaches a home L2 line: every update-only copy is recalled and merged (R70). -/
def State.recall (s : State) (pline : Nat) : State := (s.redsOf pline).foldl (fun s e => s.mergeRed e.1 e.2) s

/-- Read bytes at the home L2, within one line. -/
def State.readHome (s : State) (pa n : Nat) : State × List Byte :=
  let s := s.recall (pa / 128)
  (s, readBytes s.hbm pa n)

/-- Write bytes at the home L2, within one line. -/
def State.writeHome (s : State) (pa : Nat) (bs : List Byte) : State :=
  let s := s.recall (pa / 128)
  { s with hbm := writeBytes s.hbm pa bs }.setDirty (pa / 128)

/-- No core holds an update-only copy of the line. -/
def State.noCopies (s : State) (pline : Nat) : Bool := (s.redsOf pline).isEmpty

/-! ### Accesses as they are tried (R10, R66, R251)

An agent that needs home L2s before it can act tries its access on what has come: a part that a home L2 on another die holds and that
has not come is missing, and so is a line of its own die while update-only copies of it stand (R70). -/

/-- The endpoint for which the access under way reads and writes. -/
def State.asker (s : State) : Word := s.reach.elim 0 Reach.src

/-- Something that the access needs is missing. -/
def Reach.lacks (r : Reach) : Bool := !r.missing.isEmpty || !r.lines.isEmpty || r.waits

/-- The numbers of the 64-byte parts that `n` bytes touch. -/
def partsAt (pa n : Nat) : List Nat := (List.range ((pa + n - 1) / 64 + 1 - pa / 64)).map (pa / 64 + ·)

/-- Bytes with others laid over them from a place on: both begin at addresses. -/
def overlaidAt (a : Nat) (bs : List Byte) (b : Nat) (cs : List Byte) : List Byte :=
  bs.zipIdx.map (fun e => if b ≤ a + e.2 ∧ a + e.2 < b + cs.length then cs.getD (a + e.2 - b) 0 else e.1)

/-- An endpoint reads bytes within a line: at its own die's home L2, or what has come of another's. -/
def State.readFrom (s : State) (src : Word) (pa n : Nat) : State × List Byte :=
  match s.reach with
  | none => s.readHome pa n
  | some r =>
    if homeDie pa = dieOf src then
      if s.noCopies (pa / 128) then (s, readBytes s.hbm pa n)
      else ({ s with reach := some { r with lines := r.lines ++ [pa / 128] } }, List.replicate n 0)
    else
      match (partsAt pa n).filter (fun i => (mget r.came i).isNone) with
      | [] => (s, (((partsAt pa n).flatMap (fun i => mgetD r.came i [])).drop (pa % 64)).take n)
      | is => ({ s with reach := some { r with missing := r.missing ++ is.map (fun i => (src, i)) } }, List.replicate n 0)

/-- The agent of the access writes bytes within a line: at its own die's home L2, or later on another die. -/
def State.writeFrom (s : State) (pa : Nat) (bs : List Byte) : State :=
  match s.reach with
  | none => s.writeHome pa bs
  | some r =>
    if homeDie pa = dieOf r.src then
      if s.noCopies (pa / 128) then s.writeHome pa bs
      else { s with reach := some { r with lines := r.lines ++ [pa / 128] } }
    else { s with reach := some { r with
      writes := r.writes ++ [(r.src, pa, bs)]
      came := r.came.map (fun (e : Nat × List Byte) => (e.1, overlaidAt (64 * e.1) e.2 pa bs)) } }

/-- What a pip reads where a line has an uncorrectable error: the manual gives no value (log entry 11). -/
def State.readPip (s : State) (pa n : Nat) : State × List Byte :=
  let (s, bs) := s.readHome pa n
  if (mget s.bad (pa / 128)).isSome then
    ({ s with fresh := s.fresh + n }, (List.range n).map (fun i => Config.freeByte (s.fresh + i)))
  else (s, bs)

/-- What a core or a port reads, as `readPip` where its own die holds the line. -/
def State.readLine (s : State) (src : Word) (pa n : Nat) : State × List Byte :=
  if (mget s.bad (pa / 128)).isSome then
    ({ (s.readFrom src pa n).1 with fresh := s.fresh + n }, (List.range n).map (fun i => Config.freeByte (s.fresh + i)))
  else s.readFrom src pa n

/-! ### Translation -/

/-- What an access needs of a leaf (R65). -/
inductive Need where
  | load | store | atomic | fetch
  deriving DecidableEq, Repr

/-- Bits [47:8] of an entry as an address (R64). -/
def entryAddr (e : Word) : Nat := fieldOf e 8 40 * 2 ^ 8

/-- The levels of a walk: the lowest index bit, index bits, log2 of the next table's size, log2 of a leaf's page,
whether a leaf is allowed, whether it is required (R63). -/
def walkLevels : List (Nat × Nat × Nat × Nat × Bool × Bool) :=
  [(43, 13, 16, 0, false, false), (30, 13, 12, 30, true, false), (21, 9, 8, 21, true, false), (16, 5, 0, 16, true, true)]

/-- Walk the tables from a level (R63 to R65), reading for an endpoint; none is PAGE_NOT_PRESENT. -/
def walkFrom (src : Word) (asid : BitVec 16) (va : Nat) :
    List (Nat × Nat × Nat × Nat × Bool × Bool) → Nat → State → State × Option Tlb
  | [], _, s => (s, none)
  | (lo, n, next, page, leafOk, leafOnly) :: ls, table, s =>
    let (s, bs) := s.readFrom src (table + 8 * (va / 2 ^ lo % 2 ^ n)) 8
    let e := word (leNat bs)
    let a := entryAddr e
    if !e.getLsbD 0 || fieldOf e 6 2 != 0 || fieldOf e 48 16 != 0 then (s, none)
    else if e.getLsbD 1 then
      if !leafOk || a % 2 ^ page != 0 || (e.getLsbD 3 && !e.getLsbD 2) || !physical a then (s, none)
      else (s, some { asid := asid, vpage := va / 2 ^ page, size := page, leaf := e })
    else if leafOnly || fieldOf e 2 4 != 0 || a % 2 ^ next != 0 || !physical a then (s, none)
    else walkFrom src asid va ls a s

/-- A walk of a die's TLB from the address-space table (R63, R66). The virtual address is its 56 implemented bits. Its reads are those
of the die's controller: the spec names no endpoint for them (the model's choice, log entry 58). -/
def State.walk (s : State) (die : Nat) (asid : BitVec 16) (va : Nat) : State × Option Tlb :=
  let src := s.controllerAddr die
  let (s, bs) := s.readFrom src (s.host.astBase + 8 * asid.toNat) 8
  let e := word (leNat bs)
  let a := fieldOf e 16 27 * 2 ^ 16
  if !e.getLsbD 0 || fieldOf e 1 15 != 0 || fieldOf e 43 21 != 0 || !physical a then (s, none)
  else walkFrom src asid va walkLevels a s

/-! ### TINV (R123, R428, R429) -/

/-- A TINV's record covers an ASID. -/
def tinvAsid (mode : Nat) (r : List Byte) (asid : BitVec 16) : Bool := mode == 2 || fieldAt r 0x10 2 == asid.toNat

/-- An address of 56 bits sign-extended, as a number of 64 bits (R62). -/
def extended (va : Nat) : Nat := if va < 2 ^ 55 then va else va + (2 ^ 64 - 2 ^ 56)

/-- A TINV's record covers the page of `2 ^ size` bytes (R429). -/
def tinvCovers (mode : Nat) (r : List Byte) (asid : BitVec 16) (vpage size : Nat) : Bool :=
  tinvAsid mode r asid && (mode != 0 ||
    (decide (fieldAt r 0 8 < extended (vpage * 2 ^ size) + 2 ^ size) &&
     decide (extended (vpage * 2 ^ size) < fieldAt r 0 8 + fieldAt r 8 8)))

/-- A cluster lies in the scope of a TINV issued in another (R429). -/
def tinvReaches (scope cl x : Nat) : Bool :=
  match scope with
  | 2 => x == cl
  | 3 => gangOf x == gangOf cl
  | 4 => x / 256 == cl / 256
  | _ => true

/-- The record of a TINV. -/
def State.tinvRecord (s : State) (slot : Nat) (a : Word) : List Byte := (s.cluster (slot / 256)).read (offsetOf a) 64

/-- A die's TLB keeps a translation while a TINV that covers it is under way, of this module or of another (R244, R429). -/
def State.keptByTinv (s : State) (die : Nat) (t : Tlb) : Bool :=
  s.pips.any (fun p => p.2.ops.any (fun o => match o.kind, o.phase with
    | .tinv mode _, .accepted _ => (p.1 / 65536 == die || decide (5 ≤ o.rel.getD 0)) && tinvCovers mode o.data t.asid t.vpage t.size
    | _, _ => false)) ||
  s.net.tinvs.any (fun x => tinvCovers x.mode x.record t.asid t.vpage t.size)

/-- The translation that a die's TLB holds (R66). -/
def State.lookup (s : State) (die : Nat) (asid : BitVec 16) (va : Nat) : Option Tlb :=
  (mgetD s.tlbs die []).find? (fun t => t.asid == asid && t.vpage == va / 2 ^ t.size)

/-- A die's TLB takes a translation; in a full TLB the oldest that may go gives way, and where none may, the new one is not kept
(R13, R66: which stay is not architectural). -/
def State.fillTlb (s : State) (die : Nat) (t : Tlb) : State :=
  let l := mgetD s.tlbs die []
  if l.length < 4096 then { s with tlbs := mset s.tlbs die (l ++ [t]) }
  else if l.all (s.keptByTinv die) then s
  else { s with tlbs := mset s.tlbs die (l.eraseP (fun x => !s.keptByTinv die x) ++ [t]) }

/-- The bits that an access needs (R65). -/
def leafAllows (leaf : Word) (need : Need) (mode : Bool) : Bool :=
  (mode || leaf.getLsbD 5) && match need with
    | .load => leaf.getLsbD 2
    | .store => leaf.getLsbD 3
    | .atomic => leaf.getLsbD 2 && leaf.getLsbD 3
    | .fetch => leaf.getLsbD 4

/-- Translate and check an access (R62 to R66): the physical address and the leaf, or the cause. -/
def State.translate (s : State) (die : Nat) (asid : BitVec 16) (mode : Bool) (need : Need) (a : Word) :
    State × Except Cause (Nat × Word) :=
  if !canonical a then (s, .error .pageNotPresent)
  else
    let va := a.toNat % 2 ^ 56
    let (s, t) := match s.lookup die asid va with
      | some t => (s, some t)
      | none =>
        let (s, t) := s.walk die asid va
        match t with
        | some t => (s.fillTlb die t, some t)
        | none => (s, none)
    match t with
    | none => (s, .error .pageNotPresent)
    | some t =>
      if leafAllows t.leaf need mode then (s, .ok (entryAddr t.leaf + va % 2 ^ t.size, t.leaf))
      else (s, .error .pagePermission)

/-- Translate every piece of an access before any is performed: the physical addresses, or the first failure. -/
def State.translateAll (s : State) (die : Nat) (asid : BitVec 16) (mode : Bool) (need : Need) :
    List (Word × Nat) → State × Except (Cause × Word) (List (Nat × Word))
  | [] => (s, .ok [])
  | (a, _) :: ps =>
    match s.translate die asid mode need a with
    | (s, .error c) => (s, .error (c, a))
    | (s, .ok x) =>
      match s.translateAll die asid mode need ps with
      | (s, .error e) => (s, .error e)
      | (s, .ok xs) => (s, .ok (x :: xs))

/-! ### The L1 data cache (R68) -/

/-- The line of an L1 that holds an address. -/
def Core.line (c : Core) (asid : BitVec 16) (a : Word) : Option Line :=
  c.lines.find? (fun l => l.asid == asid && l.vline == a.toNat / 128)

/-- A core's L1 without the copy of a line that can be read; one that is on its way is not kept. -/
def Core.discard (c : Core) (asid : BitVec 16) (vline : Nat) : Core :=
  { c with
    lines := c.lines.filter (fun l => !(l.asid == asid && l.vline == vline))
    awaited := c.awaited.filter (fun w => !(w.asid == asid && w.vline == vline)) }

/-- A core's L1 data cache has room for one more of its 256 lines, clean or update-only (R13, R70): a full one loses its
oldest clean line, and where every line is update-only its oldest merges. -/
def State.makeRoom (s : State) (k : Nat) : State :=
  let c := s.core k
  if c.lines.length + c.redsHere.length < 256 then s
  else match c.lines, c.redsHere with
    | _ :: ls, _ => s.setCore k { c with lines := ls }
    | [], r :: _ => s.leaveRed k r
    | [], [] => s

/-- The L1 takes a line. -/
def State.fillLine (s : State) (k : Nat) (l : Line) : State :=
  let t := (s.setCore k ((s.core k).discard l.asid l.vline)).makeRoom k
  t.setCore k { t.core k with lines := (t.core k).lines ++ [l] }

/-- A store updates the issuing core's copy of its line, if it holds one (R68); one that is on its way is not kept. -/
def Core.updateLine (c : Core) (asid : BitVec 16) (a : Word) (bs : List Byte) : Core :=
  { c with
    lines := c.lines.map (fun l =>
      if l.asid == asid && l.vline == a.toNat / 128 then
        { l with data := l.data.take (a.toNat % 128) ++ bs ++ l.data.drop (a.toNat % 128 + bs.length) }
      else l)
    awaited := c.awaited.filter (fun w => !(w.asid == asid && w.vline == a.toNat / 128)) }

/-- Write every piece at its physical address, in order, and the core's own copies (R424, R426). -/
def State.storePieces (s : State) (k : Nat) (asid : BitVec 16) :
    List (Word × Nat) → List (Nat × Word) → List Byte → State
  | (a, n) :: ps, (pa, _) :: pas, bs =>
    let s := s.writeHome pa (bs.take n)
    (s.setCore k ((s.core k).updateLine asid a (bs.take n))).storePieces k asid ps pas (bs.drop n)
  | _, _, _ => s

/-! ### Pins (R71) -/

/-- The pins that stand in the set of a physical line, and those of a launch on its home die. -/
def State.pinsInSet (s : State) (pline : Nat) : Nat :=
  s.pins.countP (fun e => homeDie (128 * e.1) == homeDie (128 * pline) && e.1 % 2 ^ 15 == pline % 2 ^ 15)
def State.pinsOnDie (s : State) (l : BitVec 32) (die : Nat) : Nat :=
  s.pins.countP (fun e => e.2 == l && homeDie (128 * e.1) == die)

/-- PINQUOTA of a launch (R50). -/
def State.pinQuota (s : State) (l : BitVec 32) : Nat :=
  match s.launch l with
  | some x => x.record.pinQuota
  | none => 0

/-- The value that CPIN writes (R71). Where 15 ways are pinned and the quota is reached too, R71 gives values 2 and 3 no precedence;
2 is tested first, the model's choice (log entry 55). -/
def State.pinValue (s : State) (l : BitVec 32) (pline : Nat) : Nat :=
  match mget s.pins pline with
  | some m => if m = l then 1 else 4
  | none =>
    if 15 ≤ s.pinsInSet pline then 2
    else if s.pinQuota l ≤ s.pinsOnDie l (homeDie (128 * pline)) then 3
    else 0

/-! ### Instruction fetch (R63, R124, R161) -/

/-- The word at an address, through the core's L1 instruction cache; what fills it is read for the core's cluster. -/
def State.fetch (s : State) (k : Nat) (asid : BitVec 16) (mode : Bool) (a : Word) : State × Except Cause Nat :=
  if !canonical a then (s, .error .pageNotPresent)
  else match (s.core k).code.find? (fun l => l.asid == asid && l.vline == a.toNat / 128) with
  | some l =>
    if l.x && (mode || l.u) then (s, .ok (leNat ((l.data.drop (a.toNat % 128)).take 4))) else (s, .error .pagePermission)
  | none =>
    match s.translate (k / 4096) asid mode .fetch a with
    | (s, .error c) => (s, .error c)
    | (s, .ok (pa, leaf)) =>
      let (s, data) := s.readLine (s.clusterAddr (k / 16)) (pa / 128 * 128) 128
      let c := s.core k
      let l : CodeLine := { asid := asid, vline := a.toNat / 128, data := data, x := leaf.getLsbD 4, u := leaf.getLsbD 5 }
      (s.setCore k { c with code := (if 128 ≤ c.code.length then c.code.tail else c.code) ++ [l] },
        .ok (leNat ((data.drop (pa % 128)).take 4)))

end Sys2Proof.Machine
end

