-- ==== Sys2Proof/Machine/Topology.lean ====
section
/-! DEFINITION. Fabric addresses, the links of the mesh, between dies and of the ports, and the routes that the tables permit
(10 R271, R274, R277, R285, R466). A die's routers go by one table and flip together (log entry 37). -/

namespace Sys2Proof.Machine

/-! ### Fabric addresses (R274) -/

/-- The cluster that a fabric address of TYPE 0 names. -/
def clusterNamed (a : Word) : Nat := 256 * dieOf a + unitOf a

/-- The number of a die's routers and endpoints within their fabric domain, as one node. -/
def State.nodeNumber (s : State) (die : Nat) : Nat := 64 * s.host.modid.toNat + die

/-- The address lies in this module. -/
def State.here (s : State) (a : Word) : Bool := modidOf a == s.host.modid.toNat

/-- The clusters that a multicast mask names in a gang (R235), in ascending bit order. -/
def maskTargets (cl : Nat) (mask : Word) : List Nat :=
  ((List.range 64).filter (fun i => mask.getLsbD i)).map (gangMember cl)

/-- The route between two endpoints crosses a die edge: XD (R275, R282). -/
def crosses (a b : Word) : Bool := a.toNat / 2 ^ 12 != b.toNat / 2 ^ 12

/-- The mesh router of an endpoint within its die: a cluster's own (R9). -/
def nodeOf (a : Word) : Nat :=
  if endType a = 0 then unitOf a else Config.meshNode (endType a) (dieOf a) (unitOf a) % 256

/-! ### Links (R271, R466) -/

/-- Links are numbered: ports 0 to 31, die-to-die links 32 + 256 * d + 64 * e + i (the i-th of die d's edge e: 0 north,
1 east, 2 south, 3 west), and from here on mesh links, 4 for each router of each die, in the same order of directions. -/
def meshLinks : Nat := 32 + 256 * 64

/-- The die and the edge of a die-to-die link, and its place on the edge. -/
def linkDie (l : Nat) : Nat := (l - 32) / 256
def linkEdge (l : Nat) : Nat := (l - 32) / 64 % 4
def linkPlace (l : Nat) : Nat := (l - 32) % 64

/-- The die of a port (R466). -/
def portDie (q : Nat) : Nat :=
  match q / 8 with
  | 0 => q % 8
  | 1 => 8 * (q % 8) + 7
  | 2 => 56 + q % 8
  | _ => 8 * (q % 8)

/-- The neighbour across an edge in a square of `w` columns and rows (R9). -/
def squareAcross (w n e : Nat) : Option Nat :=
  match e with
  | 0 => if w ≤ n then some (n - w) else none
  | 1 => if n % w + 1 < w then some (n + 1) else none
  | 2 => if n + w < w * w then some (n + w) else none
  | _ => if 0 < n % w then some (n - 1) else none

/-- Die d has a neighbour across an edge, and which (R9). -/
def dieAcross (d e : Nat) : Option Nat := squareAcross 8 d e

/-- The router at which the i-th link of a die's edge begins: since the clusters of the module form one mesh (R9), it is the
i-th router along the edge. -/
def edgeNode (e i : Nat) : Nat :=
  match e with
  | 0 => i
  | 1 => 16 * i + 15
  | 2 => 240 + i
  | _ => 16 * i

/-- The number of a mesh link from a router of a die. -/
def meshLink (die node dir : Nat) : Nat := meshLinks + 4 * (256 * die + node) + dir

/-- The die and the router at which a link end stands. -/
def linkFrom (l : Nat) : Nat × Nat :=
  if l < 32 then (portDie l, Config.portNode l % 256)
  else if l < meshLinks then (linkDie l, edgeNode (linkEdge l) (linkPlace l))
  else ((l - meshLinks) / 1024, (l - meshLinks) / 4 % 256)

/-- The other end of a link within the module, as it is numbered there. -/
def otherEnd (l : Nat) : Option Nat :=
  if l < 32 then none
  else if l < meshLinks then
    if linkPlace l < 16 then
      (dieAcross (linkDie l) (linkEdge l)).map (fun d => 32 + 256 * d + 64 * ((linkEdge l + 2) % 4) + linkPlace l)
    else none
  else
    let x := l - meshLinks
    if x < 1024 * 64 then (squareAcross 16 (x / 4 % 256) (x % 4)).map (fun n => meshLink (x / 1024) n ((x % 4 + 2) % 4)) else none

/-- The link is one of R271's. -/
def linkExists (l : Nat) : Bool := decide (l < 32) || (otherEnd l).isSome

/-- A link end. -/
def State.link (s : State) (l : Nat) : Link := mgetD s.net.links l {}

/-- The state with a link end replaced. -/
def State.setLink (s : State) (l : Nat) (x : Link) : State := { s with net := { s.net with links := mset s.net.links l x } }

/-! ### Classes and channels (R272, R276, R277) -/

/-- The class of a kind: 0 request, 1 forward, 2 response, 3 bulk. -/
def packetClass (kind : Byte) : Nat :=
  if kind = 1 ∨ kind = 2 then 0 else if kind = 8 then 1 else if 16 ≤ kind.toNat then 2 else 3

/-- The slots that a packet takes: beats of 128 bytes, or flits of 232 payload bytes at a port (R271, R272, R275). -/
def slotsOf (l n : Nat) : Nat := if l < 32 then (32 + n + 231) / 232 else (32 + n + 127) / 128

/-! ### Routes (R277, R285, R289) -/

/-- The version at a node: that of a change it has flipped to, or the present one (R286, R287). -/
def State.versionAt (s : State) (die : Nat) : Byte :=
  match s.net.change with
  | some c => if c.flipped.contains die then c.version else s.net.version
  | none => s.net.version

/-- A version is old at a node of version `n` (R285). -/
def oldVersion (n p : Byte) : Bool := decide (1 ≤ (n - p).toNat) && decide ((n - p).toNat ≤ 127)

/-- The table of a version that a die holds: up to two, of the present version and of the next (R285, R286). -/
def State.tableAt (s : State) (die : Nat) (ver : Byte) : Option DieTable :=
  if ver = s.net.version then some (mgetD s.net.tables die {})
  else match s.net.change with
    | some c => if c.version = ver then mget c.tables die else none
    | none => none

/-- What a die's table gives for a packet that leaves the die. -/
def State.routeOf (s : State) (die : Nat) (ver : Byte) (dst : Word) : Option Route :=
  (s.tableAt die ver).bind (fun t => if s.here dst then mget t.dies (dieOf dst) else mget t.modules (modidOf dst))

/-- The routers of a die that a packet makes for, with the link by which it leaves the die there: its end, or the living links
that the table permits on the adaptive or the escape channel. Packets of a pair that the tables do not connect stay (R289). -/
def State.goals (s : State) (q : Packet) (die : Nat) (escape : Bool) : List (Nat × Option Nat) :=
  if s.here q.dst && dieOf q.dst == die then [(nodeOf q.dst, none)]
  else if s.net.unreachable.contains (q.src.toNat, q.dst.toNat) then []
  else match s.routeOf die q.ver q.dst with
    | none => []
    | some r => ((if escape then [r.escape] else r.adaptive).filter (fun l =>
        linkExists l && decide (l < meshLinks) && !(s.link l).dead && (linkFrom l).1 == die)).map (fun l => ((linkFrom l).2, some l))

/-- The direction of the escape route on the mesh: X first, then Y (R277). -/
def escapeDir (a b : Nat) : Option Nat :=
  if a % 16 < b % 16 then some 1
  else if b % 16 < a % 16 then some 3
  else if a / 16 < b / 16 then some 2
  else if b / 16 < a / 16 then some 0
  else none

/-! ### Escape routes form no cycle of channel dependencies (R277) -/

end Sys2Proof.Machine

namespace Sys2Proof
open Machine

/-- By destination (a die, or another module), the link on the escape channel by which its packets leave a die. -/
def DieTable.escapes (t : DieTable) (die : Nat) : List ((Bool × Nat) × Nat) :=
  (t.dies.map (fun r => ((true, r.1), r.2.escape)) ++ t.modules.map (fun r => ((false, r.1), r.2.escape))).filter
    (fun e => linkExists e.2 && decide (e.2 < meshLinks) && (linkFrom e.2).1 == die)

end Sys2Proof

namespace Sys2Proof.Machine

/-- From the mesh channel that leaves a router in a direction, X-then-Y dependencies come to a router. -/
def meshReaches (node dir x : Nat) : Bool :=
  match dir with
  | 0 => x % 16 == node % 16 && decide (x / 16 < node / 16)
  | 1 => decide (node % 16 < x % 16)
  | 2 => x % 16 == node % 16 && decide (node / 16 < x / 16)
  | _ => decide (x % 16 < node % 16)

/-- The links out of a die whose escape channels depend on that of a link into it: at its own router where a packet of the one goes
on by the other, and elsewhere over the mesh channels that its packets take, which packets within the die join. -/
def escapeNext (tables : Tables) (l : Nat) : List Nat :=
  match otherEnd l with
  | none => []
  | some e =>
    let (die, node) := linkFrom e
    let out := (mgetD tables die {}).escapes die
    let carried := (((mgetD tables (linkDie l) {}).escapes (linkDie l)).filter (fun x => x.2 == l)).map Prod.fst
    let on := out.filter (fun x => carried.contains x.1)
    let dirs := if carried.contains (true, die) then [0, 1, 2, 3] else on.filterMap (fun x => escapeDir node (linkFrom x.2).2)
    (out.filter (fun x => (on.contains x && (linkFrom x.2).2 == node) ||
      dirs.any (fun d => meshReaches node d (linkFrom x.2).2))).map Prod.snd

/-- A relation on numbers, by successors, has no cycle: what leads nowhere is left out, round by round. -/
def noCycle (next : Nat → List Nat) : Nat → List Nat → Bool
  | 0, xs => xs.isEmpty
  | fuel + 1, xs => xs.isEmpty || noCycle next fuel (xs.filter (fun x => (next x).any xs.contains))

/-- The escape routes of a module's tables, by die, form no cycle of channel dependencies between its dies. -/
def escapesOk (tables : Tables) : Bool :=
  let ls := (tables.flatMap (fun e => (e.2.escapes e.1).map Prod.snd)).eraseDups
  noCycle (escapeNext tables) ls.length ls

/-- A direction is minimal on the mesh towards a router (R271). -/
def minimalDir (a b dir : Nat) : Bool :=
  match dir with
  | 0 => decide (b / 16 < a / 16)
  | 1 => decide (a % 16 < b % 16)
  | 2 => decide (a / 16 < b / 16)
  | _ => decide (b % 16 < a % 16)

/-- A packet at a router may take a link: on the mesh, towards a router it makes for; out of the die, at such a router. -/
def State.permits (s : State) (q : Packet) (die node link : Nat) (escape : Bool) : Bool :=
  (s.goals q die escape).any (fun g =>
    if link < meshLinks then g == (node, some link)
    else linkFrom link == (die, node) &&
      (if escape then escapeDir node g.1 == some ((link - meshLinks) % 4) else minimalDir node g.1 ((link - meshLinks) % 4)))

end Sys2Proof.Machine
end

