-- ==== Sys2Proof/Machine/Packets.lean ====
section
/-! DEFINITION. Packets (10 R275, R276, R278, R282 to R287): their bytes, injection, answers, receipts, confirmation, and the flip
of a node to a new routing version. Node d is die d: its routers and its endpoints. -/

namespace Sys2Proof
open Machine

/-! ### Bytes of a packet (R275, R276) -/

/-- The 32 bytes of a packet's header. -/
def Packet.header (q : Packet) : List Byte :=
  [q.kind, q.ver, q.rver, BitVec.ofNat 8 (q.setFull.toNat + 2 * q.crossesDie.toNat)] ++ natBytes 2 q.seq.toNat ++
    natBytes 2 q.len.val ++ natBytes 8 q.src.toNat ++ natBytes 8 q.dst.toNat ++ natBytes 8 q.addr.toNat

/-- A packet as it travels. -/
def Packet.bytes (q : Packet) : List Byte := q.header ++ q.body

/-- What a packet's header does not hold. -/
def Packet.tag (q : Packet) : PacketTag := ⟨q.work, q.job, q.launch, q.origin⟩

/-- The size of an atomic access, by what it does (R339, R347, R380). -/
def PacketWork.bytes : PacketWork → Nat
  | .atomic _ wide _ | .cas wide _ _ => if wide then 8 else 4
  | .join => 4
  | _ => 16

/-- The body of AT (R276): operation, size, the scopes of acquire and release (0 for none, else the code plus 1), operand, and
CAS's expected value. The spec names these contents and gives them no layout: this one is the model's (log entry 57). -/
def PacketWork.body (w : PacketWork) (acq rel : Option Nat) : List Byte :=
  let (op, x, y) : Nat × Nat × Nat := match w with
    | .atomic op _ x => (op, x.toNat, 0)
    | .cas _ e x => (0x10, x.toNat, e.toNat)
    | .join => (0x11, 0, 0)
    | .arrive => (0x12, 0, 0)
    | .barrierInit n => (0x13, n, 0)
    | .barrierWait none => (0x14, 0, 0)
    | .barrierWait (some p) => (0x15, p, 0)
    | .barrierAdd n => (0x16, n, 0)
    | .barrierSub n => (0x17, n, 0)
    | .pin => (0x18, 0, 0)
    | .unpin => (0x19, 0, 0)
    | .flush => (0x1A, 0, 0)
    | .seal h => (0x1B, h.toNat, 0)
    | _ => (0, 0, 0)
  natBytes 1 op ++ natBytes 1 w.bytes ++ natBytes 1 (acq.elim 0 (· + 1)) ++ natBytes 1 (rel.elim 0 (· + 1)) ++ natBytes 8 x ++ natBytes 8 y

/-- What the module does for itself: recalls and merges of update-only lines, and what its agents ask of home L2s. Such a packet is of no
job, and neither is its answer. -/
def PacketWork.ofModule : PacketWork → Bool
  | .recall | .merge | .own => true
  | _ => false

/-- The clusters that a multicast packet is still to reach. -/
def Packet.targets (q : Packet) : List Nat := maskTargets (clusterNamed q.dst) (word (fieldAt q.body 0 8))

end Sys2Proof

namespace Sys2Proof.Machine

/-- The bytes of the body: LEN, but for RD, whose LEN is the size of the read. -/
def bodyLength (kind : Byte) (len : Nat) : Nat := if kind = 0x01 then 0 else len

/-- The packet that has arrived in full: its header, its body, and what the header does not hold. -/
def packetOf (bs : List Byte) (t : PacketTag) : Packet :=
  let len := Fin.ofNat 1537 (fieldAt bs 6 2)
  let kind := BitVec.ofNat 8 (fieldAt bs 0 1)
  { kind := kind, ver := BitVec.ofNat 8 (fieldAt bs 1 1), rver := BitVec.ofNat 8 (fieldAt bs 2 1),
    setFull := (fieldAt bs 3 1).testBit 0, crossesDie := (fieldAt bs 3 1).testBit 1, seq := BitVec.ofNat 16 (fieldAt bs 4 2),
    src := word (fieldAt bs 8 8), dst := word (fieldAt bs 16 8), addr := word (fieldAt bs 24 8), len := len,
    body := (bs.drop 32).take (bodyLength kind len.val), work := t.work, job := t.job, launch := t.launch, origin := t.origin }

/-! ### Injection (R278, R282, R291) -/

/-- The target of a local address: RANK resolved to MODID at injection; none while the rank is moving, the module's own
included (R291). -/
def State.resolve (s : State) (job : Nat) (a : Word) : Option Word :=
  let rank := if rankOf a = 0xFFFF then (s.jobOf job).ownRank else rankOf a
  let e := mgetD (s.jobOf job).ranks rank 0
  if e.getLsbD 21 then none
  else if s.rankHere job (rankOf a) then some (s.clusterAddr (clusterOf a))
  else if e.getLsbD 20 then some (word (clusterOf a % 256 + clusterOf a / 256 * 2 ^ 12 + fieldOf e 0 20 * 2 ^ 18))
  else none

/-- The module's own rank in a job is moving: no packet to it is injected, a multicast within a gang either (R291). -/
def State.rankMoves (s : State) (job : Nat) : Bool := (mgetD (s.jobOf job).ranks (s.jobOf job).ownRank 0).getLsbD 21

/-- The number of an origin and a target. -/
def pairKey (src dst : Word) : Nat := src.toNat * 2 ^ 64 + dst.toNat

/-- The SEQ values in use between an origin and a target: of unconfirmed packets, and of responses still under way here. -/
def State.seqsInUse (s : State) (src dst : Word) : List (BitVec 16) :=
  (s.net.outstanding.filter (fun o => o.packet.src == src && o.packet.dst == dst)).map (fun o => o.packet.seq) ++
  (s.net.packets.filter (fun e => e.2.src == dst && e.2.dst == src)).map (fun e => e.2.seq)

/-- The next SEQ that no unconfirmed packet of the pair uses: values are taken in turn, so that a late response names no newer
packet (R282, R284). -/
def State.freeSeq (s : State) (src dst : Word) : BitVec 16 :=
  let used := s.seqsInUse src dst
  let next := mgetD s.net.nextSeq (pairKey src dst) 0
  match (List.range (used.length + 1)).find? (fun i => !used.contains (BitVec.ofNat 16 (next + i))) with
  | some i => BitVec.ofNat 16 (next + i)
  | none => 0

/-- A cluster's retry buffer has room for one more copy: header and body, within 0x3E_0000 to 0x3E_5FFF (R282). -/
def State.copyRoom (s : State) (src : Word) (bytes : Nat) : Bool :=
  let used := (s.net.outstanding.filter (fun o => o.retained && o.packet.src == src)).map (fun o => 32 + o.packet.body.length)
  decide (used.sum + 32 + bytes ≤ 0x6000)

/-- A target has room for one more receipt, within 0x3E_6000 to 0x3E_7FFF for a cluster (R282, R283). The spec gives no size for
a receipt: that one takes a header and its body, and that room for a body of 64 bytes is asked for, is the model's choice (log
entry 57). -/
def State.receiptRoom (s : State) (dst : Word) : Bool :=
  let used := (s.net.receipts.filter (fun r => r.dst == dst)).map (fun r => 32 + r.response.body.length)
  fieldOf dst 8 4 != 0 || decide (used.sum + 32 + 64 ≤ 0x2000)

/-- An origin holds space for so many further responses (R278). -/
def State.responseRoom (s : State) (src : Word) (n : Nat) : Bool :=
  decide (s.net.outstanding.countP (fun o => o.packet.src == src && !o.completed) + n ≤ Config.responseSpace (endType src) + 64)

/-- An origin may inject a packet of so many body bytes that causes so many responses: it has space for them (R278), and a
cluster for the copy of a retained packet (R282; the stores of other endpoints are not architectural). -/
def State.mayInject (s : State) (src dst : Word) (bytes responses : Nat) : Bool :=
  s.responseRoom src responses && (!crosses src dst || endType src != 0 || s.copyRoom src bytes)

/-- A request or bulk packet before its injection. -/
def State.packet (s : State) (kind : Byte) (src dst a : Word) (len : Nat) (body : List Byte) (sf : Bool) (work : PacketWork)
    (job : Nat) (launch : BitVec 32) : Packet :=
  { kind := kind, ver := 0, rver := 0, setFull := sf, crossesDie := crosses src dst, seq := s.freeSeq src dst, src := src,
    dst := dst, addr := a, len := Fin.ofNat 1537 len, body := body, work := work, job := job, launch := launch, origin := src }

/-- A packet begins its way at the router of its origin. -/
def State.addPacket (s : State) (p : Packet) : State :=
  { s with net := { s.net with
    packets := mset s.net.packets s.net.nextPacket p
    transit := mset s.net.transit s.net.nextPacket { spot := .router (dieOf p.src) (nodeOf p.src) }
    nextPacket := s.net.nextPacket + 1 } }

/-- One number of a list, counted on modulo 2^16. -/
def countOn (xs : List Nat) (v n : Nat) : List Nat := xs.set v ((xs.getD v 0 + n) % 65536)

/-- The slots of the ingress buffer in which a packet lies are free (R281). -/
def Net.freeSlots (x : Net) (n : Nat) : Net :=
  match mget x.transit n, mget x.packets n with
  | some { held := some (l, v), .. }, some q =>
    let y := mgetD x.links l {}
    { x with links := mset x.links l { y with freed := countOn y.freed v (slotsOf l q.body.length) } }
  | _, _ => x

/-- The fabric without a packet. -/
def Net.drop (x : Net) (n : Nat) : Net :=
  let y := x.freeSlots n
  { y with packets := merase y.packets n, transit := merase y.transit n, sinks := merase y.sinks n }

/-- A packet leaves the packets in flight. -/
def State.dropPacket (s : State) (n : Nat) : State := { s with net := s.net.drop n }

/-- Inject a request or bulk packet, keeping a copy when it is retained (R282). -/
def State.inject (s : State) (origin : Origin) (p : Packet) : State :=
  let p := { p with ver := s.versionAt (dieOf p.src) }
  let s := { s with net := { s.net with
    outstanding := s.net.outstanding ++ [(⟨origin, p, p.crossesDie, false⟩ : Outstanding)]
    nextSeq := mset s.net.nextSeq (pairKey p.src p.dst) (p.seq.toNat + 1) } }
  s.addPacket p

/-- A CTL packet from a die controller (R276, R286). -/
def State.sendControl (s : State) (die : Nat) (dst : Word) (c : Control) : State :=
  let src := s.controllerAddr die
  s.addPacket { s.packet 0x18 src dst 0 0 [] false (.control c) 0 0 with ver := s.versionAt die, seq := 0 }

/-- The die controller on which the route master runs (R285). -/
def State.masterAddr (s : State) : Word := word (2 * 2 ^ 8 + s.net.routeMaster * 2 ^ 18)

/-! ### Flipping (R287) -/

/-- A node flips: its endpoints replay each old copy, and send again the response of each receipt; it acknowledges (R286, R287). -/
def State.flipNode (s : State) (die : Nat) : State :=
  match s.net.change with
  | none => s
  | some c =>
    if c.flipped.contains die then s
    else
      let mine := fun (a : Word) => s.here a && dieOf a == die
      let s := { s with net := { s.net with change := some { c with flipped := c.flipped ++ [die] } } }
      let old := fun (o : Outstanding) => o.retained && mine o.packet.src && oldVersion c.version o.packet.ver
      let outs := s.net.outstanding.map (fun o => if old o then { o with packet := { o.packet with ver := c.version } } else o)
      let replays := (s.net.outstanding.filter old).map (fun o => { o.packet with ver := c.version })
      let offers := (s.net.receipts.filter (fun r => mine r.dst)).map (fun r => { r.response with ver := c.version })
      ((replays ++ offers).foldl State.addPacket { s with net := { s.net with outstanding := outs } }).sendControl die s.masterAddr
        (.flipped c.version (s.nodeNumber die))

/-- The target of a packet has begun to serve it: some of its bank lines, a BARW that it has counted, a seal. -/
def State.begun (s : State) (n : Nat) (q : Packet) : Bool :=
  (mget s.net.sinks n).isSome || match q.work with
    | .barrierHeld _ | .barrierDone _ | .sealHeld _ => true
    | _ => false

/-- A node of a die discards the packet as old (R285, R287); one of the on-die mesh is never discarded (R282), nor one that its
target has begun to serve (R288). -/
def State.discards (s : State) (die n : Nat) (q : Packet) : Bool :=
  q.crossesDie && oldVersion (s.versionAt die) q.ver && !s.begun n q

/-- A packet of the next version reaches a die: its node flips (R287). -/
def State.flipBy (s : State) (die : Nat) (q : Packet) : State :=
  match s.net.change with
  | some c => if q.crossesDie && q.ver == c.version then s.flipNode die else s
  | none => s

/-- A control packet of this module that is cut off or has become old is sent again, under the version of its origin now: it has no copy
elsewhere, and a change waits for it (R286; log entry 56). -/
def State.sendAgain (s : State) (n : Nat) (q : Packet) : State :=
  { s.dropPacket n with net := { (s.dropPacket n).net with
    packets := mset (s.dropPacket n).net.packets n { q with ver := s.versionAt (dieOf q.src) }
    transit := mset (s.dropPacket n).net.transit n { spot := .router (dieOf q.src) (nodeOf q.src) } } }

/-- A packet queued for a dead link, or an old one, is dropped (R286, R287). -/
def State.losePacket (s : State) (n : Nat) (q : Packet) : State :=
  match q.work with
  | .control _ => if s.here q.src then s.sendAgain n q else s.dropPacket n
  | _ => s.dropPacket n

/-! ### Arrival -/

/-- What becomes of a packet that its target takes up. -/
inductive Arrival where
  /-- There is none such, or it waits. -/
  | none
  /-- It is discarded, or answered from a receipt. -/
  | over (s : State)
  /-- It is to be acted on; it has left the packets in flight. -/
  | act (s : State) (p : Packet)

/-- A packet stands at the router of an endpoint. -/
def State.standsAt (s : State) (n : Nat) (a : Word) : Bool :=
  match mget s.net.transit n with
  | some t => t.spot == .router (dieOf a) (nodeOf a)
  | none => true

/-- Take up a packet of one of these kinds at its endpoint in this module: the node flips on a packet of the next version and
discards an old one (R287). A packet between endpoints that the tables do
not connect waits (R289). -/
def State.takeUp (s : State) (n : Nat) (kinds : List Byte) : Arrival :=
  match mget s.net.packets n with
  | none => .none
  | some p =>
    if !kinds.contains p.kind || !s.here p.dst || !s.standsAt n p.dst || s.net.unreachable.contains (p.src.toNat, p.dst.toNat) then .none
    else
      let die := dieOf p.dst
      let s := s.flipBy die p
      if s.discards die n p then .over (s.losePacket n p) else .act (s.dropPacket n) p

/-- The answer to a packet, with ADDR the access's address or the refusal cause (R275): its receipt is kept when the packet is retained (R283), and RVER is the VER it answers. -/
def State.answer (s : State) (q : Packet) (kind : Byte) (body : List Byte) (cause : Nat) : State :=
  let r : Packet :=
    { kind := kind, ver := s.versionAt (dieOf q.dst), rver := q.ver, setFull := false, crossesDie := q.crossesDie,
      seq := q.seq, src := q.dst, dst := q.origin, addr := if kind = 0x12 then word cause else q.addr,
      len := Fin.ofNat 1537 body.length, body := body,
      work := if q.work.ofModule then q.work else .plain, job := q.job, launch := q.launch, origin := q.origin }
  let s := if q.crossesDie then
      { s with net := { s.net with receipts := s.net.receipts ++ [(⟨q.origin, q.dst, q.seq, r⟩ : Receipt)] } }
    else s
  s.addPacket r

/-- The receipt that makes a retained packet a duplicate (R283). -/
def State.receiptOf (s : State) (q : Packet) : Option Receipt :=
  s.net.receipts.find? (fun r => r.src == q.origin && r.dst == q.dst && r.seq == q.seq)

/-- Send a receipt's response again, for another copy (R283). -/
def State.answerAgain (s : State) (q : Packet) (r : Receipt) : State :=
  s.addPacket { r.response with ver := s.versionAt (dieOf q.dst), rver := q.ver }

/-- A copy of a packet that its target has begun to serve: the answer will be to the latest copy (R283). -/
def State.twin (s : State) (q : Packet) : Option Nat :=
  (s.net.packets.find? (fun e => e.2.origin == q.origin && e.2.dst == q.dst && e.2.seq == q.seq && s.begun e.1 e.2)).map Prod.fst

/-- A packet in flight changed. -/
def State.modPacket (s : State) (n : Nat) (f : Packet → Packet) : State :=
  { s with net := { s.net with packets := s.net.packets.map (fun e => if e.1 = n then (e.1, f e.2) else e) } }

/-- Take up a request or bulk packet: a duplicate is answered from its receipt, or with what its target has begun, and a retained
one waits while no receipt entry is free (R283). -/
def State.takeRequest (s : State) (n : Nat) (kinds : List Byte) : Arrival :=
  match s.takeUp n kinds with
  | .act t q =>
    if q.crossesDie then
      match t.receiptOf q with
      | some r => .over (t.answerAgain q r)
      | none => match t.twin q with
        | some m => .over (t.modPacket m (fun x => { x with ver := q.ver }))
        | none => if t.receiptRoom q.dst then .act t q else .none
    else .act t q
  | x => x

/-! ### Responses at the origin (R284) -/

/-- The outstanding request that a response answers. -/
def State.answered (s : State) (r : Packet) : Option Outstanding :=
  s.net.outstanding.find? (fun o => o.packet.src == r.dst && o.packet.dst == r.src && o.packet.seq == r.seq)

/-- The origin takes a response: whether it completes the access, and the state in which the copy is freed and the
packet confirmed once RVER is the VER of the latest copy. -/
def State.takeResponse (s : State) (r : Packet) : State × Option Outstanding :=
  match s.answered r with
  | none => (s, none)
  | some o =>
    let same := fun (x : Outstanding) => x.packet.src == o.packet.src && x.packet.dst == o.packet.dst && x.packet.seq == o.packet.seq
    let first := if o.completed then none else some o
    if !o.retained then
      ({ s with net := { s.net with outstanding := s.net.outstanding.filter (fun x => !same x) } }, first)
    else if r.rver == o.packet.ver then
      let s := { s with net := { s.net with outstanding := s.net.outstanding.filter (fun x => !same x) } }
      let conf : Packet :=
        { kind := 0x15, ver := s.versionAt (dieOf r.dst), rver := 0, setFull := false, crossesDie := true, seq := 0,
          src := r.dst, dst := r.src, addr := 0, len := Fin.ofNat 1537 2, body := natBytes 2 r.seq.toNat, work := .plain, job := r.job,
          launch := r.launch, origin := r.dst }
      (s.addPacket conf, first)
    else
      ({ s with net := { s.net with outstanding := s.net.outstanding.map (fun x => if same x then { x with completed := true } else x) } },
        first)

end Sys2Proof.Machine
end

