-- ==== Sys2Proof/Machine/Order.lean ====
section
/-! DEFINITION. When an outstanding operation of a pip may be performed (04_ordering.md), and what performing it does
for the accesses to global space and to the scratchpad of the pip's own cluster. -/

namespace Sys2Proof.Machine

/-! ### What an operation is -/

/-- The local address an operation names. -/
def OpKind.localAddr? : OpKind → Option Word
  | .loadL a _ _ => some a
  | .storeL a _ _ => some a
  | .atomicL a _ _ _ => some a
  | .joinL a => some a
  | .bariL a _ => some a
  | .baraL a => some a
  | .barwL a _ => some a
  | _ => none

/-- The operation enters the load queue (R99, R110, R361). -/
def OpKind.loadSide : OpKind → Bool
  | .loadG _ | .loadL _ _ _ | .atomicG _ _ _ _ | .casG _ _ _ _ | .atomicL _ _ _ _ | .pinG _ | .joinL _ | .baraL _ => true
  | _ => false

/-- The operation enters the store queue (R99, R110, R116, R123, R348 to R350, R357, R363, R374). -/
def OpKind.storeSide : OpKind → Bool
  | .storeG _ _ | .storeL _ _ _ | .atomicG _ _ _ _ | .casG _ _ _ _ | .atomicL _ _ _ _ | .redG _ _ _ _ | .unpinG _
  | .flushG _ | .presetL _ _ | .footL _ _ _ _ | .joinL _ | .bariL _ _ | .baraL _ | .barwL _ _ | .command _ _ _
  | .tinv _ _ => true
  | _ => false

/-- The operation makes an access or is a command: what MARK, fences and acquires hold back. -/
def OpKind.ordered (o : OpKind) : Bool := o.loadSide || o.storeSide

/-- BARW, WAITGE and the page instructions acquire when they write rd, and hold back nothing until then (R167, R251). -/
def OpKind.lateAcquire : OpKind → Bool
  | .barwL _ _ | .waitge _ _ | .command _ _ _ => true
  | _ => false

/-- The operation no longer holds back others: performed, an accepted TINV (R118), or a BARW that has read PHASE
(R350, R351). -/
def Op.performed (o : Op) : Bool :=
  match o.phase with
  | .done => true
  | .accepted _ => true
  | _ => match o.kind with
    | .barwL _ (some _) => true
    | .pure | .waitge _ _ => true
    | _ => false

/-- A RED that lies in its update-only line (R111). -/
def Op.deposited (o : Op) : Bool := o.phase == .deposited

/-- The operation is a replay entry (R316). -/
def Op.isDeferred (o : Op) : Bool := match o.phase with
  | .deferred _ _ => true
  | _ => false

/-- The operation's local address names another cluster (R98). -/
def State.opRemote (s : State) (job cl : Nat) (o : Op) : Bool :=
  match o.kind.localAddr? with
  | some a => !s.namesCluster job cl a
  | none => false

/-- The agent at `cl` counts the cluster that a remote address names as a member of the scope (R104). -/
def State.inScope (s : State) (job cl scope : Nat) (a : Word) : Bool :=
  if s.rankHere job (rankOf a) then
    match scope with
    | 0 | 1 => false
    | 2 => clusterOf a == cl
    | 3 => gangOf (clusterOf a) == gangOf cl
    | 4 => clusterOf a / 256 == cl / 256
    | _ => true
  else decide (6 ≤ scope)

/-- A remote operation's target is a member of the scope. -/
def State.remoteIn (s : State) (job cl scope : Nat) (o : Op) : Bool :=
  match o.kind.localAddr? with
  | some a => s.inScope job cl scope a
  | none => false

/-- Ranges of 16-byte granules that an operation accesses: the space (an ASID, or 65,536 + the local place), the
first and the last granule (R100). -/
def State.ranges (s : State) (job cl : Nat) (o : Op) : List (Nat × Nat × Nat) :=
  let glob := fun (a : Word) (n : Nat) => (o.asid.toNat, a.toNat / 16, (a.toNat + n - 1) / 16)
  let place := fun (a : Word) =>
    65536 + (if s.rankHere job (rankOf a) then (s.jobOf job).ownRank else rankOf a) * 2 ^ 14 + clusterOf a
  let loc := fun (a : Word) (n : Nat) => (place a, offsetOf a / 16, (offsetOf a + n - 1) / 16)
  let own := 65536 + (s.jobOf job).ownRank * 2 ^ 14 + cl
  match o.kind with
  | .loadG ps => ps.map (fun p => glob p.1 p.2)
  | .storeG ps _ => ps.map (fun p => glob p.1 p.2)
  | .atomicG a n _ _ => [glob a n]
  | .casG a n _ _ => [glob a n]
  | .redG a n _ _ => [glob a n]
  | .loadL a n _ => [loc a n]
  | .storeL a bs _ => [loc a bs.length]
  | .atomicL a n _ _ => [loc a n]
  | .joinL a => [loc a 4]
  | .bariL a _ => [loc a 16]
  | .baraL a => [loc a 16]
  | .barwL a _ => [loc a 16]
  | .presetL g n => if n = 0 then [] else [(own, g, g + n - 1)]
  | .footL g n _ _ => if n = 0 then [] else [(own, g, g + n - 1)]
  | _ => []

/-- Two lists of ranges share a granule. -/
def overlap (xs ys : List (Nat × Nat × Nat)) : Bool :=
  xs.any (fun x => ys.any (fun y => x.1 == y.1 && decide (x.2.1 ≤ y.2.2) && decide (y.2.1 ≤ x.2.2)))

/-- A RED: a deposited one of the same pip holds no other back, since both go into the update-only line in order (R415). -/
def OpKind.isRed : OpKind → Bool
  | .redG _ _ _ _ => true
  | _ => false

/-- An earlier operation that a release at a scope waits for (R106): near, or remote with its target in the scope,
or a RED not merged when the scope is core or wider. -/
def State.releaseWaits (s : State) (job cl scope : Nat) (e : Op) : Bool :=
  if e.performed || !e.kind.ordered then false
  else if e.deposited then decide (1 ≤ scope)
  else if s.opRemote job cl e then s.remoteIn job cl scope e
  else true

/-- An update or a wait on a barrier. -/
def OpKind.onBarrier : OpKind → Bool
  | .bariL _ _ | .baraL _ | .barwL _ _ => true
  | _ => false

/-- An engine command. -/
def OpKind.isCommand : OpKind → Bool
  | .command _ _ _ => true
  | _ => false

/-- The earlier operation `e` holds back the later `x` (R99, R100, R103, R106, R109, R110, R316). A command takes the place of a near store,
and earlier releases hold it wherever they act (R116); it holds back later updates of barriers, also of those in other clusters, so that
its addition comes before them (R120). -/
def State.holds (s : State) (job cl : Nat) (e x : Op) : Bool :=
  if e.performed then false
  else match e.kind with
    | .mark => x.kind.ordered
    | .fence kind => x.kind.ordered && (kind != 2 || x.kind.storeSide)
    | _ =>
      (e.acq.isSome && !e.kind.lateAcquire && x.kind.ordered)
      || (overlap (s.ranges job cl e) (s.ranges job cl x) && !(e.deposited && x.kind.isRed))
      || (e.isDeferred && ((e.kind.loadSide && x.kind.loadSide) || (e.kind.storeSide && x.kind.storeSide)))
      || (!s.opRemote job cl e && !s.opRemote job cl x && !e.deposited &&
          ((e.kind.loadSide && x.kind.loadSide) || (e.kind.storeSide && x.kind.storeSide)))
      || (match x.rel with
          | some scope => s.releaseWaits job cl scope e
          | none => false)
      || (x.kind.isCommand && e.rel.isSome && e.kind.ordered)
      || (e.kind.isCommand && x.kind.onBarrier)

/-- The operations of a pip before a given one. -/
def Pip.before (p : Pip) (n : Nat) : List Op := p.ops.takeWhile (fun o => o.id != n)

/-- Nothing earlier holds the operation back. -/
def State.canPerform (s : State) (k : Nat) (p : Pip) (o : Op) : Bool :=
  let job := s.jobOfLaunch p.launch
  !(p.before o.id).any (fun e => s.holds job (k / 256) e o)

/-- Every access that a release at a scope waits for has been performed (R106), and what acts at issue as a release may act: every
earlier acquire, MARK and FENCE is over, which orders it too (R108, R109). -/
def State.released (s : State) (k : Nat) (p : Pip) (scope : Nat) : Bool :=
  !p.ops.any (fun e => s.releaseWaits (s.jobOfLaunch p.launch) (k / 256) scope e ||
    (!e.performed && (match e.kind with
      | .mark | .fence _ => true
      | kind => e.acq.isSome && !kind.lateAcquire)))

/-- A pip may update a counter of its own cluster at issue (R110, R377, R380): an atomic near access, an acquire and
release at cluster scope, which nothing earlier holds back. -/
def State.mayCount (s : State) (k : Nat) (p : Pip) (a : Word) : Bool :=
  let x : Op := { id := p.nextOp, kind := .atomicL a 4 0 0, acq := some 2, rel := some 2 }
  !p.ops.any (fun e => s.holds (s.jobOfLaunch p.launch) (k / 256) e x)

/-- The acquire of a performed operation: at cluster scope or wider it discards L1 lines (R69, R106). -/
def State.acquireAt (s : State) (core : Nat) (acq : Option Nat) : State :=
  match acq with
  | some scope => if 2 ≤ scope then s.discardLines core else s
  | none => s

/-! ### MARK and FENCE -/

/-- Whether a MARK or FENCE at the head of what is left is over: every earlier access it waits for is performed. -/
def State.fenceOver (s : State) (job cl : Nat) (earlier : List Op) (o : Op) : Bool :=
  match o.kind with
  | .mark => !earlier.any (fun e => e.kind.ordered && !e.performed)
  | .fence 1 => !earlier.any (fun e => e.kind.loadSide && !e.performed)
  | .fence _ => !earlier.any (s.releaseWaits job cl (o.rel.getD 0))
  | _ => false

/-- The operations without the MARKs and FENCEs that are over, and whether an acquiring one at cluster scope or
wider went (R109, R374). -/
def State.retire (s : State) (job cl : Nat) : List Op → List Op → List Op × Bool
  | _, [] => ([], false)
  | earlier, o :: os =>
    if s.fenceOver job cl earlier o then
      let (l, d) := s.retire job cl earlier os
      (l, d || (match o.acq with
        | some scope => decide (2 ≤ scope)
        | none => false))
    else
      let (l, d) := s.retire job cl (earlier ++ [o]) os
      (o :: l, d)

/-- What a remote operation sends: KIND, further work, LEN, body, set-full (R276, R292). -/
def Op.request (o : Op) : Option (Byte × PacketWork × Nat × List Byte × Bool) :=
  let at_ := fun (w : PacketWork) => some ((0x02 : Byte), w, (w.body o.acq o.rel).length, w.body o.acq o.rel, false)
  match o.kind with
  | .loadL _ n q => some (0x01, .load q, n, [], false)
  | .storeL _ bs f => some (0x03, .plain, bs.length, bs, f)
  | .atomicL _ n op x => at_ (.atomic op (n == 8) x)
  | .joinL _ => at_ .join
  | .bariL _ n => at_ (.barrierInit n)
  | .baraL _ => at_ .arrive
  | .barwL _ p => at_ (.barrierWait p)
  | _ => none

/-- Inject the packet of a remote operation that nothing holds back, when its rank is not moving (R291), its answer has space
(R278) and the retry buffer has room (R282). -/
def State.sendOp (s : State) (k : Nat) (n : Nat) : State :=
  match s.pip k with
  | none => s
  | some p =>
    match p.op n with
    | none => s
    | some o =>
      let job := s.jobOfLaunch p.launch
      if o.phase != .waiting || !s.opRemote job (k / 256) o || !s.canPerform k p o then s
      else match o.request, o.kind.localAddr? with
        | some (kind, work, len, body, f), some a =>
          match s.resolve job a with
          | none => s
          | some dst =>
            let src := s.clusterAddr (k / 256)
            if !s.mayInject src dst body.length 1 then s
            else
              (s.inject (.pip k n) (s.packet kind src dst a len body f work job p.launch)).modPip k
                (fun p => p.modOp n (fun o => { o with phase := .sent }))
        | _, _ => s

/-- Inject every remote operation of a pip that may be injected. -/
def State.sendOps (s : State) (k : Nat) : State :=
  match s.pip k with
  | none => s
  | some p => (p.ops.map Op.id).foldl (fun s n => s.sendOp k n) s

/-- Remove the MARKs and FENCEs of a pip that are over, with their acquires, and inject the remote operations that
nothing holds back any longer. -/
def State.settle (s : State) (k : Nat) : State :=
  match s.pip k with
  | none => s
  | some p =>
    let (ops, d) := s.retire (s.jobOfLaunch p.launch) (k / 256) [] p.ops
    let s := s.setPip k { p with ops := ops }
    (if d then s.discardLines (k / 16) else s).sendOps k

/-! ### Global accesses at the home L2 -/

/-- The cause and the address of a pip's older replay entry (R316). -/
def Pip.olderEntry (p : Pip) : Option (Nat × Word) :=
  p.ops.findSome? (fun o => match o.phase with
    | .deferred c a => some (c, a)
    | _ => none)

/-- A data access fails at the L2 boundary: it becomes a replay entry, and a trap is due with the address of the older
entry (R316). -/
def State.defer (s : State) (k n : Nat) (c : Cause) (a : Word) : State :=
  s.modPip k (fun p =>
    let q := p.modOp n (fun o => { o with phase := .deferred c.code a, fetch := [], parts := [] })
    { q with deferredTrap := q.olderEntry })

/-- An operation is performed with a result, with its acquire. -/
def State.finish (s : State) (k : Nat) (o : Op) (result : VWord) : State :=
  ((if o.kind.lateAcquire then s else s.acquireAt (k / 16) o.acq).modPip k (fun p => p.finishOp o.id result)).settle k

/-- Bytes as the content of a register, zero-extended. -/
def vbytes (bs : List Byte) : VWord := BitVec.ofNat 512 (leNat bs)

/-- RED deposits its partial value in the core's update-only line (R415). -/
def State.deposit (s : State) (k n : Nat) (o : Op) (a : Word) (bytes op : Nat) (b : Word) : State :=
  let core := k / 16
  let vline := a.toNat / 128
  let other := (s.core core).redsHere.find? (fun r => r.asid == o.asid && r.vline == vline && !(r.op == op && r.bytes == bytes))
  let s := match other with
    | some r => s.leaveRed core r
    | none => s
  let off := a.toNat % 128
  match (s.core core).redsHere.find? (fun r => r.asid == o.asid && r.vline == vline) with
  | some r =>
    let x := match mget r.elems off with
      | some p => word (combineRed op bytes p.toNat (b.toNat % 2 ^ (8 * bytes)))
      | none => word (b.toNat % 2 ^ (8 * bytes))
    let r' := { r with elems := mset r.elems off x, by_ := r.by_ ++ [(k, n)] }
    let c := s.core core
    (s.setCore core { c with reds := c.reds.map (fun y => if y = r then r' else y) }).modPip k
      (fun p => p.modOp n (fun o => { o with phase := .deposited }))
  | none =>
    match s.translate (k / 65536) o.asid o.mode .atomic a with
    | (s, .error c) => s.defer k n c a
    | (s, .ok (pa, _)) =>
      let s := (s.setCore core ((s.core core).discard o.asid vline)).makeRoom core
      let c := s.core core
      let r : RedLine := { asid := o.asid, vline := vline, pline := pa / 128, op := op, bytes := bytes,
                           elems := [(off, word (b.toNat % 2 ^ (8 * bytes)))], by_ := [(k, n)] }
      (s.setCore core { c with reds := c.reds ++ [r] }).modPip k
        (fun p => p.modOp n (fun o => { o with phase := .deposited }))

/-! ### Recalls (R70, R279) -/

/-- A target has an egress slot in the forward class: so many of its forwarded requests have not left its router. -/
def State.forwardRoom (s : State) (src : Word) : Bool :=
  decide (s.net.packets.countP (fun e => e.2.kind == 0x08 && e.2.src == src && (mget s.net.transit e.1).any (fun t =>
    t.spot == .router (dieOf src) (nodeOf src) && t.held.isNone)) ≤ Config.forwardSlots (endType src))

/-- The home L2 recalls each update-only copy of a line that it has not asked for and that is not on its way: a forwarded request goes to
its core (R279). -/
def State.recallLine (s : State) (pline : Nat) : State :=
  let src := s.sliceAddr (128 * pline)
  (s.redsOf pline).foldl (fun (s : State) e =>
    let dst := s.clusterAddr (e.1 / 16)
    if e.2.way == .sent || s.net.outstanding.any (fun o => o.origin == .recall e.1 pline) || !s.forwardRoom src || !s.mayInject src dst 0 1 then s
    else s.inject (.recall e.1 pline) (s.packet 0x08 src dst (word (128 * pline)) 0 [] false .recall 0 0)) s


/-- The values of an update-only line as they travel: operation, width, and each element's place and value (the layout is the model's,
log entry 57). -/
def RedLine.body (r : RedLine) : List Byte :=
  natBytes 1 r.op ++ natBytes 1 r.bytes ++ r.elems.flatMap (fun e => natBytes 1 e.1 ++ natBytes r.bytes e.2.toNat)

/-- The lines of a core that a physical line's recall or merge takes are on their way to its home L2. -/
def State.redsLeave (s : State) (k : Nat) (goes : RedLine → Bool) : State :=
  let c := s.core k
  s.setCore k { c with reds := c.reds.map (fun r => if goes r then { r with way := .sent } else r) }

/-- The merge of a line that leaves its core goes to the home L2 on another die, once an earlier one of the same line has been
performed. -/
def State.sendMerge (s : State) (k : Nat) (r : RedLine) : State :=
  let src := s.clusterAddr (k / 16)
  let dst := s.sliceAddr (128 * r.pline)
  if (s.core k).reds.any (fun x => x.pline == r.pline && x.way == .sent) || !s.mayInject src dst r.body.length 1 then s
  else (s.inject (.merge k r.pline) (s.packet 0x02 src dst (word (128 * r.pline)) r.body.length r.body false .merge 0 0)).redsLeave k
    (fun x => x == r)

/-- Every merge that may be sent is. -/
def State.sendMerges (s : State) : State :=
  (s.cores.flatMap (fun e => (e.2.reds.filter (fun r => r.way == .leaving)).map (fun r => (e.1, r)))).foldl
    (fun (s : State) e => s.sendMerge e.1 e.2) s

/-! ### What agents ask of home L2s before they act (R10, R66, R70, R276, R279) -/

/-- The ask of an agent. -/
def State.askOf (s : State) (who : Asker) : Option Ask := s.net.asks.find? (fun a => a.who == who)

/-- The pip of a slot may still go to an address that it has asked to fetch: its PC, or the target of a steer register (R37, R409). -/
def State.mayFetch (s : State) (slot : Nat) (a : Word) : Bool :=
  (s.pip slot).any (fun p => p.pc == a || p.b.toList.any (fun b => b.tv && b.t == a))

/-- An ask stays when an agent's is dropped: it is another's, or a fetch of the same pip to which it may still come. -/
def State.staysAsk (s : State) (dropped who : Asker) : Bool :=
  who != dropped && (match dropped, who with
    | .fetch j _, .fetch k a => j != k || s.mayFetch k a
    | _, _ => true)

/-- Change an ask. -/
def State.modAsk (s : State) (id : Nat) (f : Ask → Ask) : State :=
  { s with net := { s.net with asks := s.net.asks.map (fun a => if a.id = id then f a else a) } }

/-- An agent asks for nothing more. -/
def State.dropAsk (s : State) (who : Asker) : State :=
  { s with net := { s.net with asks := s.net.asks.filter (fun a => s.staysAsk who a.who) } }

/-- A number among the slots that no pip has, under which prefetches await their lines. -/
def prefSlot : Nat := 2 ^ 22

/-- Everything that an ask waits for has come. -/
def State.askReady (s : State) (a : Ask) : Bool := a.parts.all (fun p => p.data.isSome) && a.lines.all s.noCopies

/-- Every write of an agent's access has been performed. -/
def Ask.over (a : Ask) : Bool := a.closing && a.writes.isEmpty && a.acks == 0

/-- A die's walks proceed 64 at a time, the others wait in order (R66). -/
def State.walkRoom (s : State) (id : Nat) (src : Word) : Bool :=
  endType src != 2 || ((s.net.asks.filter (fun a => a.parts.any (fun p => p.src == src && p.data.isNone))).take 64).any (fun a => a.id == id)

/-- Send a read of an ask, if it may be sent. -/
def State.sendPart (s : State) (id : Nat) (p : AskPart) : State :=
  let dst := s.sliceAddr (64 * p.part)
  if p.sent || !s.walkRoom id p.src || !s.mayInject p.src dst 0 1 then s
  else (s.inject (.ask id p.part) (s.packet 0x01 p.src dst (word (64 * p.part)) 64 [] false .own 0 0)).modAsk id (fun a =>
    { a with parts := a.parts.map (fun x => if x.part = p.part then { x with sent := true } else x) })

/-- Send a write of an ask, if it may be sent. -/
def State.sendWrite (s : State) (id : Nat) (w : Word × Nat × List Byte) : State :=
  let dst := s.sliceAddr w.2.1
  if !s.mayInject w.1 dst w.2.2.length 1 then s
  else (s.inject (.ask id 0) (s.packet 0x03 w.1 dst (word w.2.1) w.2.2.length w.2.2 false .own 0 0)).modAsk id (fun a =>
    { a with writes := a.writes.erase w, acks := a.acks + 1 })

/-- Send what an ask still has to send: recalls of lines of the agent's own die, reads, writes. -/
def State.sendAsk (s : State) (a : Ask) : State :=
  a.writes.foldl (fun (s : State) w => s.sendWrite a.id w)
    (a.parts.foldl (fun (s : State) p => s.sendPart a.id p) (a.lines.foldl State.recallLine s))

/-- Send what may be sent for every agent. -/
def State.sendAsks (s : State) : State := (s.net.asks.foldl State.sendAsk s).sendMerges

/-- The state in which an agent tries its access. -/
def State.opened (s : State) (who : Asker) (src : Word) : State :=
  let a := s.askOf who
  { s with reach := some { src := src, ask := a.map Ask.id,
                           came := (a.elim [] Ask.parts).filterMap (fun p => p.data.map (fun bs => (p.part, bs))) } }

/-- What an access lacks is asked for. -/
def State.wants (s : State) (who : Asker) (r : Reach) : State :=
  let t : State := match s.askOf who with
    | some _ => s
    | none => { s.dropAsk who with net := { (s.dropAsk who).net with
        asks := (s.dropAsk who).net.asks ++ [{ id := s.net.nextAsk, who := who }], nextAsk := s.net.nextAsk + 1 } }
  let new := fun (ps : List AskPart) (m : Word × Nat) => if ps.any (fun p => p.part == m.2) then ps else ps ++ [({ src := m.1, part := m.2 } : AskPart)]
  { t with net := { t.net with asks := t.net.asks.map (fun (a : Ask) =>
    if a.who = who then { a with parts := r.missing.foldl new a.parts, lines := r.lines, unit := r.unit.or a.unit } else a) } }

/-- The access has been performed but for its writes on other dies, which go there now. -/
def State.closing (s : State) (who : Asker) (r : Reach) : State :=
  let t := s.wants who r
  let close := fun (a : Ask) => if a.who = who then { a with closing := true, parts := [], writes := r.writes } else a
  State.sendAsks { t with net := { t.net with asks := t.net.asks.map close } }

/-- An agent tries an access: what it does where nothing is missing, and else a state in which what is missing is asked for and nothing
else has been done. -/
def State.attempt {α : Type} (s : State) (who : Asker) (src : Word) (f : State → State × α) : State × Option (Reach × α) :=
  let (t, x) := f (s.opened who src)
  let r := t.reach.getD { src := src }
  if r.lacks then ((s.wants who r).sendAsks, none) else ({ t with reach := none }, some (r, x))

/-- An agent performs an access, and what follows it: at once, or once its writes on other dies have been performed. `f` gives with the
state what follows the access; `done` is what follows where it wrote on other dies. -/
def State.reaching (s : State) (who : Asker) (src : Word) (f : State → State × (State → State)) (done : State → State) : State :=
  if (s.askOf who).any Ask.closing then
    (if (s.askOf who).any Ask.over then done (s.dropAsk who) else s.sendAsks)
  else match s.attempt who src f with
    | (t, none) => t
    | (t, some (r, k)) => if r.writes.isEmpty then k (t.dropAsk who) else t.closing who r

/-- A part has come for an ask. -/
def State.partCame (s : State) (id part : Nat) (bs : List Byte) : State :=
  s.modAsk id (fun a => { a with parts := a.parts.map (fun p => if p.part = part then { p with data := some bs } else p) })

/-- A write of an ask has been performed. One whose agent is gone is over with its last. -/
def State.writeCame (s : State) (id : Nat) : State :=
  let t := s.modAsk id (fun a => { a with acks := a.acks - 1 })
  { t with net := { t.net with asks := t.net.asks.filter (fun a => !(a.over && a.who == .gone)) } }

/-- What agents have had of tables and of other lines is read again: a TINV is over (R123, R124). -/
def State.restartAsks (s : State) : State :=
  if s.net.asks.isEmpty then s
  else { s with net := { s.net with
    asks := s.net.asks.map (fun a => if a.closing then a else { a with id := a.id + s.net.nextAsk, parts := [], lines := [] })
    nextAsk := 2 * s.net.nextAsk } }

/-- Asks of agents that are gone are dropped; writes that are on their way are not called back. -/
def State.forgetAsks (s : State) (gone : Asker → Bool) : State :=
  { s with net := { s.net with asks := s.net.asks.filterMap (fun a =>
    if !gone a.who then some a else if a.closing && !a.over then some { a with who := .gone } else none) } }

/-! ### Accesses to a home L2 on another die (R10, R67, R276) -/

/-- A pip's request to the home L2 slice of a physical address. -/
def State.askSlice (s : State) (k : Nat) (origin : Origin) (kind : Byte) (pa len : Nat) (body : List Byte)
    (work : PacketWork) : State :=
  s.inject origin (s.packet kind (s.clusterAddr (k / 256)) (s.sliceAddr pa) (word pa) len body false work
    (s.jobOfLaunch ((s.pip k).elim 0 Pip.launch)) ((s.pip k).elim 0 Pip.launch))

/-- An atomic request of a pip, CPIN, CUNPIN and CFLUSH among them, goes to a home L2 on another die. -/
def State.askAtomic (s : State) (k : Nat) (o : Op) (pa : Nat) (w : PacketWork) : State :=
  let body := w.body o.acq o.rel
  if s.mayInject (s.clusterAddr (k / 256)) (s.sliceAddr pa) body.length 1 then
    (s.askSlice k (.pip k o.id) 0x02 pa body.length body w).modPip k (fun p => p.modOp o.id (fun o => { o with phase := .sent }))
  else s

/-- The lines that a load has had from other dies. -/
def Op.came (o : Op) : List Line :=
  o.fetch.filterMap (fun f => match f.halves with
    | [some x, some y] => some { asid := o.asid, vline := f.vline, data := x ++ y, r := f.r, u := f.u }
    | _ => none)

/-- The lines that a load still needs from a home L2, its pieces checked in order (R68, R386): against the R and U bits that the L1
recorded, or translated. The first that fails makes the whole access fail. -/
def State.loadNeeds (s : State) (core : Nat) (o : Op) : List (Word × Nat) → State × Except (Cause × Word) (List Fetch)
  | [] => (s, .ok [])
  | (a, _) :: ps =>
    match (s.core core).line o.asid a with
    | some l => if l.r && (o.mode || l.u) then s.loadNeeds core o ps else (s, .error (.pagePermission, a))
    | none =>
      if o.came.any (fun l => l.vline == a.toNat / 128) then s.loadNeeds core o ps
      else match s.translate (core / 4096) o.asid o.mode .load a with
        | (s, .error c) => (s, .error (c, a))
        | (s, .ok (pa, leaf)) =>
          match s.loadNeeds core o ps with
          | (s, .ok fs) => (s, .ok ({ vline := a.toNat / 128, pline := pa / 128, r := leaf.getLsbD 2, u := leaf.getLsbD 5 } ::
              fs.filter (fun f => f.vline != a.toNat / 128)))
          | x => x

/-- Read lines at the home L2 of the own die and fill the L1 with them (R68, R98). -/
def State.readNear (s : State) (core : Nat) (asid : BitVec 16) : List Fetch → State × List Line
  | [] => (s, [])
  | f :: fs =>
    let (s, data) := s.readPip (128 * f.pline) 128
    let l : Line := { asid := asid, vline := f.vline, data := data, r := f.r, u := f.u }
    let (s, ls) := (s.fillLine core l).readNear core asid fs
    (s, l :: ls)

/-- The bytes of a load's pieces, in order, from the L1 as it stood or from the lines that were read. -/
def Core.loaded (c : Core) (asid : BitVec 16) (ls : List Line) (ps : List (Word × Nat)) : List Byte :=
  ps.flatMap (fun p => match (c.line asid p.1).or (ls.find? (fun l => l.vline == p.1.toNat / 128)) with
    | some l => (l.data.drop (p.1.toNat % 128)).take p.2
    | none => List.replicate p.2 0)

/-- Ask other dies for lines, each as two reads of 64 bytes (R276): halves 2 i and 2 i + 1 are those of the i-th line. -/
def State.sendFetch (s : State) (k : Nat) (o : Op) (fs : List Fetch) : State :=
  let core := k / 16
  let all := o.fetch ++ fs
  if !fs.all (fun f => s.mayInject (s.clusterAddr (k / 256)) (s.sliceAddr (128 * f.pline)) (64 * fs.length) (2 * fs.length)) then s
  else
    let s := all.zipIdx.foldl (fun (s : State) e =>
      if o.fetch.length ≤ e.2 then
        (s.askSlice k (.part k o.id (2 * e.2)) 0x01 (128 * e.1.pline) 64 [] .fill).askSlice k (.part k o.id (2 * e.2 + 1)) 0x01
          (128 * e.1.pline + 64) 64 [] .fill
      else s) s
    let c := s.core core
    let waits : List Awaited := fs.map (fun f => ⟨k, o.id, o.asid, f.vline⟩)
    (s.setCore core { c with awaited := c.awaited ++ waits }).modPip k
      (fun p => p.modOp o.id (fun o => { o with phase := .sent, fetch := all }))

/-- The core's L1 keeps the lines that have come and that nothing has overtaken. -/
def State.keepCame (s : State) (k : Nat) (o : Op) : State :=
  o.came.foldl (fun (s : State) l =>
    if (s.core (k / 16)).awaited.contains ⟨k, o.id, l.asid, l.vline⟩ then s.fillLine (k / 16) l else s) s

/-- A store's remaining pieces, in lane order (R426): each at its home L2, where update-only copies are recalled first; one on
another die goes there as WR, and the pieces after it wait for its answer. -/
def State.storeParts (s : State) (k : Nat) (o : Op) : List (Word × Nat × List Byte) → State
  | [] => s.finish k o 0
  | (a, pa, bs) :: rest =>
    let begun := fun (s : State) (ph : Phase) =>
      s.modPip k (fun p => p.modOp o.id (fun o => { o with phase := ph, parts := (a, pa, bs) :: rest }))
    if !s.noCopies (pa / 128) then begun (s.recallLine (pa / 128)) .waiting
    else if homeDie pa = k / 65536 then
      let s := s.writeHome pa bs
      (s.setCore (k / 16) ((s.core (k / 16)).updateLine o.asid a bs)).storeParts k o rest
    else if s.mayInject (s.clusterAddr (k / 256)) (s.sliceAddr pa) bs.length 1 then
      begun (s.askSlice k (.pip k o.id) 0x03 pa bs.length bs .plain) .sent
    else begun s .waiting

/-- The pieces of a store with their bytes. -/
def partsOf : List (Word × Nat) → List (Nat × Word) → List Byte → List (Word × Nat × List Byte)
  | (a, n) :: ps, (pa, _) :: pas, bs => (a, pa, bs.take n) :: partsOf ps pas (bs.drop n)
  | _, _, _ => []

/-! ### Performing a global access -/

/-- Pin a line for a launch, and what CPIN writes (R71). -/
def State.pin (s : State) (l : BitVec 32) (pline : Nat) : State × Nat :=
  let v := s.pinValue l pline
  (if v = 0 then { s with pins := mset s.pins pline l } else s, v)

/-- Release a launch's pin (R71). -/
def State.unpin (s : State) (l : BitVec 32) (pline : Nat) : State :=
  if mget s.pins pline = some l then { s with pins := merase s.pins pline } else s

/-- A translated access at its home L2: the update-only copies of the line are recalled first, a home L2 on another die is asked
by a packet, and the own die's acts at once. -/
def State.atHome (s : State) (k : Nat) (o : Op) (pa : Nat) (w : PacketWork) (f : State → State) : State :=
  if homeDie pa ≠ k / 65536 then s.askAtomic k o pa w
  else if !s.noCopies (pa / 128) then s.recallLine (pa / 128)
  else f s

/-- Perform a global access of the pip in slot `k`, as far as it can be performed now: at its home L2, or a load from its core's
L1; a failure of translation or permission is deferred (R98, R316). An AMO or CAS leaves its core's copy of the line with the
bytes that it left at the home L2, so that no later load there reads an older write than the atomic saw (R68, R101; log entry
55). -/
def State.performGlobal (s : State) (k : Nat) (o : Op) : State :=
  let core := k / 16
  let die := k / 65536
  let launch := (s.pip k).elim 0 Pip.launch
  match o.kind with
  | .loadG ps =>
    match s.loadNeeds core o ps with
    | (s, .error (c, a)) => s.defer k o.id c a
    | (s, .ok needs) =>
      let far := needs.filter (fun f => homeDie (128 * f.pline) != die)
      if !needs.all (fun f => homeDie (128 * f.pline) != die || s.noCopies f.pline) then
        (needs.filter (fun f => homeDie (128 * f.pline) == die)).foldl (fun (s : State) f => s.recallLine f.pline) s
      else if far ≠ [] then s.sendFetch k o far
      else
        let c := s.core core
        let (s, ls) := (s.keepCame k o).readNear core o.asid needs
        s.finish k o (vbytes (c.loaded o.asid (o.came ++ ls) ps))
  | .storeG ps bs =>
    if o.parts ≠ [] then s.storeParts k o o.parts
    else match s.translateAll die o.asid o.mode .store ps with
      | (s, .error (c, a)) => s.defer k o.id c a
      | (s, .ok pas) => s.storeParts k o (partsOf ps pas bs)
  | .atomicG a n op b =>
    match s.translate die o.asid o.mode .atomic a with
    | (s, .error c) => s.defer k o.id c a
    | (s, .ok (pa, leaf)) => s.atHome k o pa (.atomic op (n == 8) b) (fun s =>
      let (s, bs) := s.readPip pa n
      let old := leNat bs
      let new := atomicNew op (8 * n) old (b.toNat % 2 ^ (8 * n))
      (s.storePieces core o.asid [(a, n)] [(pa, leaf)] (natBytes n new)).finish k o ((atomicResult n old).setWidth 512))
  | .casG a n e x =>
    match s.translate die o.asid o.mode .atomic a with
    | (s, .error c) => s.defer k o.id c a
    | (s, .ok (pa, leaf)) => s.atHome k o pa (.cas (n == 8) e x) (fun s =>
      let (s, bs) := s.readPip pa n
      let old := leNat bs
      let s := if old = e.toNat % 2 ^ (8 * n) then s.storePieces core o.asid [(a, n)] [(pa, leaf)] (natBytes n x.toNat)
        else s.setCore core ((s.core core).updateLine o.asid a bs)
      s.finish k o ((atomicResult n old).setWidth 512))
  | .redG a n op b => s.deposit k o.id o a n op b
  | .pinG a =>
    match s.translate die o.asid o.mode .load a with
    | (s, .error c) => s.defer k o.id c a
    | (s, .ok (pa, _)) => s.atHome k o pa .pin (fun s =>
      (s.pin launch (pa / 128)).1.finish k o (BitVec.ofNat 512 (s.pin launch (pa / 128)).2))
  | .unpinG a =>
    match s.translate die o.asid o.mode .load a with
    | (s, .error c) => s.defer k o.id c a
    | (s, .ok (pa, _)) => s.atHome k o pa .unpin (fun s => (s.unpin launch (pa / 128)).finish k o 0)
  | .flushG a =>
    match s.translate die o.asid o.mode .load a with
    | (s, .error c) => s.defer k o.id c a
    | (s, .ok (pa, _)) => s.atHome k o pa .flush (fun s =>
      let s := { s with dirty := merase s.dirty (pa / 128) }
      (s.setCore core ((s.core core).discard o.asid (a.toNat / 128))).finish k o 0)
  | _ => s

/-- The core's L1 loses its copy of the line in which a global access lies. -/
def State.dropCopy (s : State) (k : Nat) (o : Op) (a : Word) : State :=
  s.setCore (k / 16) ((s.core (k / 16)).discard o.asid (a.toNat / 128))

/-- The address of a global access of one piece. -/
def OpKind.globalAddr? : OpKind → Option Word
  | .atomicG a _ _ _ | .casG a _ _ _ | .pinG a | .unpinG a | .flushG a => some a
  | _ => none

/-- A home L2 on another die has answered: a store goes on with its next piece, another access is performed. -/
def State.sliceAnswered (s : State) (k : Nat) (o : Op) (bs : List Byte) : State :=
  match o.kind, o.parts with
  | .storeG _ _, _ :: rest =>
    if rest = [] then s.finish k o 0
    else s.modPip k (fun p => p.modOp o.id (fun o => { o with phase := .waiting, parts := rest }))
  | .atomicG _ n _ _, _ | .casG _ n _ _, _ => s.finish k o ((atomicResult n (leNat bs)).setWidth 512)
  | .flushG a, _ => (s.dropCopy k o a).finish k o 0
  | .pinG _, _ => s.finish k o (BitVec.ofNat 512 (leNat bs))
  | _, _ => s.finish k o 0

/-- Half a line has come for a load; once it has every half that it asked for, it may be performed. -/
def State.halfCame (s : State) (k n piece : Nat) (bs : List Byte) : State :=
  s.modPip k (fun p => p.modOp n (fun o =>
    let fetch := o.fetch.zipIdx.map (fun e => if e.2 = piece / 2 then { e.1 with halves := e.1.halves.set (piece % 2) (some bs) } else e.1)
    { o with fetch := fetch, phase := if o.phase == .sent && fetch.all (fun f => f.halves.all Option.isSome) then .waiting else o.phase }))

/-- The kinds that `performGlobal` performs. -/
def OpKind.isGlobal : OpKind → Bool
  | .loadG _ | .storeG _ _ | .atomicG _ _ _ _ | .casG _ _ _ _ | .redG _ _ _ _ | .pinG _ | .unpinG _ | .flushG _ => true
  | _ => false

/-! ### Barriers -/

/-- A BARW of a pip that waits on this barrier for a phase other than the present one. -/
def State.barwOver (s : State) (job cl off phase : Nat) (o : Op) : Bool :=
  match o.kind with
  | .barwL a (some p) => !o.performed.not && s.namesCluster job cl a && offsetOf a == off && p != phase && o.phase != .done
  | _ => false

/-- Write a barrier and release every BARW, near or remote, that found another phase (R348 to R350). -/
def State.updateBarrier (s : State) (cl off : Nat) (b : Barrier) : State :=
  let s := s.setCluster cl ((s.cluster cl).setBarrier off b)
  let free := fun (e : Nat × Pip) =>
    if e.1 / 256 = cl then
      let job := s.jobOfLaunch e.2.launch
      (e.1, { e.2 with ops := e.2.ops.map (fun o =>
        if s.barwOver job cl off b.phase o then { o with phase := .done, result := BitVec.ofNat 512 b.phase } else o) })
    else e
  let here := (s.cluster cl).launch.elim 0 s.jobOfLaunch
  let ended := fun (e : Nat × Packet) =>
    match e.2.work with
    | .barrierHeld p =>
      if e.2.dst = s.clusterAddr cl ∧ e.2.job = here ∧ offsetOf e.2.addr = off ∧ p ≠ b.phase then (e.1, { e.2 with work := .barrierDone b.phase }) else e
    | _ => e
  { s with pips := s.pips.map free, net := { s.net with packets := s.net.packets.map ended } }

/-! ### Issue (R28) -/

/-- The instruction of a pip has not come that its core has asked for (R161). -/
def State.fetching? (s : State) (slot : Nat) (p : Pip) : Bool :=
  s.net.asks.any (fun a => a.who == .fetch slot p.pc && !s.askReady a)

/-- A pip is ready to issue in this cycle. -/
def State.issuable (s : State) (slot : Nat) (p : Pip) : Bool :=
  p.cond == .ready && !p.held && (match p.lastIssue with
    | some t => decide (t + 8 ≤ s.cycle)
    | none => true) && !s.fetching? slot p

/-- The word that a pip would issue, as far as it can be fetched now: it, or the cause of its fault, or what of it must be asked for
(R10, R161). -/
def State.fetchWord (s : State) (slot : Nat) (p : Pip) : State × Option (Except Cause Nat) :=
  match s.attempt (.fetch slot p.pc) (s.clusterAddr (slot / 256)) (fun s => s.fetch (slot / 16) p.asid p.mode p.pc) with
  | (t, some (_, w)) => (t.dropAsk (.fetch slot p.pc), some w)
  | (t, none) => (t, none)

/-- Slots 0 to 15 of a core in the order in which they are considered. -/
def Core.order (c : Core) : List Nat :=
  match c.lastSlot with
  | some n => (List.range 16).map (fun i => (n + 1 + i) % 16)
  | none => List.range 16

/-- The slot from which a core issues in this cycle, if it has not issued in it: the sample of levelling follows every push and pop
of its cycle, so no core issues after it (R377). -/
def State.coreIssues (s : State) (k : Nat) : Option Nat :=
  let c := s.core k
  if c.lastCycle = some s.cycle || (s.cluster (k / 16)).lastLevel == some s.cycle then none
  else (c.order.find? (fun n => match s.pip (16 * k + n) with
    | some p => s.issuable (16 * k + n) p
    | none => false)).map (16 * k + ·)

/-- The instruction that a slot would issue now is a SEAL. -/
def State.sealsNext (s : State) (slot : Nat) : Bool :=
  match s.pip slot with
  | none => false
  | some p =>
    match (s.fetchWord slot p).2 with
    | some (.ok w) => (match decode w with
      | .ok (.seal _ _ _) => true
      | _ => false)
    | _ => false

/-- The slots of a cluster that have still to issue in this cycle, by ascending core. -/
def State.issuesLeft (s : State) (cl : Nat) : List Nat := (List.range 16).filterMap (fun j => s.coreIssues (16 * cl + j))

/-- The slot of a cluster that issues next in this cycle: a SEAL comes before every other instruction of its cycle, since a
local store of the same cycle finds the pod SEALED whatever the slots are (R88); cores go in ascending order otherwise
(R400, R407, R421, R423). -/
def State.nextIssue (s : State) (cl : Nat) : Option Nat :=
  ((s.issuesLeft cl).find? s.sealsNext).or (s.issuesLeft cl).head?

/-! ### Near local accesses -/

/-- A packet stands at a cluster and asks for a slot of its banks. -/
def State.asksBank (s : State) (cl n : Nat) (q : Packet) : Bool :=
  let a := s.clusterAddr cl
  s.standsAt n a && ((q.dst == a && (q.kind == 0x01 || q.kind == 0x02 || q.kind == 0x03) && (match q.work with
    | .barrierHeld _ | .barrierDone _ | .sealHeld _ => false
    | _ => true)) || (q.kind == 0x04 && q.targets.contains cl))

/-- An engine-class request waits for the cluster's banks: then a pip gets no engine position (R78; that one engine request
anywhere in the cluster keeps every unused engine position from the pips is the model's choice, log entry 55). -/
def State.engineWaits (s : State) (cl : Nat) : Bool :=
  let c := s.cluster cl
  c.seals.any (fun x => !x.due.isEmpty) || c.copies.any (fun x => !x.queue.isEmpty) || !c.gather.queue.isEmpty ||
    !c.merge.queue.isEmpty || s.net.packets.any (fun e => s.asksBank cl e.1 e.2)

/-- The bank may serve a pip in this cycle: a pip position, or an engine position that has no use, once every core of the
cluster has issued, so that a SEAL of this cycle has its seal slot first (R77, R78, R91). -/
def State.pipSlot (s : State) (cl b : Nat) : Bool :=
  (s.cluster cl).bankFree s.cycle b && match slotClass s.cycle b with
    | .pip => true
    | .engine => !s.engineWaits cl && (s.issuesLeft cl).isEmpty
    | _ => false

/-- The bank in which a near local access is next performed. -/
def OpKind.bank? : OpKind → Option Nat
  | .presetL g _ => some (bankOf (16 * g))
  | .footL _ _ _ bs => bs.head?
  | k => k.localAddr?.map (fun a => bankOf (offsetOf a))

/-- A wait-full load whose touched granules are not all past EMPTY (R80). -/
def Cluster.waits (c : Cluster) (o : Op) : Bool :=
  match o.kind with
  | .loadL a n q => (q == 1 || q == 2) && (granulesOf (offsetOf a) n).any (fun g => c.gran (16 * g) == .empty)
  | _ => false

/-- A near local operation that is ready for its bank slot, order and wait condition met. -/
def State.nearWaiting (s : State) (k : Nat) (p : Pip) (o : Op) : Bool :=
  o.phase == .waiting && o.kind.bank?.isSome && !(match o.kind with
    | .barwL _ (some _) => true
    | .joinL _ => true
    | _ => false) &&
  !s.opRemote (s.jobOfLaunch p.launch) (k / 256) o && s.canPerform k p o && !(s.cluster (k / 256)).waits o

/-- Within a class, a bank serves the oldest request first, and in ascending core number among those of one cycle
(R78). -/
def State.oldest (s : State) (k : Nat) (o : Op) : Bool :=
  s.pips.all (fun e => e.1 / 256 != k / 256 || e.2.ops.all (fun x =>
    x.kind.bank? != o.kind.bank? || !s.nearWaiting e.1 e.2 x ||
    decide (o.born < x.born) || (o.born == x.born && decide (k / 16 ≤ e.1 / 16))))

/-- A freed pod's closing has been performed in every bank (R404). -/
def Cluster.closed (c : Cluster) (first count : Nat) : Cluster :=
  { c with freeing := c.freeing.filter (fun p => !(p.base / 16 == first && p.footprint / 16 == count)) }

/-- Perform one bank slot of a near local access (R79, R80, R98). -/
def State.performNear (s : State) (k : Nat) (o : Op) : State :=
  let cl := k / 256
  let b := o.kind.bank?.getD 0
  let s := s.setCluster cl ((s.cluster cl).useBank s.cycle b)
  let c := s.cluster cl
  match o.kind with
  | .loadL a n q =>
    let bs := c.read (offsetOf a) n
    let s := if q = 2 then s.setCluster cl (c.drain (granulesOf (offsetOf a) n)) else s
    s.finish k o (vbytes bs)
  | .storeL a bs f =>
    let c := c.write (offsetOf a) bs
    (s.setCluster cl (if f then c.fill (granulesOf (offsetOf a) bs.length) else c)).finish k o 0
  | .atomicL a n op x =>
    let old := leNat (c.read (offsetOf a) n)
    let new := atomicNew op (8 * n) old (x.toNat % 2 ^ (8 * n))
    (s.setCluster cl (c.write (offsetOf a) (natBytes n new))).finish k o ((atomicResult n old).setWidth 512)
  | .presetL g n =>
    let s := s.setCluster cl (if c.gran (16 * g) = .full then c.setGran g .empty else c)
    if n ≤ 1 then s.finish k o 0
    else s.modPip k (fun p => p.modOp o.id (fun o => { o with kind := .presetL (g + 1) (n - 1) }))
  | .footL g n to_ bs =>
    let gs := (granulesOf (16 * g) (16 * n)).filter (fun x => bankOf (16 * x) == b)
    let s := s.setCluster cl (gs.foldl (fun c x =>
      if to_ = .closed || c.gran (16 * x) = .closed then c.setGran x to_ else c) c)
    if bs.tail.isEmpty then (if to_ = .closed then s.setCluster cl ((s.cluster cl).closed g n) else s).finish k o 0
    else s.modPip k (fun p => p.modOp o.id (fun o => { o with kind := .footL g n to_ bs.tail }))
  | .bariL a n => (s.updateBarrier cl (offsetOf a) (Barrier.init n)).finish k o 0
  | .baraL a => (s.updateBarrier cl (offsetOf a) (c.barrier (offsetOf a)).arrive).finish k o 0
  | .barwL a _ =>
    let x := c.barrier (offsetOf a)
    let s := s.setCluster cl (c.setBarrier (offsetOf a) x.await)
    (s.modPip k (fun p => p.modOp o.id (fun o => { o with kind := .barwL a (some x.phase) }))).settle k
  | _ => s

end Sys2Proof.Machine
end

