-- ==== Sys2Proof/Machine/MemGlobal.lean ====
section
/-! DEFINITION. The instructions on global space (R338, R356, R357, R361, R363, R384, R386, R408, R415, R424, R426) and
the ordering instructions MARK and FENCE (R103, R109, R374). -/

namespace Sys2Proof.Machine

/-- An operation enters the pip's queues; MARKs and FENCEs that nothing holds are over at once. -/
def State.enter (s : State) (q : Pip) (o : Op) : State := (s.put (q.issue { o with born := s.cycle })).settle s.cur

/-- The precise checks of the elements of a global access, in ascending order (R384). -/
def checkGlobal : List (Word × Nat) → Option (Cause × Word)
  | [] => none
  | (a, n) :: ps =>
    if !canonical a then some (.pageNotPresent, a)
    else if a.toNat % n != 0 then some (.misaligned, a)
    else checkGlobal ps

/-- A global access: the precise checks, then the queue. -/
def globalAccess (i : Instr) (u : Uses) (s : State) (pieces : Pip → List (Word × Nat)) (op : Pip → Op) :
    Host.Outcome State Fault Refusal :=
  runEntry i u s (fun p q t =>
    match checkGlobal (pieces p) with
    | some (c, a) => .trap c a
    | none => .next (t.enter q (op p)))

/-- The scope of an acquire or release that a bit selects (R104, R107). -/
def scopeIf (bit : Bit) (c : BitVec 3) : Option Nat := if bit = 1 then some c.toNat else none

/-- The lanes of an indexed access: address and element size (R386). -/
def indexed (base : Word) (n : Nat) (index : VWord) : List (Word × Nat) :=
  (lanesAt (8 * n) index).map (fun k => (base + word k, n))
where
  /-- Lanes of `w` bits, lane 0 first. -/
  lanesAt (w : Nat) (x : VWord) : List Nat := (List.range (512 / w)).map (fun i => x.toNat / 2 ^ (w * i) % 2 ^ w)

/-- The 64 bytes of a v register. -/
def vecBytes (x : VWord) : List Byte := natBytes 64 x.toNat

/-- LD (R384). -/
def execLd (x o : Bit) (sz : BitVec 2) (c : BitVec 3) (i : Byte) (a t : Reg) (s : State) : Host.Outcome State Fault Refusal :=
  let pieces := fun (p : Pip) => [(memAddr (p.gv a) i (sizeOf sz), sizeOf sz)]
  globalAccess (.ld x o sz c i a t) { g := [a], gs := syncG x a, gd := [t], fullBit := true } s pieces
    (fun p => { id := 0, kind := .loadG (pieces p), dest := .g t, acq := scopeIf o c })

/-- ST (R424). -/
def execSt (x o : Bit) (sz : BitVec 2) (c : BitVec 3) (i : Byte) (a t : Reg) (s : State) : Host.Outcome State Fault Refusal :=
  let pieces := fun (p : Pip) => [(memAddr (p.gv a) i (sizeOf sz), sizeOf sz)]
  globalAccess (.st x o sz c i a t) { g := [a, t], gs := syncG x a } s pieces
    (fun p => { id := 0, kind := .storeG (pieces p) (natBytes (sizeOf sz) (p.gv t).toNat), rel := scopeIf o c })

/-- LDV (R384). -/
def execLdv (x o : Bit) (c : BitVec 3) (i : Byte) (a : Reg) (v : Reg4) (s : State) : Host.Outcome State Fault Refusal :=
  let pieces := fun (p : Pip) => [(memAddr (p.gv a) i 64, 64)]
  globalAccess (.ldv x o c i a v) { g := [a], gs := syncG x a, vd := [v], fullBit := true } s pieces
    (fun p => { id := 0, kind := .loadG (pieces p), dest := .v v, acq := scopeIf o c })

/-- STV (R424). -/
def execStv (x o : Bit) (c : BitVec 3) (i : Byte) (a : Reg) (v : Reg4) (s : State) : Host.Outcome State Fault Refusal :=
  let pieces := fun (p : Pip) => [(memAddr (p.gv a) i 64, 64)]
  globalAccess (.stv x o c i a v) { g := [a], v := [v], gs := syncG x a } s pieces
    (fun p => { id := 0, kind := .storeG (pieces p) (vecBytes (p.vv v)), rel := scopeIf o c })

/-- LDVX (R386): `sz` selects 16 lanes of 4 bytes (0) or 8 lanes of 8 bytes (1). -/
def execLdvx (x o sz : Bit) (c : BitVec 3) (j : Reg4) (a : Reg) (v : Reg4) (s : State) : Host.Outcome State Fault Refusal :=
  let pieces := fun (p : Pip) => indexed (p.gv a) (if sz = 1 then 8 else 4) (p.vv j)
  globalAccess (.ldvx x o sz c j a v) { g := [a], v := [j], gs := syncG x a, vd := [v], fullBit := true } s pieces
    (fun p => { id := 0, kind := .loadG (pieces p), dest := .v v, acq := scopeIf o c })

/-- STVX (R426). -/
def execStvx (x o sz : Bit) (c : BitVec 3) (j : Reg4) (a : Reg) (v : Reg4) (s : State) : Host.Outcome State Fault Refusal :=
  let pieces := fun (p : Pip) => indexed (p.gv a) (if sz = 1 then 8 else 4) (p.vv j)
  globalAccess (.stvx x o sz c j a v) { g := [a], v := [j, v], gs := syncG x a } s pieces
    (fun p => { id := 0, kind := .storeG (pieces p) (vecBytes (p.vv v)), rel := scopeIf o c })

/-- The access size that w selects (R166). -/
def atomicBytes (w : Bit) : Nat := if w = 1 then 4 else 8

/-- AMO (R338): `q` is acq, `r` is rel, `o` the operation. -/
def execAmo (w r q : Bit) (c : BitVec 3) (o : Reg4) (b a d : Reg) (s : State) : Host.Outcome State Fault Refusal :=
  globalAccess (.amo w r q c o b a d) { g := [a, b], gd := [d], fullBit := true } s (fun p => [(p.gv a, atomicBytes w)])
    (fun p => { id := 0, kind := .atomicG (p.gv a) (atomicBytes w) o.toNat (p.gv b), dest := .g d,
                acq := scopeIf q c, rel := scopeIf r c })

/-- CAS (R356): g[D] is the expected value. -/
def execCas (w r q : Bit) (c : BitVec 3) (b a d : Reg) (s : State) : Host.Outcome State Fault Refusal :=
  globalAccess (.cas w r q c b a d) { g := [a, b, d], gd := [d], fullBit := true } s (fun p => [(p.gv a, atomicBytes w)])
    (fun p => { id := 0, kind := .casG (p.gv a) (atomicBytes w) (p.gv d) (p.gv b), dest := .g d,
                acq := scopeIf q c, rel := scopeIf r c })

/-- RED (R415). -/
def execRed (w y x : Bit) (o : Reg4) (b a : Reg) (s : State) : Host.Outcome State Fault Refusal :=
  globalAccess (.red w y x o b a) { g := [a, b], gs := syncG x a ++ syncG y b } s (fun p => [(p.gv a, atomicBytes w)])
    (fun p => { id := 0, kind := .redG (p.gv a) (atomicBytes w) o.toNat (p.gv b) })

/-- FENCE (R109, R374): kind 0 full, 1 acquire, 2 release. -/
def execFence (k : BitVec 2) (c : BitVec 3) (s : State) : Host.Outcome State Fault Refusal :=
  runEntry (.fence k c) {} s (fun _ q t =>
    .next (t.enter q { id := 0, kind := .fence k.toNat, acq := if k = 2 then none else some c.toNat,
                       rel := if k = 1 then none else some c.toNat }))

/-- MARK (R103). -/
def execMark (s : State) : Host.Outcome State Fault Refusal :=
  runEntry .mark {} s (fun _ q t => .next (t.enter q { id := 0, kind := .mark }))

/-- The line that a prefetch brings comes (R408): into the core's L1, where nothing has overtaken it and no update-only line of it
stands; one that faults is dropped. -/
def State.prefetched (s : State) (core : Nat) (asid : BitVec 16) (mode : Bool) (a : Word) (toL1 : Bool) : State :=
  let vline := a.toNat / 128
  let kept := (s.core core).awaited.any (fun w => w.slot == prefSlot && s.reach.any (fun r => r.ask == some w.op) && w.vline == vline)
  match s.translate (core / 4096) asid mode .load a with
  | (t, .error _) => t
  | (t, .ok (pa, leaf)) =>
    if !toL1 || !kept || (t.core core).redsHere.any (fun r => r.asid == asid && r.vline == vline) then t
    else
      let (t, data) := t.readLine (t.clusterAddr (core / 16)) (pa / 128 * 128) 128
      t.fillLine core { asid := asid, vline := vline, data := data, r := leaf.getLsbD 2, u := leaf.getLsbD 5 }

/-- A prefetch goes on; once it is over it awaits its line no longer. -/
def State.goPref (s : State) (core : Nat) (asid : BitVec 16) (mode : Bool) (a : Word) (toL1 : Bool) : State :=
  s.reaching (.pref core asid mode a toL1) (s.clusterAddr (core / 16)) (fun t => (t.prefetched core asid mode a toL1, fun t =>
    t.setCore core { t.core core with awaited := (t.core core).awaited.filter (fun w => !(w.slot == prefSlot && w.asid == asid &&
      w.vline == a.toNat / 128)) })) id

/-- A prefetch (R408) begins: it names its line, and no pip waits for it. One that is under way already is the same. -/
def State.prefetch (s : State) (core : Nat) (asid : BitVec 16) (mode : Bool) (a : Word) (toL1 : Bool) : State :=
  let who : Asker := .pref core asid mode a toL1
  if !canonical a || (s.core core).redsHere.any (fun r => r.asid == asid && r.vline == a.toNat / 128) || (s.askOf who).isSome ||
    ((s.core core).line asid a).isSome then s
  else
    let id := s.net.nextAsk
    let c := s.core core
    let t := s.setCore core { c with awaited := c.awaited ++ [⟨prefSlot, id, asid, a.toNat / 128⟩] }
    State.goPref { t with net := { t.net with asks := t.net.asks ++ [{ id := id, who := who }], nextAsk := id + 1 } } core asid mode a toL1

/-- PREF (R408). -/
def execPref (x : Bit) (i : Byte) (a h : Reg) (s : State) : Host.Outcome State Fault Refusal :=
  runEntry (.pref x i a h) { g := [a], gs := syncG x a } s (fun p q t =>
    .next ((t.put q).prefetch (s.cur / 16) p.asid p.mode (memAddr (p.gv a) i 8) (h == 0)))

/-- CPIN (R71, R361): it traps as a load of 8 bytes does. -/
def execCpin (x : Bit) (i : Byte) (a d : Reg) (s : State) : Host.Outcome State Fault Refusal :=
  globalAccess (.cpin x i a d) { g := [a], gs := syncG x a, gd := [d], fullBit := true } s (fun p => [(memAddr (p.gv a) i 8, 8)])
    (fun p => { id := 0, kind := .pinG (memAddr (p.gv a) i 8), dest := .g d })

/-- CUNPIN (R71, R363): it traps as a load of 8 bytes does. -/
def execCunpin (x : Bit) (i : Byte) (a : Reg) (s : State) : Host.Outcome State Fault Refusal :=
  globalAccess (.cunpin x i a) { g := [a], gs := syncG x a } s (fun p => [(memAddr (p.gv a) i 8, 8)])
    (fun p => { id := 0, kind := .unpinG (memAddr (p.gv a) i 8) })

/-- CFLUSH (R357): any byte of the line, with no check but the canonical one. -/
def execCflush (x : Bit) (i : Byte) (a : Reg) (s : State) : Host.Outcome State Fault Refusal :=
  globalAccess (.cflush x i a) { g := [a], gs := syncG x a } s (fun p => [(memAddr (p.gv a) i 8, 1)])
    (fun p => { id := 0, kind := .flushG (memAddr (p.gv a) i 8) })

end Sys2Proof.Machine
end

