-- ==== Sys2Proof/Machine/MemLocal.lean ====
section
/-! DEFINITION. The instructions on local space: LDL, LDLV, STL, STLV, AMOL (R73, R88, R89, R105, R339, R385, R425). -/

namespace Sys2Proof.Machine

/-- SPRES of a launch (R50). -/
def State.spresOf (s : State) (l : BitVec 32) : Nat :=
  match s.launch l with
  | some x => x.record.spres
  | none => 0

/-- The local address names the pip's current cluster. -/
def State.near (s : State) (p : Pip) (a : Word) : Bool := s.namesCluster (s.jobOfLaunch p.launch) s.curCl a

/-- The checks of R73 for an access of the pip. -/
def State.checkIssue (s : State) (p : Pip) (a : Word) (n : Nat) : Option Cause :=
  s.checkLocal (s.jobOfLaunch p.launch) (s.spresOf p.launch) a n

/-- SR_STATUS.MG (R26). -/
def Pip.mg (p : Pip) : Bool := p.status.getLsbD 3

/-- The trap cause of a near refusal (R89). -/
def refusalCause (r : Nat) : Cause := if r = refStale then .podStale else .podSealed

/-- The scope of the ordering that q selects (R105). -/
def localScope (near : Bool) (j : Bit) : Nat := if near && j = 0 then 2 else 6

/-- A local load (R385): checked at issue; it migrates the pip under R47; a near load that is stale traps. -/
def localLoad (i : Instr) (x j : Bit) (q : BitVec 3) (a : Reg) (u : Uses) (dest : Dest) (addr : Pip → Word) (n : Nat)
    (s : State) : Host.Outcome State Fault Refusal :=
  runEntry i { u with g := [a], gs := syncG x a, fullBit := true } s (fun p r t =>
    let la := addr p
    match s.checkIssue p la n with
    | some c => .trap c la
    | none =>
      let near := s.near p la
      if !near && p.mg && p.stay != some p.pc then .park (.migrate la)
      else if near && (granulesOf (offsetOf la) n).any (fun g =>
          (s.cluster s.curCl).stale la ((s.cluster s.curCl).granAtIssue p g) (16 * g)) then .trap .podStale la
      else .next (t.enter { r with stay := if p.stay = some p.pc then none else p.stay }
        { id := 0, kind := .loadL la n q.toNat, dest := dest, acq := if q = 0 then none else some (localScope near j) }))

/-- LDL (R385). -/
def execLdl (x j : Bit) (sz : BitVec 2) (q : BitVec 3) (i : Byte) (a t : Reg) (s : State) : Host.Outcome State Fault Refusal :=
  localLoad (.ldl x j sz q i a t) x j q a { gd := [t] } (.g t) (fun p => memAddr (p.gv a) i (sizeOf sz)) (sizeOf sz) s

/-- LDLV (R385). -/
def execLdlv (x j : Bit) (q : BitVec 3) (i : Byte) (a : Reg) (v : Reg4) (s : State) : Host.Outcome State Fault Refusal :=
  localLoad (.ldlv x j q i a v) x j q a { vd := [v] } (.v v) (fun p => memAddr (p.gv a) i 64) 64 s

/-- A write that its own cluster refuses at issue (R88, R89): a precise trap, and the REFUSED bit of a sealed pod. -/
def State.refuseNear (s : State) (p : Pip) (a : Word) (r : Nat × Nat) : Done :=
  .next ((s.setCluster s.curCl ((s.cluster s.curCl).markRefused r.2)).takeTrap s.cur p (refusalCause r.1) false a)

/-- A local write: the checks at issue (R73), the refusal of a near one (R88), the queue. -/
def localWrite (i : Instr) (u : Uses) (s : State) (addr : Pip → Word) (n : Nat) (setFull : Bool)
    (op : Pip → Bool → Op) : Host.Outcome State Fault Refusal :=
  runEntry i u s (fun p q t =>
    let a := addr p
    match s.checkIssue p a n with
    | some c => .trap c a
    | none =>
      let near := s.near p a
      match (if near then (s.cluster s.curCl).refusalAtIssue p a n setFull else none) with
      | some r => s.refuseNear p a r
      | none => .next (t.enter q (op p near)))

/-- The release of STL and STLV (R105). -/
def storeRel (near : Bool) (j : Bit) (q : BitVec 3) : Option Nat :=
  if q = 2 ∨ q = 3 then some (localScope near j) else none

/-- Set-full: q = 1 or 3 (R425). -/
def storeFull (q : BitVec 3) : Bool := q == 1 || q == 3

/-- STL (R425). -/
def execStl (x j : Bit) (sz : BitVec 2) (q : BitVec 3) (i : Byte) (a t : Reg) (s : State) : Host.Outcome State Fault Refusal :=
  let addr := fun (p : Pip) => memAddr (p.gv a) i (sizeOf sz)
  localWrite (.stl x j sz q i a t) { g := [a, t], gs := syncG x a } s addr (sizeOf sz) (storeFull q)
    (fun p near => { id := 0, kind := .storeL (addr p) (natBytes (sizeOf sz) (p.gv t).toNat) (storeFull q),
                     rel := storeRel near j q })

/-- STLV (R425). -/
def execStlv (x j : Bit) (q : BitVec 3) (i : Byte) (a : Reg) (v : Reg4) (s : State) : Host.Outcome State Fault Refusal :=
  let addr := fun (p : Pip) => memAddr (p.gv a) i 64
  localWrite (.stlv x j q i a v) { g := [a], v := [v], gs := syncG x a } s addr 64 (storeFull q)
    (fun p near => { id := 0, kind := .storeL (addr p) (vecBytes (p.vv v)) (storeFull q), rel := storeRel near j q })

/-- AMOL (R339). -/
def execAmol (w r q : Bit) (c : BitVec 3) (o : Reg4) (b a d : Reg) (s : State) : Host.Outcome State Fault Refusal :=
  localWrite (.amol w r q c o b a d) { g := [a, b], gd := [d], fullBit := true } s (fun p => p.gv a) (atomicBytes w) false
    (fun p _ => { id := 0, kind := .atomicL (p.gv a) (atomicBytes w) o.toNat (p.gv b), dest := .g d,
                  acq := scopeIf q c, rel := scopeIf r c })

end Sys2Proof.Machine
end

