-- ==== Sys2Proof/Machine/Pods.lean ====
section
/-! DEFINITION. The pod instructions (R81 to R97, R404, R407, R410, R411, R421) and the seal they begin. -/

namespace Sys2Proof.Machine

/-- The banks that hold granules of a run, each once. -/
def banksOf (first count : Nat) : List Nat :=
  (List.range 16).filter (fun b => (List.range (min count 256)).any (fun i => bankOf (16 * (first + i)) == b))

/-- The banks of a pod's footprint. -/
def Pod.banks (p : Pod) : List Nat := banksOf (p.base / 16) (p.footprint / 16)

/-- The descriptor with another STATE (R81). -/
def Pod.setState (p : Pod) (n : Nat) : Pod := { p with w0 := setField p.w0 43 2 n }

/-- A seal of the pod has reached its seal point and not completed. -/
def Cluster.sealing (c : Cluster) (pod : Nat) : Bool := c.seals.any (fun x => x.pod == pod)

/-- The handle of a descriptor (R84). -/
def Pod.handle (p : Pod) (i : Nat) : BitVec 16 := BitVec.ofNat 16 (p.gen * 256 + i)

/-- The seal point of a pod (R90): STATE becomes SEALED, and the seal slots are due. -/
def State.beginSeal (s : State) (cl pod : Nat) (timer : Bool) (cmd : Option (EngineRef × Nat)) : State :=
  let c := s.cluster cl
  let d := c.pod pod
  let x : Seal := { pod := pod, point := s.cycle, due := d.banks, timer := timer, cmd := cmd }
  s.setCluster cl { (c.setPod pod (d.setState 2)) with seals := c.seals ++ [x] }

/-- The template's fields are those of R86: no bit outside them, FMT and GRP assigned, a list only with escapes. -/
def templateOk (t : Word) : Bool :=
  fieldOf t 43 18 == 0 && fieldOf t 62 2 == 0 && decide (fieldOf t 34 4 ≤ 9) && fieldOf t 38 2 != 3 &&
    (fieldOf t 40 2 == 0 || decide (fieldOf t 34 4 ≤ 3))

/-- The footprint [first, first + count) of granules meets an open or sealed pod, or a granule that is not CLOSED: one
that a PFREE has still to close is not (R86, R404, R407). -/
def Cluster.taken (c : Cluster) (first count : Nat) : Bool :=
  (List.range count).any (fun i => (c.podAt (16 * (first + i))).isSome || c.gran (16 * (first + i)) != .closed)

/-- POPEN (R86, R407): the status or the handle, and the state. -/
def State.popen (s : State) (q : Pip) (t deadline : Word) (d : Reg) : State :=
  let cl := s.curCl
  let c := s.cluster cl
  let x : Pod := { w0 := t, w1 := if t.getLsbD 61 then deadline else 0 }
  let status := fun n => s.put (q.setG d (statusWord n))
  if !templateOk t then status 0x01
  else if x.base % 16 != 0 || decide (x.base < c.plainEnd) || decide (c.spres < x.base + x.footprint) then status 0x02
  else if c.taken (x.base / 16) (x.footprint / 16) then status 0x03
  else match (List.range c.podDesc).find? (fun i => (c.pod i).state == 0) with
    | none => status 0x04
    | some i =>
      let gen := ((c.pod i).gen + 1) % 256
      let y : Pod := { x with w0 := setField (setField t 43 2 1) 45 8 gen }
      let s := s.setCluster cl { (c.setPod i y) with opened := mset c.opened i s.cycle }
      s.enter (q.setG d (word (gen * 256 + i)))
        { id := 0, kind := .footL (y.base / 16) (y.footprint / 16) .empty y.banks }

/-- POPEN reads g[B] only when the template's TIMED is 1 (R407): an empty g[A] holds no template yet. -/
def execPopen (y x : Bit) (b a d : Reg) (s : State) : Host.Outcome State Fault Refusal :=
  let timed := match s.pip s.cur with
    | some p => p.gf a && (p.gv a).getLsbD 61
    | none => false
  runEntry (.popen y x b a d) (if timed then usesR x y a b d else usesA x a d) s (fun p q t =>
    .next (t.popen q (p.gv a) (p.gv b) d))

/-- SEAL (R93, R421): a release at cluster scope; its seal point is its issue. A timer's seal point in the same cycle
gives way to it (R90). -/
def execSeal (x : Bit) (a d : Reg) (s : State) : Host.Outcome State Fault Refusal :=
  runEntry (.seal x a d) (usesA x a d) s (fun p q t =>
    if !s.released s.cur p 2 then .park (.release 2)
    else
      let c := s.cluster s.curCl
      match c.live (p.gv a) with
      | none => .next (t.put (q.setG d (statusWord 0x10)))
      | some i =>
        if (c.pod i).state = 2 then
          if c.seals.any (fun e => e.pod == i && e.timer && e.point == s.cycle) then
            .next ((t.put (q.setG d 0)).setCluster s.curCl
              { c with seals := c.seals.map (fun e => if e.pod = i then { e with timer := false } else e) })
          else .next (t.put (q.setG d (statusWord 0x11)))
        else .next ((t.put (q.setG d 0)).beginSeal s.curCl i false none))

/-- Rows of a pod whose data granules are all FULL, as a mask (R94). -/
def Cluster.fullRows (c : Cluster) (d : Pod) : Nat :=
  ((List.range d.rows).map (fun i =>
    if (List.range (d.rowBytes / 16)).all (fun j => c.gran (d.base + i * d.rowBytes + 16 * j) == .full) then 2 ^ i else 0)).sum

/-- The words that PSTAT reads (R411). -/
def Cluster.podWord (c : Cluster) (d : Pod) (w : Nat) : Word :=
  match w with
  | 0 => d.w0
  | 1 => d.w1
  | 2 => if d.state = 2 then d.w2 else word (c.fullRows d)
  | _ => if d.state = 2 then d.w3 else word (c.fullRows d / 2 ^ 64)

/-- PSTAT (R94, R411): it parks while a seal is under way; word 0 with STATE SEALED is an acquire at cluster scope. -/
def execPstat (x : Bit) (w : BitVec 2) (a d : Reg) (s : State) : Host.Outcome State Fault Refusal :=
  runEntry (.pstat x w a d) (usesA x a d) s (fun p q t =>
    let c := s.cluster s.curCl
    match c.live (p.gv a) with
    | none => .trap .podStale (p.gv a)
    | some i =>
      if c.sealing i then .park (.seal i)
      else
        let t := t.put (q.setG d (c.podWord (c.pod i) w.toNat))
        .next (if w = 0 ∧ (c.pod i).state = 2 then t.acquireAt (s.cur / 16) (some 2) else t))

/-- A task in the dependency table, or the running task, names a handle (R87). -/
def Cluster.namesPod (c : Cluster) (h : BitVec 16) : Bool :=
  let names := fun (t : MTask) => t.ins.contains h || t.outs.contains h
  c.mu.table.any names || (match c.mu.run with
    | some r => names r.task
    | none => false)

/-- PFREE (R95, R404). -/
def execPfree (x : Bit) (a d : Reg) (s : State) : Host.Outcome State Fault Refusal :=
  runEntry (.pfree x a d) (usesA x a d) s (fun p q t =>
    let c := s.cluster s.curCl
    match c.live (p.gv a) with
    | none => .next (t.put (q.setG d (statusWord 0x10)))
    | some i =>
      let y := c.pod i
      if c.sealing i then .park (.seal i)
      else if c.namesPod (y.handle i) then .next (t.put (q.setG d (statusWord 0x12)))
      else .next ((t.setCluster s.curCl { (c.setPod i (y.setState 0)) with freeing := c.freeing ++ [y] }).enter (q.setG d 0)
        { id := 0, kind := .footL (y.base / 16) (y.footprint / 16) .closed y.banks }))

/-- The checks of PRESET, in the order of R96. -/
def State.checkPreset (s : State) (p : Pip) (a : Word) (n : Nat) : Option Cause :=
  if a.toNat / 2 ^ 61 != 0 || !s.near p a then some .localRange
  else if a.toNat % 16 != 0 then some .misaligned
  else if checkOf a then some .podStale
  else if n != 0 && !(s.cluster s.curCl).inPlain (offsetOf a) (16 * n) then some .localRange
  else none

/-- PRESET (R96, R410): granules become EMPTY one at a time, in store-queue order. -/
def execPreset (y x : Bit) (b a : Reg) (s : State) : Host.Outcome State Fault Refusal :=
  runEntry (.preset y x b a) { g := [a, b], gs := syncG x a ++ syncG y b } s (fun p q t =>
    let n := (p.gv b).toNat
    match s.checkPreset p (p.gv a) n with
    | some c => .trap c (p.gv a)
    | none =>
      if n = 0 then .next (t.put q)
      else .next (t.enter q { id := 0, kind := .presetL (offsetOf (p.gv a) / 16) n }))

end Sys2Proof.Machine
end

