-- ==== Sys2Proof/Machine/Barrier.lean ====
section
/-! DEFINITION. BARI, BARA, BARW (R347 to R351, R119) and WAITGE (R167, R226, R447). -/

namespace Sys2Proof.Machine

/-- The checks of a barrier's address (R348): R73 for 16 bytes, and the plain region for a near one. -/
def State.checkBarrier (s : State) (p : Pip) (a : Word) : Option Cause :=
  match s.checkIssue p a 16 with
  | some c => some c
  | none => if s.near p a && !(s.cluster s.curCl).inPlain (offsetOf a) 16 then some .localRange else none

/-- The scope of a barrier's ordering (R119): cluster when near, job otherwise. -/
def barrierScope (near : Bool) : Nat := if near then 2 else 6

/-- BARI (R349). -/
def execBari (y x : Bit) (b a : Reg) (s : State) : Host.Outcome State Fault Refusal :=
  runEntry (.bari y x b a) { g := [a, b], gs := syncG x a ++ syncG y b } s (fun p q t =>
    let n := (p.gv b).toNat
    match s.checkBarrier p (p.gv a) with
    | some c => .trap c (p.gv a)
    | none =>
      if n = 0 ∨ 65535 < n then .trap .localRange (p.gv b)
      else .next (t.enter q { id := 0, kind := .bariL (p.gv a) n }))

/-- BARA (R348): an arrival, as a release. -/
def execBara (x : Bit) (a : Reg) (s : State) : Host.Outcome State Fault Refusal :=
  runEntry (.bara x a) { g := [a], gs := syncG x a } s (fun p q t =>
    match s.checkBarrier p (p.gv a) with
    | some c => .trap c (p.gv a)
    | none => .next (t.enter q { id := 0, kind := .baraL (p.gv a), rel := some (barrierScope (s.near p (p.gv a))) }))

/-- BARW (R350): it waits for a phase other than the one it finds, and acquires when it writes rd. -/
def execBarw (a d : Reg) (s : State) : Host.Outcome State Fault Refusal :=
  runEntry (.barw a d) { g := [a], gd := [d], fullBit := true } s (fun p q t =>
    match s.checkBarrier p (p.gv a) with
    | some c => .trap c (p.gv a)
    | none => .next (t.enter q { id := 0, kind := .barwL (p.gv a) none, dest := .g d,
                                 acq := some (barrierScope (s.near p (p.gv a))) }))

/-- The engine context that WAITGE names (R167, R224): modes 0 to 3 in the pip's current cluster. -/
def waitContext (cl mode channel nma : Nat) : EngineRef :=
  match mode with
  | 0 => .copy cl channel
  | 1 => .gather cl
  | 2 => .merge cl
  | 3 => .matrix cl
  | _ => .nma nma

/-- WAITGE (R447): `m` the mode, `n` the copy channel, `c` the scope, g[b] the NMA channel in mode 4. -/
def execWaitge (m : Reg4) (c n : BitVec 3) (b a d : Reg) (s : State) : Host.Outcome State Fault Refusal :=
  runEntry (.waitge m c n b a d) { g := [a, b], gd := [d], fullBit := true } s (fun p q t =>
    if m = 4 ∧ 4095 < (p.gv b).toNat then
      .next (t.enter q { id := 0, kind := .pure, dest := .g d, phase := .done, result := (statusWord 1).setWidth 512 })
    else
      .next (t.enter q { id := 0, kind := .waitge (waitContext s.curCl m.toNat n.toNat (p.gv b).toNat) (p.gv a),
                         dest := .g d, acq := some c.toNat }))

end Sys2Proof.Machine
end

