-- ==== Sys2Proof/Machine/Task.lean ====
section
/-! DEFINITION. SENDR, FORK, JOIN, DONE and PAUSE (R33 to R35, R39 to R43, R377, R380, R403, R423). -/

namespace Sys2Proof.Machine

/-- A value that SENDR delivers (R34): the register becomes full, its first read will be an acquire (R35), and a PAUSE
of the target ends in the next cycle (R403, R32). -/
def Pip.deliver (p : Pip) (d : Reg) (x : Word) : Pip :=
  let q := p.setG d x
  { q with delivered := q.delivered ||| BitVec.twoPow 32 d.toNat
           cond := match q.cond with
             | .parked (.pause _) => .parked (.pause 0)
             | c => c }

/-- The target of a SENDR takes the value now: its register is empty with nothing outstanding, and it is neither in
transit nor held by debug (R34, R423). -/
def Pip.takes (p : Pip) (d : Reg) : Bool := !p.gf d && !p.gBusy d && p.cond != .inTransit && !p.heldDebug

/-- SENDR (R34): a release at cluster scope. -/
def execSendr (y x : Bit) (b a d : Reg) (s : State) : Host.Outcome State Fault Refusal :=
  runEntry (.sendr y x b a d) { g := [a, b], gs := syncG x a ++ syncG y b } s (fun p q t =>
    let slot := (p.gv a).toNat
    if 256 ≤ slot then .trap .localRange (p.gv a)
    else
      let k := 256 * s.curCl + slot
      if k = s.cur then
        if p.gBusy d then .park (.written [d] [])
        else if !s.released s.cur p 2 then .park (.release 2)
        else .next (t.put (q.setG d (p.gv b)))
      else match s.pip k with
        | none => .trap .localRange (p.gv a)
        | some target =>
          if !s.released s.cur p 2 then .park (.release 2)
          else if !target.takes d then .park (.target k d)
          else .next ((t.put q).setPip k (target.deliver d (p.gv b))))

/-- The checks of FORK's counter (R41). -/
def State.checkCounter (s : State) (p : Pip) (a : Word) : Option Cause :=
  if a.toNat % 4 != 0 then some .misaligned
  else if a.toNat / 2 ^ 61 != 0 || !s.near p a || !(s.cluster s.curCl).inPlain (offsetOf a) 4 then some .localRange
  else if checkOf a then some .podStale
  else none

/-- The counter at an offset changed by `f` modulo 2^32, and its new value (R41, R42). -/
def Cluster.count (c : Cluster) (off : Nat) (f : Nat → Nat) : Cluster × Nat :=
  let n := f (leNat (c.read off 4)) % 2 ^ 32
  (c.write off (natBytes 4 n), n)

/-- FORK (R41, R377). -/
def execFork (a : Reg) (e : Reg4) (s : State) : Host.Outcome State Fault Refusal :=
  runEntry (.fork a e) { g := [a, 4, 5, 6, 7] } s (fun p q t =>
    let b := p.steer e.toNat
    let x := p.gv a
    if !b.tv then .trap .steerInvalid (e.setWidth 64)
    else match s.checkCounter p x with
      | some c => .trap c x
      | none =>
        let core := s.cur / 16
        if 64 ≤ (s.core core).deque.length then .next (t.put (q.setSteer e.toNat { b with c := false }))
        else if !s.mayCount s.cur p x then .park (.counter x)
        else
          let entry : Task4 := ⟨b.t, p.gv 4, p.gv 5, p.gv 6, p.gv 7, x⟩
          let u := t.core core
          let t := t.setCore core { u with deque := entry :: u.deque }
          let t := t.setCluster s.curCl ((t.cluster s.curCl).count (offsetOf x) (· + 1)).1
          .next (t.put (q.setSteer e.toNat { b with c := true })))

/-- A task ends as DONE ends it (R43): once every operation of the full-bit class has written, the pip is idle. -/
def endTask (s : State) (p q : Pip) : Done :=
  if p.fullBits = 0 then .next (s.put { q with cond := .idle }) else .park .drain

/-- DONE (R43). -/
def execDone (s : State) : Host.Outcome State Fault Refusal :=
  runEntry .done {} s (fun p q t => endTask t p q)

/-- The JOIN under way at the pip's present instruction. -/
def Pip.joinHere (p : Pip) : Option Joined := p.joined.find? (fun j => j.pc == p.pc)

/-- The pip without the JOIN at an address. -/
def Pip.unjoin (p : Pip) (pc : Word) : Pip := { p with joined := p.joined.filter (fun j => j.pc != pc) }

/-- JOIN when the counter after its update is known (R42): on at 0, else the task ends. -/
def joinResult (s : State) (p q : Pip) (n : Nat) : Done :=
  if n = 0 then .next (s.put (q.unjoin p.pc))
  else if p.fullBits = 0 then .next (s.put { (q.unjoin p.pc) with cond := .idle })
  else .next (s.put { p with joined := (p.unjoin p.pc).joined ++ [⟨p.pc, 0, some n⟩], cond := .parked .drain })

/-- JOIN (R42, R380): near, the update is made at issue as an acquire and release at cluster scope; in another cluster
it travels as an AT request and the pip parks for it. -/
def execJoin (a : Reg) (s : State) : Host.Outcome State Fault Refusal :=
  runEntry (.join a) { g := [a] } s (fun p q t =>
    let x := p.gv a
    match p.joinHere with
    | some j => match j.result with
      | some n => joinResult t p q n
      | none => .park (.join j.op)
    | none =>
      match s.checkIssue p x 4 with
      | some c => .trap c x
      | none =>
        if s.near p x then
          if !(s.cluster s.curCl).inPlain (offsetOf x) 4 then .trap .localRange x
          else if checkOf x then .trap .podStale x
          else if !s.mayCount s.cur p x then .park (.counter x)
          else
            let (c, n) := (t.cluster s.curCl).count (offsetOf x) (· + (2 ^ 32 - 1))
            joinResult ((t.setCluster s.curCl c).acquireAt (s.cur / 16) (some 2)) p q n
        else
          let o : Op := { id := 0, kind := .joinL x, acq := some 6, rel := some 6 }
          .next (t.enter { p with joined := p.joined ++ [⟨p.pc, p.nextOp, none⟩], cond := .parked (.join p.nextOp) } o))

/-- An event of R313 steps 1 to 3 is pending (R318, R403). -/
def Pip.eventPending (p : Pip) : Bool := p.deferredTrap.isSome || p.ipend.toNat % 32 != 0

/-- PAUSE (R403): it parks for 64 cycles unless an event is pending. -/
def execPause (s : State) : Host.Outcome State Fault Refusal :=
  runEntry .pause {} s (fun p q t =>
    if p.eventPending then .next (t.put q) else .next (t.put { q with cond := .parked (.pause (s.cycle + 64)) }))

end Sys2Proof.Machine
end

