-- ==== Sys2Proof/Machine/System.lean ====
section
/-! DEFINITION. Traps by instruction, the return from a trap, WFI, and the status registers (R26, R27, R132, R206, R223,
R243, R301, R316 to R320, R329, R354, R366, R395, R400). -/

namespace Sys2Proof.Machine

/-! ### ECALL, BRK, ERET, WFI -/

/-- ECALL (R366): the trap ECALL_U or ECALL_S. -/
def execEcall (s : State) : Host.Outcome State Fault Refusal :=
  runEntry .ecall {} s (fun p _ _ => .trap (if p.mode then .ecallS else .ecallU) 0)

/-- BRK (R354): the trap BREAKPOINT. -/
def execBrk (s : State) : Host.Outcome State Fault Refusal := runEntry .brk {} s (fun _ _ _ => .trap .breakpoint 0)

/-- The replay entries of a pip, in program order (R316). -/
def Pip.replayOps (p : Pip) : List Nat := (p.ops.filter Op.isDeferred).map Op.id

/-- Perform one replay entry again (R316, R317): it may fail again. -/
def State.replay (s : State) (k n : Nat) : State :=
  let s := s.modPip k (fun p => p.modOp n (fun o => { o with phase := .waiting }))
  match (s.pip k).bind (fun p => p.op n) with
  | some o => s.performGlobal k o
  | none => s

/-- A replay entry that has been begun again is over: performed, or failed once more. -/
def State.replayOver (s : State) (k n : Nat) : Bool :=
  match (s.pip k).bind (fun p => p.op n) with
  | none => true
  | some o => o.performed || o.deposited || o.isDeferred

/-- An ERET goes on: each replay entry is performed before the next is begun, and all of them before the return; while one waits, for a
home L2 on another die or for a recall, the pip parks (R316, R317, R367). -/
def State.eretGoOn (s : State) (k : Nat) : List Nat → State
  | [] => s.modPip k (fun p => { p.returnFromTrap with eret := none })
  | n :: ns =>
    let t := s.replay k n
    if t.replayOver k n then t.eretGoOn k ns
    else t.modPip k (fun p => { p with eret := some ns, cond := .parked (.replay n) })

/-- ERET (R317): the replay entries are performed again, then the return. -/
def execEret (s : State) : Host.Outcome State Fault Refusal :=
  runEntry .eret { priv := true } s (fun p _ t => .next (t.eretGoOn s.cur (p.eret.getD p.replayOps)))

/-- WFI (R318): it parks unless an event is pending; either way the pip continues at the next instruction. -/
def execWfi (s : State) : Host.Outcome State Fault Refusal :=
  runEntry .wfi { priv := true } s (fun p q t =>
    .next (t.put (if p.eventPending then q else { q with cond := .parked .wfi })))

/-! ### Reading -/

/-- SR_SLOT (R27). -/
def State.slotWord (s : State) (p : Pip) : Word :=
  word (s.cur % 256 + s.curCl % 256 * 2 ^ 8 + s.curCl / 256 * 2 ^ 16 + (s.jobOf (s.jobOfLaunch p.launch)).ownRank * 2 ^ 22)

/-- SR_LAUNCH (R320). -/
def State.launchWord (s : State) (p : Pip) : Word :=
  word (p.launch.toNat + (match s.launch p.launch with
    | some l => l.prio
    | none => 0) * 2 ^ 32)

/-- SR_IPEND (R320): TIMER as SR_TIME stands to SR_TCMP. -/
def State.ipendWord (s : State) (p : Pip) : Word :=
  (p.ipend &&& ~~~1) ||| (if p.tcmp.toNat ≤ s.timeAt s.curCl then 1 else 0)

/-- SR_RAMPDOWN (R329): RATE, and FILLER in units of 65,536. -/
def State.rampDownWord (s : State) : Word := word (s.rampDown.toNat % 2 ^ 32 + s.fillers / 65536 % 2 ^ 32 * 2 ^ 32)

/-- The status register of a number (R319). -/
def State.statusReg (s : State) (p : Pip) (n : Nat) : Word :=
  match n with
  | 0x000 => p.status | 0x001 => p.pipid | 0x002 => s.slotWord p | 0x003 => p.coord | 0x004 => p.extent
  | 0x005 => s.launchWord p | 0x008 => word (s.timeAt s.curCl) | 0x009 => p.tcmp | 0x010 => p.tvec
  | 0x011 => p.tcause | 0x012 => p.tval | 0x013 => p.tpc | 0x014 => s.ipendWord p | 0x015 => p.msg
  | 0x016 => p.hsave | 0x018 => p.asid.setWidth 64 | 0x020 => p.fpmode | 0x021 => p.refused | 0x022 => p.engerr
  | 0x030 => word (s.cluster s.curCl).plainEnd | 0x031 => word (s.cluster s.curCl).spres
  | 0x040 => (s.cluster s.curCl).lvlInt | 0x041 => (s.cluster s.curCl).muCheck | 0x042 => (s.cluster s.curCl).pBound
  | 0x050 => s.age | 0x051 => s.preemptWait | 0x058 => s.rampUp | 0x059 => s.rampDownWord
  | _ => 0

/-- Registers that mode U may not read: None in R319. -/
def noneInU (n : Nat) : Bool := [0x010, 0x011, 0x012, 0x013, 0x016].contains n

/-- Registers that mode U may write (R319). -/
def writableInU (n : Nat) : Bool := [0x000, 0x009, 0x020, 0x021, 0x022, 0x041].contains n

/-- MFS (R395). -/
def execMfs (n : BitVec 12) (d : Reg) (s : State) : Host.Outcome State Fault Refusal :=
  runEntry (.mfs n d) { gd := [d], priv := noneInU n.toNat } s (fun p q t =>
    .next (t.put (q.setG d (t.statusReg p n.toNat))))

/-! ### Writing -/

/-- The bits of `new` under a mask, those of `old` elsewhere. -/
def mixBits (old new mask : Word) : Word := (old &&& ~~~mask) ||| (new &&& mask)

/-- A write of a status register: its privilege (R319), then its effect. -/
def writeStatus (i : Instr) (n : Nat) (x : Bit) (a : Reg) (s : State) (f : Word → Pip → Pip → State → State) :
    Host.Outcome State Fault Refusal :=
  runEntry i { g := [a], gs := syncG x a, priv := !writableInU n } s (fun p q t => .next (f (p.gv a) p q t))

/-- The pip's registers without further effect, under their RW bits (R132, R320). -/
def Pip.writeReg (p : Pip) (n : Nat) (x : Word) : Pip :=
  match n with
  | 0x010 => { p with tvec := x &&& ~~~3 }
  | 0x012 => { p with tval := x }
  | 0x013 => { p with tpc := x &&& ~~~3 }
  | 0x016 => { p with hsave := x }
  | 0x020 => { p with fpmode := x &&& 0xFF }
  | 0x021 => { p with refused := x }
  | _ => p

/-- MTS (R400) of a register that has no row of its own; read-only ones ignore it. -/
def execMts (x : Bit) (n : BitVec 12) (a : Reg) (s : State) : Host.Outcome State Fault Refusal :=
  writeStatus (.mts x n a) n.toNat x a s (fun v _ q t => t.put (q.writeReg n.toNat v))

/-- MTS SR_STATUS (R26): in mode U only AE, MG and VL. -/
def execMtsSrStatus (x : Bit) (a : Reg) (s : State) : Host.Outcome State Fault Refusal :=
  writeStatus (.mtsSrStatus x a) 0x000 x a s (fun v p q t =>
    t.put { q with status := mixBits p.status v (if p.mode then 0x7F else 0x1C) })

/-- MTS SR_TCMP (R320, R400): TIMER is re-evaluated in the next cycle. -/
def execMtsSrTcmp (x : Bit) (a : Reg) (s : State) : Host.Outcome State Fault Refusal :=
  writeStatus (.mtsSrTcmp x a) 0x009 x a s (fun v _ q t => t.put { q with tcmp := v })

/-- Discard the replay entries (R316): a discarded load or atomic writes 0, a discarded store is dropped. -/
def Pip.discardReplays (p : Pip) : Pip :=
  let q := (p.ops.filter Op.isDeferred).foldl (fun (p : Pip) o => p.writeDest 0 o.dest) p
  { q with ops := p.ops.filter (fun o => !o.isDeferred), deferredTrap := none }

/-- MTS SR_TCAUSE (R316): REPLAY written 0 while replay entries are held discards them. -/
def execMtsSrTcause (x : Bit) (a : Reg) (s : State) : Host.Outcome State Fault Refusal :=
  writeStatus (.mtsSrTcause x a) 0x011 x a s (fun v p q t =>
    let q := { q with tcause := v &&& 0x3FF }
    if p.replays && !v.getLsbD 9 then (t.put q.discardReplays).settle s.cur else t.put q)

/-- MTS SR_IPEND (R320): a 1 withdraws MESSAGE, REFUSED, ENGERR or REJECT. -/
def execMtsSrIpend (x : Bit) (a : Reg) (s : State) : Host.Outcome State Fault Refusal :=
  writeStatus (.mtsSrIpend x a) 0x014 x a s (fun v _ q t => t.put { q with ipend := q.ipend &&& ~~~(v &&& 0x1E) })

/-- MTS SR_ASID (R320): from the pip's next instruction. -/
def execMtsSrAsid (x : Bit) (a : Reg) (s : State) : Host.Outcome State Fault Refusal :=
  writeStatus (.mtsSrAsid x a) 0x018 x a s (fun v _ q t => t.put { q with asid := v.setWidth 16 })

/-- MTS SR_ENGERR (R243): a 1 clears V or OVF. -/
def execMtsSrEngerr (x : Bit) (a : Reg) (s : State) : Host.Outcome State Fault Refusal :=
  writeStatus (.mtsSrEngerr x a) 0x022 x a s (fun v _ q t => t.put { q with engerr := q.engerr &&& ~~~(v &&& 3) })

/-- A register of the cluster. -/
def clusterWrite (i : Instr) (n : Nat) (x : Bit) (a : Reg) (s : State) (f : Word → Cluster → Cluster) :
    Host.Outcome State Fault Refusal :=
  writeStatus i n x a s (fun v _ q t => (t.put q).setCluster s.curCl (f v (t.cluster s.curCl)))

/-- MTS SR_LVLINT (R27). -/
def execMtsSrLvlint (x : Bit) (a : Reg) (s : State) : Host.Outcome State Fault Refusal :=
  clusterWrite (.mtsSrLvlint x a) 0x040 x a s (fun v c => { c with lvlInt := v &&& 0xFFFF })

/-- MTS SR_MUCHECK (R206). -/
def execMtsSrMucheck (x : Bit) (a : Reg) (s : State) : Host.Outcome State Fault Refusal :=
  clusterWrite (.mtsSrMucheck x a) 0x041 x a s (fun v c => { c with muCheck := v &&& 1 })

/-- MTS SR_PBOUND (R223). -/
def execMtsSrPbound (x : Bit) (a : Reg) (s : State) : Host.Outcome State Fault Refusal :=
  clusterWrite (.mtsSrPbound x a) 0x042 x a s (fun v c => { c with pBound := v &&& 0xFFFFFF })

/-- MTS SR_AGE (R301); the controllers adopt it within 1 µs. -/
def execMtsSrAge (x : Bit) (a : Reg) (s : State) : Host.Outcome State Fault Refusal :=
  writeStatus (.mtsSrAge x a) 0x050 x a s (fun v _ q t => (t.put q).writeSched (v &&& 0xFFFFFFFF) t.preemptWait)

/-- MTS SR_PREEMPTWAIT (R301). -/
def execMtsSrPreemptwait (x : Bit) (a : Reg) (s : State) : Host.Outcome State Fault Refusal :=
  writeStatus (.mtsSrPreemptwait x a) 0x051 x a s (fun v _ q t => (t.put q).writeSched t.age v)

/-- MTS SR_RAMPUP (R329). -/
def execMtsSrRampup (x : Bit) (a : Reg) (s : State) : Host.Outcome State Fault Refusal :=
  writeStatus (.mtsSrRampup x a) 0x058 x a s (fun v _ q t => { t.put q with rampUp := v &&& 0xFFFF })

/-- MTS SR_RAMPDOWN (R329): RATE only. -/
def execMtsSrRampdown (x : Bit) (a : Reg) (s : State) : Host.Outcome State Fault Refusal :=
  writeStatus (.mtsSrRampdown x a) 0x059 x a s (fun v _ q t => { t.put q with rampDown := v &&& 0xFFFF })

end Sys2Proof.Machine
end

