-- ==== Sys2Proof/Machine/PipEvents.lean ====
section
/-! DEFINITION. The events of the pips: results written, accesses performed, traps taken, messages, tasks, levelling
(R30, R44, R45, R70, R77 to R80, R98, R161, R313 to R316, R320). An event whose condition does not hold changes nothing. -/

namespace Sys2Proof.Machine

/-! ### Accesses -/

/-- The timeline of an engine context (R225). -/
def State.context (s : State) : EngineRef → Ctx
  | .copy cl n => (s.cluster cl).copies.getD n {}
  | .gather cl => (s.cluster cl).gather
  | .merge cl => (s.cluster cl).merge
  | .matrix cl => (s.cluster cl).matrix
  | .nma n => mgetD s.nmas n {}

/-- Commands of the engines of 08: refused with rd g0 they raise ENGINE_REJECT (R228, R262). -/
def CmdKind.rejects : CmdKind → Bool
  | .copy | .mcast | .gatherList | .gatherSpr | .scatterList | .scatterSpr | .merge _ | .kvld | .attn => true
  | _ => false

/-- A refused command that names g0 makes ENGINE_REJECT pending (R228). While one is pending the status of the first stays in
SR_TVAL (the spec is silent; the model's choice, log entry 55). -/
def Pip.reject (p : Pip) (o : Op) (x : VWord) : Pip :=
  match o.kind with
  | .command kind _ _ =>
    if kind.rejects && o.dest == .g 0 && x.getLsbD 63 && !p.pending ipReject then
      { (p.raise ipReject) with rejectVal := x.setWidth 64 }
    else p
  | _ => p

/-- The value an operation of the full-bit class may write now (R30): its result, or a timeline that has come far
enough (R447). -/
def State.writable (s : State) (o : Op) : Option VWord :=
  if !o.fullBit then none
  else match o.phase, o.kind with
    | .done, _ => some o.result
    | .waiting, .waitge e v =>
      if v.toNat ≤ (s.context e).timeline then some (BitVec.ofNat 512 ((s.context e).timeline % 2 ^ 64)) else none
    | _, _ => none

/-- FULL_BIT_RESULT_WRITE (R30, R31, R43): the destination is written and becomes full. -/
def execFullBitResultWrite (p op : Nat) (s : State) : Host.Outcome State Fault Refusal :=
  match (s.pip p).bind (fun x => x.op op) with
  | none => .next s
  | some o =>
    match s.writable o with
    | none => .next s
    | some x =>
      let s := s.modPip p (fun y => ((y.writeDest x o.dest).reject o x).dropOp op)
      .next ((if o.kind.lateAcquire then s.acquireAt (p / 16) o.acq else s).settle p)

/-- A list without the elements at some indices. -/
def dropAt {α : Type} (xs : List α) (is : List Nat) : List α :=
  (xs.zipIdx.filter (fun e => !is.contains e.2)).map Prod.fst

/-- Lines leave a core's L1, and translations a die's TLB (R66, R102: not architectural). -/
def State.evict (s : State) (k : Nat) (lines drops : List Nat) : State :=
  let s := s.setCore (k / 16) { s.core (k / 16) with lines := dropAt (s.core (k / 16)).lines lines }
  let l := mgetD s.tlbs (k / 65536) []
  let drops := drops.filter (fun i => l[i]?.any (fun t => !s.keptByTinv (k / 65536) t))
  { s with tlbs := mset s.tlbs (k / 65536) (dropAt l drops) }

/-- Perform a global access that is due: the state after it, and whether it failed and was deferred. -/
def State.globalDue (s : State) (k n : Nat) : Option (State × Bool) :=
  match s.pip k with
  | none => none
  | some p =>
    match p.op n with
    | none => none
    | some o =>
      if o.kind.isGlobal && o.phase == .waiting && s.canPerform k p o then
        let t := s.reaching (.op k n) (s.clusterAddr (k / 256)) (fun s => (s.performGlobal k o, id)) id
        some (t, ((t.pip k).bind (fun x => x.op n)).elim false Op.isDeferred)
      else none

/-- HOME_L2_ACCESS (R98): a global access is performed. Before it, some lines and translations may have gone. -/
def execHomeL2Access (p op : Nat) (lines drops : List Nat) (s : State) : Host.Outcome State Fault Refusal :=
  match (s.evict p lines drops).globalDue p op with
  | some (t, false) => .next t
  | _ => .next s

/-- DEFERRED_FAULT (R316): a global access fails at the L2 boundary and becomes a replay entry. -/
def execDeferredFault (p op : Nat) (s : State) : Host.Outcome State Fault Refusal :=
  match s.globalDue p op with
  | some (t, true) => .next t
  | _ => .next s

/-- RED_MERGE (R70): an update-only line, by its place in the core's list, merges into its home L2 line; one of another die goes
there. -/
def execRedMerge (core line : Nat) (s : State) : Host.Outcome State Fault Refusal :=
  match (s.core core).reds[line]? with
  | some r =>
    if r.way = .here then .next ((r.by_.map Prod.fst).foldl State.settle (s.leaveRed core r).sendMerges) else .next s.sendMerges
  | none => .next s

/-- A wait-full load (R80). -/
def OpKind.waitFull : OpKind → Bool
  | .loadL _ _ q => q == 1 || q == 2
  | _ => false

/-- A near local operation in its bank slot, when its turn has come (R77, R78). -/
def State.nearDue (s : State) (k n : Nat) (waitFull : Bool) : State :=
  match s.pip k with
  | none => s
  | some p =>
    match p.op n with
    | none => s
    | some o =>
      if o.kind.waitFull == waitFull && s.nearWaiting k p o && s.pipSlot (k / 256) (o.kind.bank?.getD 0) && s.oldest k o then
        s.performNear k o
      else s

/-- WAIT_FULL_READ (R80): no touched granule is EMPTY. -/
def execWaitFullRead (p op : Nat) (s : State) : Host.Outcome State Fault Refusal := .next (s.nearDue p op true)

/-- NEAR_LOCAL_ACCESS (R98): every other near local access. -/
def execNearLocalAccess (p op : Nat) (s : State) : Host.Outcome State Fault Refusal := .next (s.nearDue p op false)

/-! ### Traps -/

/-- The event that a pip takes at its instruction boundary, in the order of R313, with SR_TVAL: none while an ERET performs its replay
entries (R367). -/
def Pip.dueTrap (p : Pip) : Option (Cause × Word) :=
  if p.eret.isSome then none
  else match p.deferredTrap with
  | some (c, a) => some (if c = Cause.code .pageNotPresent then .pageNotPresent else .pagePermission, a)
  | none =>
    if p.pending ipReject then some (.engineReject, p.rejectVal)
    else if !p.ie then none
    else if p.pending ipEngerr then some (.engineError, p.engerrVal)
    else if p.pending ipRefused then some (.remoteRefused, p.refusedVal)
    else if p.pending ipTimer then some (.timer, 0)
    else if p.pending ipMessage then some (.message, 0)
    else none

/-- The pip stands at an instruction boundary: ready or parked, and not held (R313). -/
def Pip.atBoundary (p : Pip) : Bool := !p.held && match p.cond with
  | .ready | .parked _ => true
  | _ => false

/-- TRAP_ENTRY (R313, R315): a deferred or asynchronous trap at an instruction boundary. -/
def execTrapEntry (p : Nat) (s : State) : Host.Outcome State Fault Refusal :=
  match s.pip p with
  | none => .next s
  | some x =>
    if !x.atBoundary then .next s
    else match x.dueTrap with
      | none => .next s
      | some (c, v) => .next (s.takeTrap p { x with deferredTrap := none } c true v)

/-- TIMER (R320). -/
def execTimer (p : Nat) (s : State) : Host.Outcome State Fault Refusal :=
  match s.pip p with
  | none => .next s
  | some x => if x.tcmp.toNat ≤ s.timeAt (p / 256) then .next (s.setPip p (x.raise ipTimer)) else .next s

/-- ILLEGAL_INSTRUCTION (R161): the fetched word is no instruction. -/
def execIllegalInstruction (word : BitVec 32) (s : State) : Host.Outcome State Fault Refusal :=
  match s.pip s.cur with
  | none => .fault .noPip
  | some p =>
    match decode word.toNat with
    | .ok _ => .next s
    | .error _ => .next (s.takeTrap s.cur p .illegal false (word.setWidth 64))

/-- FETCH_FAULT (R161, R317): the fetch at the pip's PC fails. -/
def execFetchFault (s : State) : Host.Outcome State Fault Refusal :=
  match s.pip s.cur with
  | none => .fault .noPip
  | some p =>
    match s.fetchWord s.cur p with
    | (_, some (.ok _)) => .next s
    | (t, some (.error c)) => .next (t.takeTrap s.cur p c false p.pc)
    | (_, none) => .next s

/-! ### Messages (R314) -/

/-- The slot of a pip of a running launch: one in transit is still found in its origin slot, after any other. -/
def State.findPip (s : State) (launch : BitVec 32) (pipid : Word) (inTransit : Bool) : Option Nat :=
  (s.pips.find? (fun e => e.2.launch == launch && e.2.pipid == pipid && (e.2.cond == .inTransit) == inTransit)).map Prod.fst

/-- A message reaches the pip: SR_MSG, when MESSAGE is 0 and none waits before it, or its queue of 16. For a pip in transit,
whose registers are in its packet, it waits in the queue. -/
def Pip.post (p : Pip) (x : Word) : Option Pip :=
  if !p.pending ipMessage && p.messages.isEmpty && p.cond != .inTransit then some { (p.raise ipMessage) with msg := x }
  else if p.messages.length < 16 then some { p with messages := p.messages ++ [x] }
  else none

/-- The identity and the launch in a migration packet (R49). -/
def Migrant.pipid (m : Migrant) : Word := word (fieldAt m.bytes 0x10 8)
def Migrant.launch (m : Migrant) : BitVec 32 := BitVec.ofNat 32 (fieldAt m.bytes 0x4C 4)

/-- The inbox entry that holds a pip. -/
def State.findMigrant (s : State) (launch : BitVec 32) (pipid : Word) : Option (Nat × Nat × Migrant) :=
  s.clusters.findSome? (fun c => (c.2.inbox.find? (fun e => e.2.launch == launch && e.2.pipid == pipid)).map
    (fun e => (c.1, e.1, e.2)))

/-- A message posted to the pip of a slot, with the answer to the poster. -/
def State.postTo (s : State) (k : Nat) (value : Word) : State :=
  match (s.pip k).bind (fun p => p.post value) with
  | some p => (s.setPip k p).report (.messagePosted 0)
  | none => s.report (.messagePosted 2)

/-- MESSAGE_POST (R314): delivered, queued, or refused with code 1 (no such launch or pip) or 2 (a full queue). A pip in transit
whose packet has been accepted is found in the inbox, and one whose packet is on its way in its origin slot. Posting goes through
the management channel, which needs a port that works (R321). -/
def execMessagePost (launch : BitVec 32) (pipid value : Word) (s : State) : Host.Outcome State Fault Refusal :=
  if !s.managed then .next s
  else match s.findPip launch pipid false with
  | some k => .next (s.postTo k value)
  | none =>
    match s.findMigrant launch pipid with
    | some (cl, e, m) =>
      if m.messages.length < 16 then
        let c := s.cluster cl
        .next ((s.setCluster cl { c with inbox := mset c.inbox e { m with messages := m.messages ++ [value] } }).report (.messagePosted 0))
      else .next (s.report (.messagePosted 2))
    | none =>
      match s.findPip launch pipid true with
      | some k => .next (s.postTo k value)
      | none => .next (s.report (.messagePosted 1))

/-- The oldest waiting message, once MESSAGE is clear; a pip in transit keeps its queue. -/
def Pip.nextMessage (p : Pip) : Pip :=
  match p.messages with
  | x :: xs => if p.pending ipMessage || p.cond == .inTransit then p else { (p.raise ipMessage) with msg := x, messages := xs }
  | [] => p

/-- MESSAGE_DELIVER (R314). -/
def execMessageDeliver (p : Nat) (s : State) : Host.Outcome State Fault Refusal := .next (s.modPip p Pip.nextMessage)

/-! ### Tasks -/

/-- The pip that starts a task (R44). -/
def Pip.startTask (p : Pip) (t : Task4) : Pip :=
  { ((((p.setG 4 t.g4).setG 5 t.g5).setG 6 t.g6).setG 7 t.g7).setG 8 t.counter with
    pc := t.t, b := Vector.replicate 12 {}, cond := .ready }

/-- TASK_START (R44): the idle pip in the lowest slot of the core pops the most recent entry, unless the deques have been
sampled in this cycle (R377). -/
def execTaskStart (core : Nat) (s : State) : Host.Outcome State Fault Refusal :=
  match (s.core core).deque, s.pips.find? (fun e => e.1 / 16 == core && e.2.cond == .idle && !e.2.held) with
  | t :: ts, some (k, p) =>
    if (s.cluster (core / 16)).lastLevel = some s.cycle then .next s
    else .next ((((s.setCore core { s.core core with deque := ts }).setPip k (p.startTask t)).discardLines core))
  | _, _ => .next s

/-- The neighbours of a core in the 4 by 4 arrangement (R22, R45), in ascending order. -/
def coreNeighbours (k : Nat) : List Nat :=
  (List.range 16).filter (fun m =>
    (k % 4 == m % 4 && (k / 4 + 1 == m / 4 || m / 4 + 1 == k / 4)) ||
    (k / 4 == m / 4 && (k % 4 + 1 == m % 4 || m % 4 + 1 == k % 4)))

/-- The least loaded neighbour and how many entries are offered to it (R45), from the sampled lengths. -/
def levelOffer (n : List Nat) (k : Nat) : Nat × Nat :=
  let m := (coreNeighbours k).foldl (fun (m : Nat) j => if n.getD j 0 < n.getD m 0 then j else m)
    ((coreNeighbours k).headD 0)
  (m, (n.getD k 0 - n.getD m 0) / 2)

/-- What receiver `m` accepts from sender `k`, senders below `k` first (R45). -/
def levelAccept (n : List Nat) (m k : Nat) : Nat :=
  let offers := fun (j : Nat) => if (levelOffer n j).1 = m then (levelOffer n j).2 else 0
  let before := ((List.range k).map offers).sum
  min (offers k) (64 - n.getD m 0 - before)

/-- The deques after levelling: each core keeps its most recent entries and takes what it accepted at the oldest end. Of an
offer that is accepted only in part, the oldest entries move (the model's choice, log entry 55). -/
def levelled (deques : List (List Task4)) : List (List Task4) :=
  let n := deques.map List.length
  (List.range 16).map (fun m =>
    let sent := levelAccept n (levelOffer n m).1 m
    (deques.getD m []).take (n.getD m 0 - sent) ++
      ((List.range 16).map (fun k => (deques.getD k []).drop (n.getD k 0 - levelAccept n m k))).flatten)

/-- The balancing interval in force (R27): 1 to 255 act as 256, 0 disables levelling. -/
def Cluster.interval (c : Cluster) : Nat :=
  let n := fieldOf c.lvlInt 0 16
  if n = 0 then 0 else max n 256

/-- A core of the cluster that holds a task and an idle pip (R44), and the cluster's sample of this cycle has not been taken. -/
def State.taskDue (s : State) (cl : Nat) : Option Nat :=
  if (s.cluster cl).lastLevel = some s.cycle then none
  else (s.cores.find? (fun e => e.1 / 16 == cl && !e.2.deque.isEmpty &&
    s.pips.any (fun p => p.1 / 16 == e.1 && p.2.cond == .idle && !p.2.held))).map Prod.fst

/-- Levelling is due in this cycle (R45): the sample follows every push and pop of its cycle (R377). -/
def State.levelDue (s : State) (cl : Nat) : Bool :=
  let c := s.cluster cl
  c.launch.isSome && !s.stopping cl && c.interval != 0 && s.cycle % c.interval == 0 && c.lastLevel != some s.cycle &&
    (s.issuesLeft cl).isEmpty && (s.taskDue cl).isNone

/-- DEQUE_LEVELLING (R45). -/
def execDequeLevelling (cl : Nat) (s : State) : Host.Outcome State Fault Refusal :=
  if s.levelDue cl then
    let ds := levelled ((List.range 16).map (fun k => (s.core (16 * cl + k)).deque))
    let s := (List.range 16).foldl (fun (s : State) k =>
      let d := ds.getD k []
      if (s.core (16 * cl + k)).deque = d then s else s.setCore (16 * cl + k) { s.core (16 * cl + k) with deque := d }) s
    .next (s.setCluster cl { s.cluster cl with lastLevel := some s.cycle })
  else .next s

/-! ### Seals (R90 to R92) -/

/-- POD_TIMER_EXPIRY (R90): the cluster's reading of global time is at or above the deadline of an OPEN timed pod; a
deadline that had passed at POPEN counts from the cycle after it (R86). -/
def execPodTimerExpiry (cl pod : Nat) (s : State) : Host.Outcome State Fault Refusal :=
  let c := s.cluster cl
  let d := c.pod pod
  if d.state = 1 && d.timed && decide (d.w1.toNat ≤ s.timeAt cl) && c.launch.isSome &&
      (match mget c.opened pod with
        | some n => decide (n < s.cycle)
        | none => true) then .next (s.beginSeal cl pod true none)
  else .next s

/-- A local store of the cluster to this bank's part of the footprint has not been performed (R91): every one that is
outstanding was issued before the seal point, since those after it are refused at issue (R88). -/
def State.storesBefore (s : State) (cl : Nat) (d : Pod) (bank : Nat) : Bool :=
  s.pips.any (fun e => e.1 / 256 == cl && e.2.ops.any (fun o => !o.performed && match o.kind with
    | .storeL a bs _ => s.namesCluster (s.jobOfLaunch e.2.launch) cl a && decide (bankOf (offsetOf a) = bank) &&
        decide (offsetOf a < d.base + d.footprint) && decide (d.base < offsetOf a + bs.length)
    | .atomicL a n _ _ => s.namesCluster (s.jobOfLaunch e.2.launch) cl a && decide (bankOf (offsetOf a) = bank) &&
        decide (offsetOf a < d.base + d.footprint) && decide (d.base < offsetOf a + n)
    | .footL first count _ bs => bs.contains bank && decide (16 * first < d.base + d.footprint) &&
        decide (d.base < 16 * (first + count))
    | _ => false))

/-- A seal may have its slot in a bank in this cycle (R78, R91). -/
def State.sealReady (s : State) (cl : Nat) (x : Seal) (bank : Nat) : Bool :=
  let c := s.cluster cl
  x.due.contains bank && slotClass s.cycle bank == .engine && c.bankFree s.cycle bank &&
    !s.storesBefore cl (c.pod x.pod) bank

/-- The footprint granules of a pod that lie in a bank. -/
def Pod.granules (d : Pod) (bank : Nat) : List Nat :=
  (granulesOf d.base d.footprint).filter (fun g => bankOf (16 * g) == bank)

/-- SEAL_SLOT (R91). -/
def execSealSlot (cl pod bank : Nat) (s : State) : Host.Outcome State Fault Refusal :=
  let c := s.cluster cl
  match c.seals.find? (fun x => x.pod == pod) with
  | none => .next s
  | some x =>
    if s.sealReady cl x bank then
      let gs := (c.pod pod).granules bank
      let full := gs.filter (fun g => c.gran (16 * g) == .full)
      let y := { x with due := x.due.filter (· != bank), full := x.full ++ full, last := s.cycle }
      let c := gs.foldl (fun (c : Cluster) g => c.setGran g .sealed) (c.useBank s.cycle bank)
      .next (s.setCluster cl { c with seals := c.seals.map (fun z => if z.pod = pod then y else z) })
    else .next s

/-- The mask of a completed seal (R92): rows whose data granules were all FULL. -/
def Seal.mask (x : Seal) (d : Pod) : Nat :=
  ((List.range d.rows).map (fun i =>
    if (granulesOf (d.base + i * d.rowBytes) d.rowBytes).all x.full.contains then 2 ^ i else 0)).sum

/-- OCOUNT of a completed seal (R92): the leading entries that are nonzero and lie in granules that were FULL. -/
def Seal.ocount (x : Seal) (c : Cluster) (d : Pod) : Nat :=
  let list := d.base + d.dataBytes
  ((List.range d.capacity).takeWhile (fun i =>
    leNat (c.read (list + 4 * i) 4) != 0 && x.full.contains ((list + 4 * i) / 16))).length

/-- A seal's slots have all been performed, in earlier cycles (R92). -/
def Seal.over (x : Seal) (cycle : Nat) : Bool := x.due.isEmpty && decide (x.last < cycle)

/-- SEAL_COMPLETE (R92). -/
def execSealComplete (cl pod : Nat) (s : State) : Host.Outcome State Fault Refusal :=
  let c := s.cluster cl
  match c.seals.find? (fun x => x.pod == pod) with
  | none => .next s
  | some x =>
    if x.over s.cycle then
      let d := c.pod pod
      let m := x.mask d
      let e : Pod := { d with w0 := setField d.w0 53 8 (x.ocount c d), w2 := word (m % 2 ^ 64), w3 := word (m / 2 ^ 64) }
      .next (s.setCluster cl { (c.setPod pod e) with seals := c.seals.filter (fun z => z.pod != pod) })
    else .next s

end Sys2Proof.Machine
end

