-- ==== Sys2Proof/Machine/Migrate.lean ====
section
/-! DEFINITION. The migration packet of R49, and the changes that reach a pip wherever it is: in its slot, in transit, in an
inbox. -/

namespace Sys2Proof.Machine

/-- Bit n of a mask is `f n`. -/
def maskOf (n : Nat) (f : Nat → Bool) : Nat := ((List.range n).map (fun i => if f i then pow2 i else 0)).sum

/-- SR_STATUS.VL (R26). -/
def Pip.vl (p : Pip) : Bool := p.status.getLsbD 4

/-- The registers that travel (R49). -/
def Pip.gTravel (p : Pip) : List Nat := (List.range 32).filter (fun n => n != 0 && p.gFull.getLsbD n)
def Pip.vTravel (p : Pip) : List Nat := if p.vl then (List.range 16).filter (fun n => p.vFull.getLsbD n) else []

/-- The migration packet (R49). -/
def Pip.pack (p : Pip) : List Byte :=
  let w := fun (x : Word) => natBytes 8 x.toNat
  let len := 232 + 8 * p.gTravel.length + 64 * p.vTravel.length
  w p.pc ++ w p.status ++ w p.pipid ++ natBytes 4 (maskOf 32 p.gTravel.contains) ++ natBytes 2 (maskOf 16 p.vTravel.contains) ++
  natBytes 2 (maskOf 12 (fun n => (p.steer n).tv)) ++ natBytes 2 (maskOf 12 (fun n => (p.steer n).c)) ++
  natBytes 2 ((len + 15) / 16) ++ natBytes 4 0 ++ w p.fpmode ++ w p.refused ++ w p.engerr ++ w p.coord ++
  natBytes 2 p.asid.toNat ++ natBytes 2 p.ipend.toNat ++ natBytes 4 p.launch.toNat ++
  w p.tvec ++ w p.tcmp ++ w p.tcause ++ w p.tval ++ w p.tpc ++ w p.hsave ++ w p.msg ++
  ((List.range 12).flatMap (fun n => w (p.steer n).t)) ++
  (p.gTravel.flatMap (fun n => w (p.gv (BitVec.ofNat 5 n)))) ++
  (p.vTravel.flatMap (fun n => natBytes 64 (p.vv (BitVec.ofNat 4 n)).toNat))

/-- A pip whose registers hold zero in their zero fields, which a write of the packet's bytes by debug cannot change (R3, R26, R132,
R243, R320). -/
def Pip.masked (p : Pip) : Pip :=
  { p with
    pc := p.pc &&& ~~~3, status := p.status &&& 0x7F, fpmode := p.fpmode &&& 0xFF, engerr := p.engerr &&& ~~~0xE0, ipend := p.ipend &&& 0x1F
    tvec := p.tvec &&& ~~~3, tcause := p.tcause &&& 0x3FF, tpc := p.tpc &&& ~~~3 }

/-- The pip that a migration packet carries (R49): registers that did not travel arrive empty, but with VL 0 every v
register is zero and full. -/
def Pip.unpack (bs : List Byte) : Pip :=
  let w := fun (o : Nat) => word (fieldAt bs o 8)
  let gm := fieldAt bs 0x18 4
  let vm := fieldAt bs 0x1C 2
  let status := w 0x08
  let gs := (List.range 32).filter (fun n => n != 0 && gm.testBit n)
  let vs := (List.range 16).filter (fun n => vm.testBit n)
  let p : Pip :=
    { pc := w 0, status := status, pipid := w 0x10, fpmode := w 0x28, refused := w 0x30, engerr := w 0x38, coord := w 0x40
      asid := BitVec.ofNat 16 (fieldAt bs 0x48 2), ipend := word (fieldAt bs 0x4A 2), launch := BitVec.ofNat 32 (fieldAt bs 0x4C 4)
      tvec := w 0x50, tcmp := w 0x58, tcause := w 0x60, tval := w 0x68, tpc := w 0x70, hsave := w 0x78, msg := w 0x80
      gFull := 1, vFull := if status.getLsbD 4 then 0 else BitVec.allOnes 16
      b := Vector.ofFn (fun (i : Fin 12) =>
        ⟨(fieldAt bs 0x20 2).testBit i.val, (fieldAt bs 0x1E 2).testBit i.val, w (0x88 + 8 * i.val)⟩) }
  let p := gs.zipIdx.foldl (fun (p : Pip) e => p.setG (BitVec.ofNat 5 e.1) (w (0xE8 + 8 * e.2))) p
  (vs.zipIdx.foldl (fun (p : Pip) e =>
    p.setV (BitVec.ofNat 4 e.1) (BitVec.ofNat 512 (fieldAt bs (0xE8 + 8 * gs.length + 64 * e.2) 64))) p).masked

/-- A migration packet carries this pip. -/
def carries (bs : List Byte) (launch : BitVec 32) (pipid : Word) : Bool :=
  fieldAt bs 0x10 8 == pipid.toNat && fieldAt bs 0x4C 4 == launch.toNat

/-- The pip that waits in an inbox, with what its pending traps will write to SR_TVAL. -/
def Migrant.pip (m : Migrant) : Pip :=
  { Pip.unpack m.bytes with messages := m.messages, refusedVal := m.refusedVal, engerrVal := m.engerrVal, rejectVal := m.rejectVal }

/-- A pip in an inbox changed. -/
def Migrant.change (m : Migrant) (f : Pip → Pip) : Migrant :=
  let p := f m.pip
  { m with bytes := p.pack, refusedVal := p.refusedVal, engerrVal := p.engerrVal, rejectVal := p.rejectVal }

/-- Change a pip wherever it is: in its slot, in a packet on its way, in an inbox (R48, R243: what is raised for a pip
in transit follows it). -/
def State.modPipid (s : State) (launch : BitVec 32) (pipid : Word) (f : Pip → Pip) : State :=
  let body := fun (bs : List Byte) => if carries bs launch pipid then (f (Pip.unpack bs)).pack else bs
  let packet := fun (q : Packet) => if q.kind = 0x05 then { q with body := body q.body } else q
  { s with
    pips := s.pips.map (fun e => if e.2.launch = launch ∧ e.2.pipid = pipid then (e.1, f e.2) else e)
    saved := s.saved.map (fun (x : Saved) => { x with
      pips := x.pips.map (fun e => if e.2.launch = launch ∧ e.2.pipid = pipid then (e.1, f e.2) else e) })
    clusters := s.clusters.map (fun c =>
      (c.1, { c.2 with inbox := c.2.inbox.map (fun m =>
        (m.1, if m.2.launch = launch ∧ m.2.pipid = pipid then m.2.change f else m.2)) }))
    net := { s.net with
      packets := s.net.packets.map (fun e => (e.1, packet e.2))
      outstanding := s.net.outstanding.map (fun o => { o with packet := packet o.packet }) } }

/-- Record an error in a pip's SR_ENGERR and make ENGINE_ERROR pending (R243). A record taken while V is 0 leaves OVF as it is,
since only a program clears it; and while the trap is pending SR_TVAL keeps the address of the first error (the spec settles
neither; the model's choices, log entry 55). -/
def Pip.engineError (p : Pip) (eng cause detail id : Nat) (addr : Word) : Pip :=
  let r := word (1 + 4 * eng + 2 ^ 8 * cause + 2 ^ 16 * (detail % 2 ^ 12) + 2 ^ 28 * (id % 2 ^ 36))
  let q := { p with engerr := if p.engerr.getLsbD 0 then p.engerr ||| 2 else r ||| (p.engerr &&& 2) }
  { (q.raise ipEngerr) with engerrVal := if p.pending ipEngerr then p.engerrVal else addr }

/-- A pip takes news. -/
def Pip.take (p : Pip) : PipNews → Pip
  | .error eng cause detail id addr => p.engineError eng cause detail id addr
  | .refusal addr => p.refuse addr

/-- A pip is in a slot and not on its way, in an inbox, in a packet that has not left the module, or saved. -/
def State.holdsPip (s : State) (launch : BitVec 32) (pipid : Word) : Bool :=
  let mine := fun (e : Nat × Pip) => e.2.launch == launch && e.2.pipid == pipid
  s.pips.any (fun e => mine e && e.2.cond != .inTransit) ||
  s.clusters.any (fun c => c.2.inbox.any (fun m => m.2.launch == launch && m.2.pipid == pipid)) ||
  s.net.packets.any (fun e => e.2.kind == 0x05 && carries e.2.body launch pipid) ||
  s.saved.any (fun x => x.pips.any mine)

/-- News reaches a pip wherever it is (R48, R89, R243): where it is on its way to another module, its origin slot keeps them until it is
known where the pip goes on; one that is not here any more gets them in its module. -/
def State.tellPip (s : State) (launch : BitVec 32) (pipid : Word) (x : PipNews) : State :=
  if s.holdsPip launch pipid then s.modPipid launch pipid (fun p => p.take x)
  else match s.pips.find? (fun e => e.2.launch == launch && e.2.pipid == pipid) with
    | some (k, p) => s.setPip k { (p.take x) with news := p.news ++ [x] }
    | none => if (s.launch launch).isSome then s.report (.passedOn launch pipid x) else s

/-- A refused access of an engine is treated as the issuing pip's (R89). -/
def State.refuseIssuer (s : State) (i : Issuer) (addr : Word) : State := s.tellPip i.launch i.pipid (.refusal addr)

end Sys2Proof.Machine
end

