-- ==== Sys2Proof/Machine/LaunchRec.lean ====
section
/-! DEFINITION. Launch records (R50 to R53, R57), coordinates (R53), and the entry of a launch into its queue (R298, R303). -/

namespace Sys2Proof.Machine

/-- A level entry (R51). -/
def Level.of (r : List Byte) (i : Nat) : Level :=
  let o := 0x40 + 16 * i
  { domain := fieldAt r o 1, extent := fieldAt r (o + 4) 4, origin := fieldAt r (o + 8) 4 }

/-- A launch record's fields (R50). -/
def LaunchRecord.of (r : List Byte) : LaunchRecord :=
  { levels := (List.range (fieldAt r 2 1)).map (Level.of r), prio := fieldAt r 3 1, flags := fieldAt r 4 2
    asid := BitVec.ofNat 16 (fieldAt r 6 2), entry := word (fieldAt r 8 8), args := word (fieldAt r 0x10 8)
    spres := fieldAt r 0x18 4, podBytes := fieldAt r 0x1C 4, podDesc := fieldAt r 0x20 2, pinQuota := fieldAt r 0x24 4
    doneAddr := word (fieldAt r 0x28 8), doneVal := word (fieldAt r 0x30 8) }

/-- Units of a domain in a module (R52). -/
def unitsOf : Nat → Nat
  | 0 => 4194304 | 1 => 262144 | 2 => 16384 | 3 => 256 | 4 => 64 | _ => 1

/-- A module launch has a fabric, module or die level (R298). -/
def LaunchRecord.isModule (r : LaunchRecord) : Bool := r.levels.any (fun l => decide (4 ≤ l.domain))

/-- The EXTENTs obey R52; `parent` is the domain of the enclosing level. -/
def extentsOk (dieLaunch : Bool) (ranks : Nat) : Option Nat → List Level → Bool
  | _, [] => true
  | parent, l :: ls =>
    let p := match parent with
      | some 6 => 5
      | some d => d
      | none => if dieLaunch then 4 else 5
    let limit := if l.domain = 6 then ranks else unitsOf l.domain / unitsOf p
    decide (1 ≤ l.extent) && decide (l.extent ≤ limit) && extentsOk dieLaunch ranks (some l.domain) ls

/-- The domains strictly decrease. -/
def decreasing : List Level → Bool
  | a :: b :: ls => decide (b.domain < a.domain) && decreasing (b :: ls)
  | _ => true

/-- The width of a level (R53). -/
def Level.width (l : Level) : Nat := bitLen (l.extent - 1)

/-- The record's zero fields are zero (R50, R51). -/
def recordZeros (r : List Byte) : Bool :=
  fieldAt r 0x22 2 == 0 && fieldAt r 0x38 8 == 0 && decide (fieldAt r 4 2 < 32) &&
  (List.range 8).all (fun i =>
    let o := 0x40 + 16 * i
    if i < fieldAt r 2 1 then fieldAt r (o + 1) 3 == 0 && fieldAt r (o + 12) 4 == 0 else fieldAt r o 16 == 0)

/-- Who submits: a pip in mode U with its launch's priority and ASID, or one that may do as mode S may; the greatest
priority open to it. -/
structure Submitter where
  user : Option (Nat × BitVec 16)
  topPrio : Nat
  deriving DecidableEq, Repr

/-- The first code of R57, 0x01 to 0x08, that applies; 0 when none does. -/
def launchCode (r : List Byte) (by_ : Submitter) (ranks : Nat) : Nat :=
  let x := LaunchRecord.of r
  let n := fieldAt r 2 1
  if fieldAt r 0 2 ≠ 1 ∨ n = 0 ∨ 8 < n ∨ !recordZeros r then 1
  else if x.levels.any (fun l => decide (6 < l.domain)) || !decreasing x.levels || (x.levels.getLast?.map Level.domain) != some 0 then 2
  else if !extentsOk (!x.isModule) ranks none x.levels then 3
  else if 64 < (x.levels.map Level.width).sum then 4
  else if x.spres % 16 ≠ 0 ∨ 4063232 < x.spres ∨ x.podBytes % 16 ≠ 0 ∨ x.spres < x.podBytes ∨ 256 < x.podDesc then 5
  else if by_.topPrio < x.prio || by_.user.any (fun u => decide (u.1 < x.prio)) then 6
  else if by_.user.any (fun u => x.flags.testBit 0 || x.asid != u.2) then 7
  else if x.entry.toNat % 4 ≠ 0 || !canonical x.entry then 8
  else 0

/-! ### Coordinates (R53) -/

/-- Coordinates packed, outermost first, the innermost in the lowest bits. -/
def packCoords (levels : List Level) (coords : List Nat) : Nat :=
  (levels.zip coords).foldl (fun acc e => acc * 2 ^ e.1.width + e.2) 0

/-- SR_PIPID: the mixed-radix index in which the innermost level varies fastest. -/
def pipIndex (levels : List Level) (coords : List Nat) : Nat :=
  (levels.zip coords).foldl (fun acc e => acc * e.1.extent + e.2) 0

/-- SR_EXTENT. -/
def LaunchRecord.extentWord (r : LaunchRecord) : Word := word (packCoords r.levels (r.levels.map (fun l => l.extent - 1)))

/-- SR_EXTENT of a launch. -/
def State.extentOf (s : State) (l : BitVec 32) : Word :=
  match s.launch l with
  | some x => x.record.extentWord
  | none => 0

/-! ### Queues (R298 to R300) -/

/-- The ranks of a job, and those that a fabric level takes (R303). -/
def State.ranksOf (s : State) (job : Nat) : List Nat :=
  ((s.jobOf job).ranks.filter (fun e => e.2.getLsbD 20)).map Prod.fst
def State.ranksTaken (s : State) (job : Nat) (l : Level) : List Nat :=
  let rs := s.ranksOf job
  let want := (List.range l.extent).map (l.origin + ·)
  if l.origin ≠ 0xFFFFFFFF ∧ want.all rs.contains then want else rs.take l.extent

/-- The other modules of a job (R290). -/
def State.otherModules (s : State) (job : Nat) : List Nat :=
  (((s.jobOf job).ranks.filter (fun e => e.2.getLsbD 20)).map (fun e => fieldOf e.2 0 20)).eraseDups.filter (· != s.host.modid.toNat)

/-- Entries of a controller in use for submissions of one kind (R298). -/
def State.entriesUsed (s : State) (die : Nat) (device : Bool) : Nat :=
  s.launches.countP (fun e => e.2.die == die && e.2.device == device && e.2.entryHeld && e.2.phase == .queued)

/-- The queuing controller of a record submitted at a die (R298). -/
def queuingDie (r : LaunchRecord) (die : Nat) : Nat := if r.isModule then 0 else die

/-- The launch that a submission makes on this module, with the ranks it awaits when this is its home. -/
def State.newLaunch (s : State) (id : BitVec 32) (job : Nat) (r : LaunchRecord) (device : Bool) (die home : Nat) : Launch :=
  let taken := match r.levels.head? with
    | some l => if l.domain = 6 then s.ranksTaken job l else [(s.jobOf job).ownRank]
    | none => []
  let coord := match r.levels.head? with
    | some l => if l.domain = 6 then taken.idxOf? (s.jobOf job).ownRank else some 0
    | none => some 0
  { id := id, job := job, record := r, device := device, die := queuingDie r die, prio := r.prio, entered := s.cycle,
    home := home, fabricCoord := coord, partsLeft := if home = s.host.modid.toNat then taken else []
    phase := if coord.isSome then .queued else .partDone, partOver := coord.isNone, entryHeld := coord.isSome }

/-- One more than the greatest MODID of the domain that the module knows: its own, those of its routing tables (R285) and those of its
jobs' rank tables (R290). -/
def State.idStride (s : State) : Nat :=
  let known := s.net.tables.flatMap (fun e => e.2.modules.map Prod.fst) ++
    s.jobs.flatMap (fun e => (e.2.ranks.filter (fun x => x.2.getLsbD 20)).map (fun x => fieldOf x.2 0 20))
  known.foldl max s.host.modid.toNat + 1

/-- The n-th identifier that this module may give: they leave the module's MODID as their remainder by the stride, so that no two
modules of a job give the same one (R56: unique in the job; which they are is the model's choice, log entry 8). -/
def State.idNumber (s : State) (n : Nat) : BitVec 32 :=
  BitVec.ofNat 32 (s.host.modid.toNat + s.idStride * (n % (2 ^ 32 / s.idStride)))

/-- The next of them that is nonzero and that no launch known here has. -/
def State.freeId (s : State) : BitVec 32 :=
  (((List.range (s.launches.length + 2)).map (fun i => s.idNumber (s.nextLaunch.toNat + i))).find? (fun id =>
    id != 0 && (s.launch id).isNone)).getD 0

/-- Queue a launch with an identifier of its own (R56); the identifier. -/
def State.submit (s : State) (job : Nat) (r : LaunchRecord) (device : Bool) (die : Nat) : State × BitVec 32 :=
  let id := s.freeId
  ({ s.setLaunch (s.newLaunch id job r device die s.host.modid.toNat) with nextLaunch := s.nextLaunch + 1 }, id)

/-- The home module of a launch sends its record to the other modules that it runs on (R303). -/
def State.deliver (s : State) (id : BitVec 32) : State :=
  match s.launch id with
  | some l => (l.partsLeft.filter (· != (s.jobOf l.job).ownRank)).foldl (fun s r => s.report (.recordSent id r)) s
  | none => s

end Sys2Proof.Machine
end

