-- ==== Sys2Proof/Machine/Alu.lean ====
section
/-! DEFINITION. The integer instructions of the pips (13 to 16: R334, R335, R341, R352, R353, R358, R362, R364, R368,
R388, R390, R401, R402, R417, R419, R422, R427, R448, R157, R163) and the compares CMP. -/

namespace Sys2Proof.Machine

/-! ### The operations on n-bit patterns -/

/-- Truncating signed division with the corners of R364. -/
def divS (n a b : Nat) : Nat :=
  if b = 0 then 2 ^ n - 1 else wrapInt (Int.tdiv (sextInt a n) (sextInt b n)) n

/-- Unsigned division with the corner of R364. -/
def divU (n a b : Nat) : Nat := if b = 0 then 2 ^ n - 1 else a / b

/-- The remainder a − q × b with the quotient of `divS` (R417). -/
def remS (n a b : Nat) : Nat :=
  if b = 0 then a else wrapInt (Int.tmod (sextInt a n) (sextInt b n)) n

/-- The remainder of unsigned division (R417). -/
def remU (_ a b : Nat) : Nat := if b = 0 then a else a % b

/-- Bits [2n − 1 : n] of the signed product (R402). -/
def mulhS (n a b : Nat) : Nat := wrapInt ((sextInt a n * sextInt b n) / (2 ^ n : Nat)) n

/-- Bits [2n − 1 : n] of the unsigned product (R402). -/
def mulhU (n a b : Nat) : Nat := a * b / 2 ^ n

/-- The smaller and the larger of two signed patterns (R390). -/
def minS (n a b : Nat) : Nat := if sextInt b n < sextInt a n then b else a
def maxS (n a b : Nat) : Nat := if sextInt a n < sextInt b n then b else a

/-- Shifts and rotation by the amount modulo n (R419). -/
def shlN (n a b : Nat) : Nat := a * 2 ^ (b % n) % 2 ^ n
def shrN (n a b : Nat) : Nat := a / 2 ^ (b % n)
def sraN (n a b : Nat) : Nat := wrapInt (sextInt a n / (2 ^ (b % n) : Nat)) n
def rotN (n a b : Nat) : Nat := a * 2 ^ (b % n) % 2 ^ n + a / 2 ^ (n - b % n)

/-- Zero bits above the most significant 1 bit, within n bits (R358). -/
def clzN (n a : Nat) : Nat := if a = 0 then n else n - 1 - Nat.log2 a

/-- Zero bits below the least significant 1 bit, within `n` bits (R362). -/
def ctzN : Nat → Nat → Nat
  | 0, _ => 0
  | n + 1, a => if a % 2 = 1 then 0 else 1 + ctzN n (a / 2)

/-- The number of 1 bits among the low `n` bits (R390). -/
def popN : Nat → Nat → Nat
  | 0, _ => 0
  | n + 1, a => a % 2 + popN n (a / 2)

/-! ### The shapes of an instruction -/

/-- Two registers (R334). -/
def aluR (i : Instr) (w y x : Bit) (b a d : Reg) (f : Nat → Nat → Nat → Nat) (s : State) :
    Host.Outcome State Fault Refusal :=
  runPure i (usesR x y a b d) s (fun p q => q.setG d (byWidth w f (p.gv a) (p.gv b)))

/-- A register and an immediate (R334, R162). -/
def aluI (i : Instr) (w x : Bit) (imm : BitVec 12) (a d : Reg) (f : Nat → Nat → Nat → Nat) (s : State) :
    Host.Outcome State Fault Refusal :=
  runPure i (usesA x a d) s (fun p q => q.setG d (byWidth w f (p.gv a) (imm12 imm)))

/-- An operation of the full-bit class whose result is known at issue (R30, R31). -/
def runResult (i : Instr) (u : Uses) (dest : Dest) (s : State) (f : Pip → VWord) : Host.Outcome State Fault Refusal :=
  runEntry i { u with fullBit := true } s (fun p q t =>
    .next (t.put (q.issue { id := 0, kind := .pure, dest := dest, born := s.cycle, phase := .done, result := f p })))

/-- Two registers, in the full-bit class (R364, R417). -/
def aluF (i : Instr) (w y x : Bit) (b a d : Reg) (f : Nat → Nat → Nat → Nat) (s : State) :
    Host.Outcome State Fault Refusal :=
  runResult i (usesR x y a b d) (.g d) s (fun p => (byWidth w f (p.gv a) (p.gv b)).setWidth 512)

/-! ### The instructions -/

/-- ADD (R335): wrap(a + b). -/
def execAdd (w y x : Bit) (b a d : Reg) (s : State) :
    Host.Outcome State Fault Refusal :=
  aluR (.add w y x b a d) w y x b a d (fun n a b => (a + b) % 2 ^ n) s

/-- SUB (R427): wrap(a − b). -/
def execSub (w y x : Bit) (b a d : Reg) (s : State) :
    Host.Outcome State Fault Refusal :=
  aluR (.sub w y x b a d) w y x b a d (fun n a b => (a + 2 ^ n - b) % 2 ^ n) s

/-- MUL (R401): the low half of the product. -/
def execMul (w y x : Bit) (b a d : Reg) (s : State) :
    Host.Outcome State Fault Refusal :=
  aluR (.mul w y x b a d) w y x b a d (fun n a b => a * b % 2 ^ n) s

/-- MULH (R402): the high half of the signed product. -/
def execMulh (w y x : Bit) (b a d : Reg) (s : State) :
    Host.Outcome State Fault Refusal :=
  aluR (.mulh w y x b a d) w y x b a d mulhS s

/-- MULH.z (R402): the high half of the unsigned product. -/
def execMulhZ (w y x : Bit) (b a d : Reg) (s : State) :
    Host.Outcome State Fault Refusal :=
  aluR (.mulhZ w y x b a d) w y x b a d mulhU s

/-- AND (R341). -/
def execAnd (w y x : Bit) (b a d : Reg) (s : State) :
    Host.Outcome State Fault Refusal :=
  aluR (.and w y x b a d) w y x b a d (fun _ a b => a &&& b) s

/-- OR (R390). -/
def execOr (w y x : Bit) (b a d : Reg) (s : State) :
    Host.Outcome State Fault Refusal :=
  aluR (.or w y x b a d) w y x b a d (fun _ a b => a ||| b) s

/-- XOR (R448). -/
def execXor (w y x : Bit) (b a d : Reg) (s : State) :
    Host.Outcome State Fault Refusal :=
  aluR (.xor w y x b a d) w y x b a d (fun _ a b => a ^^^ b) s

/-- SHL (R419). -/
def execShl (w y x : Bit) (b a d : Reg) (s : State) :
    Host.Outcome State Fault Refusal :=
  aluR (.shl w y x b a d) w y x b a d shlN s

/-- SHR (R419). -/
def execShr (w y x : Bit) (b a d : Reg) (s : State) :
    Host.Outcome State Fault Refusal :=
  aluR (.shr w y x b a d) w y x b a d shrN s

/-- SRA (R419). -/
def execSra (w y x : Bit) (b a d : Reg) (s : State) :
    Host.Outcome State Fault Refusal :=
  aluR (.sra w y x b a d) w y x b a d sraN s

/-- ROT (R419). -/
def execRot (w y x : Bit) (b a d : Reg) (s : State) :
    Host.Outcome State Fault Refusal :=
  aluR (.rot w y x b a d) w y x b a d rotN s

/-- MIN (R390). -/
def execMin (w y x : Bit) (b a d : Reg) (s : State) :
    Host.Outcome State Fault Refusal :=
  aluR (.min w y x b a d) w y x b a d minS s

/-- MIN.z (R390). -/
def execMinZ (w y x : Bit) (b a d : Reg) (s : State) :
    Host.Outcome State Fault Refusal :=
  aluR (.minZ w y x b a d) w y x b a d (fun _ a b => if b < a then b else a) s

/-- MAX (R390). -/
def execMax (w y x : Bit) (b a d : Reg) (s : State) :
    Host.Outcome State Fault Refusal :=
  aluR (.max w y x b a d) w y x b a d maxS s

/-- MAX.z (R390). -/
def execMaxZ (w y x : Bit) (b a d : Reg) (s : State) :
    Host.Outcome State Fault Refusal :=
  aluR (.maxZ w y x b a d) w y x b a d (fun _ a b => if a < b then b else a) s

/-- DIV (R364), in the full-bit class. -/
def execDiv (w y x : Bit) (b a d : Reg) (s : State) :
    Host.Outcome State Fault Refusal :=
  aluF (.div w y x b a d) w y x b a d divS s

/-- DIV.z (R364). -/
def execDivZ (w y x : Bit) (b a d : Reg) (s : State) :
    Host.Outcome State Fault Refusal :=
  aluF (.divZ w y x b a d) w y x b a d divU s

/-- REM (R417). -/
def execRem (w y x : Bit) (b a d : Reg) (s : State) :
    Host.Outcome State Fault Refusal :=
  aluF (.rem w y x b a d) w y x b a d remS s

/-- REM.z (R417). -/
def execRemZ (w y x : Bit) (b a d : Reg) (s : State) :
    Host.Outcome State Fault Refusal :=
  aluF (.remZ w y x b a d) w y x b a d remU s

/-- CLZ (R358). -/
def execClz (w x : Bit) (a d : Reg) (s : State) :
    Host.Outcome State Fault Refusal :=
  runPure (.clz w x a d) (usesA x a d) s
    (fun p q => q.setG d (byWidth w (fun n a _ => clzN n a) (p.gv a) 0))

/-- CTZ (R362). -/
def execCtz (w x : Bit) (a d : Reg) (s : State) :
    Host.Outcome State Fault Refusal :=
  runPure (.ctz w x a d) (usesA x a d) s
    (fun p q => q.setG d (byWidth w (fun n a _ => ctzN n a) (p.gv a) 0))

/-- POPC (R390). -/
def execPopc (w x : Bit) (a d : Reg) (s : State) :
    Host.Outcome State Fault Refusal :=
  runPure (.popc w x a d) (usesA x a d) s
    (fun p q => q.setG d (byWidth w (fun n a _ => popN n a) (p.gv a) 0))

/-- EXT (R368): kinds s8, s16, s32, z8, z16, z32. -/
def execExt (x : Bit) (k a d : Reg) (s : State) :
    Host.Outcome State Fault Refusal :=
  runPure (.ext x k a d) (usesA x a d) s (fun p q =>
    let n := 8 * 2 ^ (k.toNat % 3)
    q.setG d (if k.toNat < 3 then sextWord (p.gv a).toNat n else word (fieldOf (p.gv a) 0 n)))

/-- HASH (R157): reads its operands in full and narrows only its result. -/
def execHash (w y x : Bit) (b a d : Reg) (s : State) :
    Host.Outcome State Fault Refusal :=
  runPure (.hash w y x b a d) (usesR x y a b d) s (fun p q =>
    let h := hash64 (rotl64 (p.gv a) 17 ^^^ p.gv b)
    q.setG d (if w = 1 then sextWord h.toNat 32 else h))

/-- SEL (R422): parks on either register, whichever is chosen. -/
def execSel (w y x : Bit) (n : Reg4) (b a d : Reg) (s : State) :
    Host.Outcome State Fault Refusal :=
  runPure (.sel w y x n b a d) (usesR x y a b d) s (fun p q =>
    let v := if (p.steer n.toNat).c then p.gv a else p.gv b
    q.setG d (if w = 1 then sextWord v.toNat 32 else v))

/-- ADD.i (R335). -/
def execAddI (w x : Bit) (i : BitVec 12) (a d : Reg) (s : State) :
    Host.Outcome State Fault Refusal :=
  aluI (.addI w x i a d) w x i a d (fun n a b => (a + b) % 2 ^ n) s

/-- AND.i (R341). -/
def execAndI (w x : Bit) (i : BitVec 12) (a d : Reg) (s : State) :
    Host.Outcome State Fault Refusal :=
  aluI (.andI w x i a d) w x i a d (fun _ a b => a &&& b) s

/-- OR.i (R390). -/
def execOrI (w x : Bit) (i : BitVec 12) (a d : Reg) (s : State) :
    Host.Outcome State Fault Refusal :=
  aluI (.orI w x i a d) w x i a d (fun _ a b => a ||| b) s

/-- XOR.i (R448). -/
def execXorI (w x : Bit) (i : BitVec 12) (a d : Reg) (s : State) :
    Host.Outcome State Fault Refusal :=
  aluI (.xorI w x i a d) w x i a d (fun _ a b => a ^^^ b) s

/-- SHL.i (R419, R162). -/
def execShlI (w x : Bit) (i : BitVec 12) (a d : Reg) (s : State) :
    Host.Outcome State Fault Refusal :=
  aluI (.shlI w x i a d) w x i a d shlN s

/-- SHR.i (R419, R162). -/
def execShrI (w x : Bit) (i : BitVec 12) (a d : Reg) (s : State) :
    Host.Outcome State Fault Refusal :=
  aluI (.shrI w x i a d) w x i a d shrN s

/-- SRA.i (R419, R162). -/
def execSraI (w x : Bit) (i : BitVec 12) (a d : Reg) (s : State) :
    Host.Outcome State Fault Refusal :=
  aluI (.sraI w x i a d) w x i a d sraN s

/-- ROT.i (R419, R162). -/
def execRotI (w x : Bit) (i : BitVec 12) (a d : Reg) (s : State) :
    Host.Outcome State Fault Refusal :=
  aluI (.rotI w x i a d) w x i a d rotN s

/-- MUL.i (R401). -/
def execMulI (w x : Bit) (i : BitVec 12) (a d : Reg) (s : State) :
    Host.Outcome State Fault Refusal :=
  aluI (.mulI w x i a d) w x i a d (fun n a b => a * b % 2 ^ n) s

/-- BFX (R353): bits [pos + len − 1 : pos], with l = len − 1. -/
def execBfx (x : Bit) (l p : BitVec 6) (a d : Reg) (s : State) :
    Host.Outcome State Fault Refusal :=
  runPure (.bfx x l p a d) (usesA x a d) s
    (fun o q => q.setG d (word (fieldOf (o.gv a) p.toNat (l.toNat + 1))))

/-- BFI (R352): reads g[D] as a source. -/
def execBfi (x : Bit) (l p : BitVec 6) (a d : Reg) (s : State) :
    Host.Outcome State Fault Refusal :=
  runPure (.bfi x l p a d) { g := [a, d], gs := syncG x a, gd := [d] } s
    (fun o q => q.setG d (setField (o.gv d) p.toNat (l.toNat + 1) (o.gv a).toNat))

/-- LI (R163): sext(imm20, 20). -/
def execLi (i : BitVec 20) (d : Reg) (s : State) :
    Host.Outcome State Fault Refusal :=
  runPure (.li i d) { gd := [d] } s (fun _ q => q.setG d (i.signExtend 64))

/-- LIH (R388): replaces one halfword; reads g[D] as a source. -/
def execLih (h : BitVec 2) (i : BitVec 16) (d : Reg) (s : State) :
    Host.Outcome State Fault Refusal :=
  runPure (.lih h i d) { g := [d], gd := [d] } s
    (fun p q => q.setG d (setField (p.gv d) (16 * h.toNat) 16 i.toNat))

/-- CMP (R359): compares all 64 bits; reads without `.s`. -/
def execCmp (c : BitVec 3) (b a : Reg) (e : Reg4) (s : State) :
    Host.Outcome State Fault Refusal :=
  runPure (.cmp c b a e) { g := [a, b] } s (fun p q =>
    q.setSteer e.toNat { q.steer e.toNat with c := intCond 64 c.toNat (p.gv a).toNat (p.gv b).toNat })

/-- CMP with an immediate (R359): sign-extended before any comparison. -/
def execCmpI (c : BitVec 3) (i : BitVec 12) (a : Reg) (e : Reg4) (s : State) :
    Host.Outcome State Fault Refusal :=
  runPure (.cmpI c i a e) { g := [a] } s (fun p q =>
    q.setSteer e.toNat { q.steer e.toNat with c := intCond 64 c.toNat (p.gv a).toNat (imm12 i).toNat })

/-- NOP (R170): nothing but one issue slot. -/
def execNop (s : State) :
    Host.Outcome State Fault Refusal :=
  runPure .nop {} s (fun _ q => q)

end Sys2Proof.Machine
end

