-- ==== Sys2Proof/Machine/Float.lean ====
section
/-! DEFINITION. Scalar floating point (R369 to R376): the group of MAJ 0x18 and FFMA. -/

namespace Sys2Proof.Machine

/-- The scalar type that w selects: f32 for 1, f64 for 0 (R369). -/
def floatType (w : Bit) : FType := if w = 1 then .f32 else .f64

/-- An operand as a value, with f32 subnormals flushed under FTZ (R133, R369). -/
def Pip.operand (p : Pip) (t : FType) (x : Word) : Val := flushVal t p.ftz (decodeF t (x.toNat % 2 ^ t.width))

/-- A result as a register holds it: f32 sign-extended from bit 31 (R160, R369). -/
def scalarWord (t : FType) (x : Nat) : Word := if t = .f32 then sextWord x 32 else word x

/-- An operation of two operands that writes within 8 cycles. -/
def floatR (i : Instr) (w y x : Bit) (b a d : Reg) (f : Nat → Val → Val → Res) (s : State) :
    Host.Outcome State Fault Refusal :=
  runPure i (usesR x y a b d) s (fun p q =>
    let t := floatType w
    let (r, fl) := (f p.rm (p.operand t (p.gv a)) (p.operand t (p.gv b))).round t p.rm false p.ftz
    (q.setG d (scalarWord t r)).addFlags fl)

/-- An operation of the full-bit class: its flags are raised at issue (R29), its result is written later. -/
def floatF (i : Instr) (u : Uses) (w : Bit) (d : Reg) (s : State) (f : Pip → Res) : Host.Outcome State Fault Refusal :=
  runEntry i { u with fullBit := true } s (fun p q t =>
    let (r, fl) := (f p).round (floatType w) p.rm false p.ftz
    .next (t.put ((q.addFlags fl).issue { id := 0, kind := .pure, dest := .g d, born := s.cycle, phase := .done,
                                          result := (scalarWord (floatType w) r).setWidth 512 })))

/-- FADD (R369, R370). -/
def execFadd (w y x : Bit) (b a d : Reg) (s : State) : Host.Outcome State Fault Refusal :=
  floatR (.fadd w y x b a d) w y x b a d (fun m a b => addVal a b m) s

/-- FSUB (R369, R370). -/
def execFsub (w y x : Bit) (b a d : Reg) (s : State) : Host.Outcome State Fault Refusal :=
  floatR (.fsub w y x b a d) w y x b a d (fun m a b => addVal a b.negate m) s

/-- FMUL (R369, R370). -/
def execFmul (w y x : Bit) (b a d : Reg) (s : State) : Host.Outcome State Fault Refusal :=
  floatR (.fmul w y x b a d) w y x b a d (fun _ a b => mulVal a b) s

/-- FDIV (R369, R370). -/
def execFdiv (w y x : Bit) (b a d : Reg) (s : State) : Host.Outcome State Fault Refusal :=
  floatF (.fdiv w y x b a d) (usesR x y a b d) w d s (fun p =>
    divVal (p.operand (floatType w) (p.gv a)) (p.operand (floatType w) (p.gv b)))

/-- FSQRT (R369, R370). -/
def execFsqrt (w x : Bit) (a d : Reg) (s : State) : Host.Outcome State Fault Refusal :=
  floatF (.fsqrt w x a d) (usesA x a d) w d s (fun p => sqrtVal (p.operand (floatType w) (p.gv a)))

/-- An f32 subnormal's encoding as FTZ reads it: a zero of its sign (R133). -/
def flushBits (t : FType) (ftz : Bool) (x : Nat) : Nat :=
  if ftz && t == .f32 && x / 2 ^ 23 % 256 == 0 then x / 2 ^ 31 * 2 ^ 31 else x

/-- The order that FMIN and FMAX use: −0 below +0 (R376). -/
def lessF (t : FType) (x y : Nat) : Bool :=
  match compareVal (decodeF t x) (decodeF t y) with
  | .lt => true
  | .gt => false
  | .eq => decide (x / 2 ^ (t.width - 1) = 1 ∧ y / 2 ^ (t.width - 1) = 0)

/-- FMIN and FMAX on encodings (R376). -/
def minMaxF (t : FType) (ftz max : Bool) (x y : Nat) : Nat :=
  let x := flushBits t ftz x
  let y := flushBits t ftz y
  if decodeF t x = .nan then (if decodeF t y = .nan then t.nan else y)
  else if decodeF t y = .nan then x
  else if max then (if lessF t x y then y else x) else (if lessF t y x then y else x)

/-- FMIN and FMAX: no rounding, no flag. -/
def floatM (i : Instr) (w y x : Bit) (b a d : Reg) (max : Bool) (s : State) : Host.Outcome State Fault Refusal :=
  runPure i (usesR x y a b d) s (fun p q =>
    let t := floatType w
    q.setG d (scalarWord t (minMaxF t p.ftz max ((p.gv a).toNat % 2 ^ t.width) ((p.gv b).toNat % 2 ^ t.width))))

/-- FMIN (R376). -/
def execFmin (w y x : Bit) (b a d : Reg) (s : State) : Host.Outcome State Fault Refusal :=
  floatM (.fmin w y x b a d) w y x b a d false s

/-- FMAX (R376). -/
def execFmax (w y x : Bit) (b a d : Reg) (s : State) : Host.Outcome State Fault Refusal :=
  floatM (.fmax w y x b a d) w y x b a d true s

/-- A scalar type of FCVT: a floating-point type, or an integer type by signedness and width (R174). -/
inductive ScalarType where
  | flt (t : FType)
  | int (signed : Bool) (n : Nat)
  deriving DecidableEq, Repr

/-- The types that bits [19:17] name (R174). -/
def scalarType (t : BitVec 3) : ScalarType :=
  match t.toNat with
  | 0 => .flt .f64 | 1 => .flt .f32 | 2 => .flt .f16 | 3 => .flt .bf16
  | 4 => .int true 64 | 5 => .int true 32 | 6 => .int false 64 | _ => .int false 32

/-- A value of one type to another by RM (R135 to R137): the pattern of the target's width and the flags. -/
def convertScalar (src dst : ScalarType) (x rm : Nat) (sat ftz : Bool) : Nat × FFlags :=
  match src, dst with
  | .flt s, .flt t => convertF (flushVal s ftz (decodeF s (x % 2 ^ s.width))) t rm sat ftz
  | .flt s, .int g n => convertToInt (flushVal s ftz (decodeF s (x % 2 ^ s.width))) g n rm sat
  | .int g n, .flt t => convertFromInt (if g then sextInt x n else (x % 2 ^ n : Nat)) t rm sat
  | .int g n, .int h m => (wrapInt (satInt h m (if g then sextInt x n else (x % 2 ^ n : Nat))) m, {})

/-- A converted pattern as a register holds it (R372): 32-bit types sign-extended, narrower ones zero-extended. -/
def convertedWord (dst : ScalarType) (x : Nat) : Word :=
  match dst with
  | .flt .f32 => sextWord x 32
  | .int _ 32 => sextWord x 32
  | _ => word x

/-- FCVT (R372, R373): `r` is the direction, `s` saturate. -/
def execFcvt (w x s r : Bit) (t : BitVec 3) (a d : Reg) (st : State) : Host.Outcome State Fault Refusal :=
  runPure (.fcvt w x s r t a d) (usesA x a d) st (fun p q =>
    let here := ScalarType.flt (floatType w)
    let src := if r = 1 then scalarType t else here
    let dst := if r = 1 then here else scalarType t
    let (v, fl) := convertScalar src dst (p.gv a).toNat p.rm (s == 1) p.ftz
    (q.setG d (convertedWord dst v)).addFlags fl)

/-- FFMA (R375): a × b + c, rounded once. -/
def execFfma (w y x : Bit) (c b a d : Reg) (s : State) : Host.Outcome State Fault Refusal :=
  runPure (.ffma w y x c b a d) { g := [a, b, c], gs := syncG x a ++ syncG y b, gd := [d] } s (fun p q =>
    let t := floatType w
    let v := fun (r : Reg) => p.operand t (p.gv r)
    let (r, fl) := (fmaVal (v a) (v b) (v c) p.rm).round t p.rm false p.ftz
    (q.setG d (scalarWord t r)).addFlags fl)

end Sys2Proof.Machine
end

