-- ==== Sys2Proof/Machine/Place.lean ====
section
/-! DEFINITION. The context on which an access from outside a cluster is served (R73), barriers updated there (R119, R120,
R348), and the bank positions of the engine class (R77, R78). -/

namespace Sys2Proof.Machine

/-- A resident context, or a saved image by its place in `saved` (R73). -/
inductive Place where
  | live (cl : Nat)
  | kept (i cl : Nat)
  deriving DecidableEq, Repr

/-- The context of a job on a cluster: the resident one, or the one saved most recently (R73). -/
def State.place (s : State) (job cl : Nat) : Option Place :=
  if (s.cluster cl).launch.map s.jobOfLaunch = some job then some (.live cl)
  else
    let better := fun (b : Option (Int × Nat)) (e : Saved × Nat) =>
      if e.1.job = job ∧ (mget e.1.clusters cl).isSome then
        match b with
        | some (t, _) => if t ≤ e.1.savedAt then some (e.1.savedAt, e.2) else b
        | none => some (e.1.savedAt, e.2)
      else b
    (s.saved.zipIdx.foldl better none).map (fun x => .kept x.2 cl)

/-- The cluster image of a place. -/
def State.placed (s : State) : Place → Cluster
  | .live cl => s.cluster cl
  | .kept i cl => ((s.saved[i]?).bind (fun x => mget x.clusters cl)).getD {}

/-- The state with the cluster image of a place replaced. -/
def State.setPlaced (s : State) (p : Place) (c : Cluster) : State :=
  match p with
  | .live cl => s.setCluster cl c
  | .kept i cl =>
    { s with saved := s.saved.zipIdx.map (fun e => if e.2 = i then { e.1 with clusters := mset e.1.clusters cl c } else e.1) }

/-- The job of a place. -/
def State.placeJob (s : State) : Place → Nat
  | .live cl => (s.cluster cl).launch.elim 0 s.jobOfLaunch
  | .kept i _ => (s.saved[i]?).elim 0 Saved.job

/-- Write a barrier at a place; waiting BARWs that found another phase are released (R348, R350). -/
def State.putBarrier (s : State) (p : Place) (off : Nat) (b : Barrier) : State :=
  match p with
  | .live cl => s.updateBarrier cl off b
  | .kept _ cl =>
    let job := s.placeJob p
    let ended := fun (e : Nat × Packet) =>
      match e.2.work with
      | .barrierHeld x =>
        if e.2.dst = s.clusterAddr cl ∧ e.2.job = job ∧ offsetOf e.2.addr = off ∧ x ≠ b.phase then
          (e.1, { e.2 with work := .barrierDone b.phase })
        else e
      | _ => e
    let s := s.setPlaced p ((s.placed p).setBarrier off b)
    { s with net := { s.net with packets := s.net.packets.map ended } }

/-- Where a barrier of a job in a cluster lies, unless the cluster refuses the update (R232, R347): no context of the
job, outside the plain region, or CHECK set. -/
def State.barrierPlace (s : State) (job cl : Nat) (a : Word) : Option Place :=
  match s.place job cl with
  | none => none
  | some p => if (s.placed p).inPlain (offsetOf a) 16 && !checkOf a then some p else none

/-- Add a command's bytes (R120): the code of R232 when the addition fails. -/
def State.barrierAdd (s : State) (job cl : Nat) (a : Word) (n : Nat) : Except Nat State :=
  match s.barrierPlace job cl a with
  | none => .error 2
  | some p =>
    match ((s.placed p).barrier (offsetOf a)).addBytes n with
    | none => .error 4
    | some b => .ok (s.putBarrier p (offsetOf a) b)

/-- Change a barrier that is there. Where its cluster would refuse the update, as it may the arrival of a command with a zero extent,
whose BAR no addition has tested (R233), nothing changes and no refusal is recorded (the model's choice, log entry 58). -/
def State.barrierChange (s : State) (job cl : Nat) (a : Word) (f : Barrier → Barrier) : State :=
  match s.barrierPlace job cl a with
  | none => s
  | some p => s.putBarrier p (offsetOf a) (f ((s.placed p).barrier (offsetOf a)))

/-- Add bytes to the barrier of each target in turn; when one fails, the additions made are taken back (R235). -/
def State.barrierAddAll (s : State) (job : Nat) (a : Word) (n : Nat) : List Nat → Except Nat State
  | [] => .ok s
  | cl :: cls =>
    match s.barrierAdd job cl a n with
    | .error c => .error c
    | .ok t => t.barrierAddAll job a n cls

/-- A seal may have its slot in a bank of the cluster in this cycle: it precedes other engine traffic (R78). -/
def State.sealFirst (s : State) (cl b : Nat) : Bool := (s.cluster cl).seals.any (fun x => s.sealReady cl x b)

/-- A pip of the cluster has an access ready for the bank. -/
def State.pipWaits (s : State) (cl b : Nat) : Bool :=
  s.pips.any (fun e => e.1 / 256 == cl && e.2.ops.any (fun o => o.kind.bank? == some b && s.nearWaiting e.1 e.2 o))

/-- The bank may serve the engine class in this cycle: an engine position that no seal takes, once every core of the cluster
has issued, so that a SEAL of this cycle has its seal slot first (R91), or a pip position that no pip has a use for (R77, R78). -/
def State.engineSlot (s : State) (cl b : Nat) : Bool :=
  (s.cluster cl).bankFree s.cycle b && match slotClass s.cycle b with
    | .engine => !s.sealFirst cl b && (s.issuesLeft cl).isEmpty
    | .pip => !s.pipWaits cl b
    | _ => false

/-- The bank slot is given, at a resident context; firmware serves a saved image without one (R73). -/
def State.giveSlot (s : State) (p : Place) (b : Nat) : State :=
  match p with
  | .live cl => s.setCluster cl ((s.cluster cl).useBank s.cycle b)
  | .kept _ _ => s

/-- Every bank line that an access touches can serve the engine class now. -/
def State.slotsFor (s : State) (p : Place) (off n : Nat) : Bool :=
  match p with
  | .live cl => (List.range ((off + n - 1) / 64 - off / 64 + 1)).all (fun i => s.engineSlot cl (bankOf (off / 64 * 64 + 64 * i)))
  | .kept _ _ => true

/-- The slots of every bank line that an access touches are given. -/
def State.giveSlots (s : State) (p : Place) (off n : Nat) : State :=
  (List.range ((off + n - 1) / 64 - off / 64 + 1)).foldl (fun (s : State) i => s.giveSlot p (bankOf (off / 64 * 64 + 64 * i))) s

/-- A write from outside at a place (R79, R88): the refusal, or the state with the bytes written and, with set-full, the
touched granules FULL, of an engine's write only those it covers whole. A refused write marks a sealed pod (R89). -/
def State.writePlaced (s : State) (p : Place) (a : Word) (bs : List Byte) (setFull engine : Bool) : State × Option Nat :=
  let c := s.placed p
  let off := offsetOf a
  if c.spres < off + bs.length then (s, some refRange)
  else match c.refusalInSlot a off bs.length setFull with
    | some (r, g) => (s.setPlaced p (c.markRefused g), some r)
    | none =>
      let c := c.write off bs
      let gs := if engine then wholeGranules off bs.length else granulesOf off bs.length
      (s.setPlaced p (if setFull then c.fill gs else c), none)

/-- A read from outside at a place (R88): the bytes, or the refusal. -/
def State.readPlaced (s : State) (p : Place) (a : Word) (n : Nat) : Except Nat (List Byte) :=
  let c := s.placed p
  if c.spres < offsetOf a + n then .error refRange
  else if c.staleLoad a (offsetOf a) n then .error refStale
  else .ok (c.read (offsetOf a) n)

end Sys2Proof.Machine
end

