-- ==== Sys2Proof/Machine/Box.lean ====
section
/-! DEFINITION. The records of the copy family and of MERGE (R229 to R241, R379): their fields, their checks, and the order in
which a command reads and writes. A piece is a run of destination elements within one 16-byte granule (R101, R234). -/

namespace Sys2Proof.Machine

/-- A copy-family record (R229). Strides are in bytes, of dimensions 1 to 4. -/
structure Box where
  src : Word
  dst : Word
  bar : Word
  aux : Word
  ext : List Nat
  handle : BitVec 16
  sstr : List Int
  dstr : List Int
  mode : Nat
  esz : Nat
  conv : Nat
  deriving DecidableEq, Repr

/-- Four strides of a record, in units of 2^(4 + sh) bytes. -/
def stridesAt (r : List Byte) (off sh : Nat) : List Int :=
  (List.range 4).map (fun d => sextInt (fieldAt r (off + 2 * d) 2) 16 * (2 ^ (4 + sh) : Nat))

/-- The record's fields (R229). -/
def Box.of (r : List Byte) : Box :=
  { src := word (fieldAt r 0 8), dst := word (fieldAt r 8 8), bar := word (fieldAt r 0x10 8), aux := word (fieldAt r 0x18 8)
    ext := (List.range 5).map (fun d => fieldAt r (0x20 + 2 * d) 2)
    handle := BitVec.ofNat 16 (fieldAt r 0x2A 2)
    sstr := stridesAt r 0x2C (fieldAt r 0x3F 1 % 16), dstr := stridesAt r 0x34 (fieldAt r 0x3F 1 / 16)
    mode := fieldAt r 0x3C 1, esz := fieldAt r 0x3D 1, conv := fieldAt r 0x3E 1 }

def Box.ssp (b : Box) : Bool := b.mode.testBit 0
def Box.dsp (b : Box) : Bool := b.mode.testBit 1
def Box.asp (b : Box) : Bool := b.mode.testBit 2
def Box.sf (b : Box) : Bool := b.mode.testBit 3
def Box.cv (b : Box) : Bool := b.mode.testBit 4
def Box.sat (b : Box) : Bool := b.mode.testBit 5
def Box.sealing (b : Box) : Bool := b.mode.testBit 6
def Box.extent (b : Box) (d : Nat) : Nat := b.ext.getD d 0

/-- The type of a code of R169, 0 to 12. -/
def typeOf (code : Nat) : Option ScalarType :=
  match code with
  | 0 => some (.flt .f32) | 1 => some (.flt .f16) | 2 => some (.flt .bf16)
  | 3 => some (.int true 32) | 4 => some (.int true 16) | 5 => some (.int true 8)
  | 6 => some (.int false 32) | 7 => some (.int false 16) | 8 => some (.int false 8)
  | 9 => some (.int true 64) | 10 => some (.int false 64)
  | 11 => some (.flt .e4m3) | 12 => some (.flt .e5m2) | _ => none

/-- The bytes of a type. -/
def ScalarType.bytes : ScalarType → Nat
  | .flt t => t.width / 8
  | .int _ n => n / 8

/-- The source and destination types of a converting record. -/
def Box.types (b : Box) : Option (ScalarType × ScalarType) :=
  match typeOf (b.conv % 16), typeOf (b.conv / 16) with
  | some s, some d => some (s, d)
  | _, _ => none

/-- The element sizes (R230). -/
def Box.se (b : Box) : Nat := 2 ^ (b.esz % 8)
def Box.de (b : Box) : Nat := if b.cv then b.types.elim 1 (fun t => t.2.bytes) else b.se

/-- A value of the engines' conversion (R231): always to nearest, nothing flushed; between integers wrapped without SAT. -/
def convertEngine (s d : ScalarType) (x : Nat) (sat : Bool) : Nat :=
  match s, d, sat with
  | .int g n, .int _ m, false => wrapInt (if g then sextInt x n else (x % 2 ^ n : Nat)) m
  | s, d, sat => (convertScalar s d x 0 sat false).1

/-- The destination bytes of an element's source bytes. -/
def Box.convert (b : Box) (bs : List Byte) : List Byte :=
  match b.cv, b.types with
  | true, some (s, d) => natBytes d.bytes (convertEngine s d (leNat bs) b.sat)
  | _, _ => bs

/-- The conversion of a record is allowed (R231). -/
def Box.convOk (b : Box) : Bool :=
  if b.cv then
    match b.types with
    | some (s, d) => s != d && s.bytes == b.se && decide (b.esz ≤ 3) && (!b.sat || match d with
        | .int _ _ => true
        | .flt t => t == .e4m3)
    | none => false
  else b.conv == 0 && !b.sat

/-- An address stepped within OFFSET, or within bits [55:0] (R230). -/
def stepAddr (loc : Bool) (a : Word) (k : Int) : Word :=
  if loc then setField a 0 22 (((offsetOf a : Int) + k) % (2 ^ 22 : Nat)).toNat
  else setField a 0 56 (((a.toNat % 2 ^ 56 : Nat) : Int) + k |>.emod (2 ^ 56 : Nat)).toNat

/-- The rows of dimensions 1 to 4, and the coordinates of a row. -/
def Box.rows (b : Box) : Nat := b.extent 1 * b.extent 2 * b.extent 3 * b.extent 4
def Box.coords (b : Box) (r : Nat) : List Nat :=
  [r % b.extent 1, r / b.extent 1 % b.extent 2, r / b.extent 1 / b.extent 2 % b.extent 3,
   r / b.extent 1 / b.extent 2 / b.extent 3]

/-- The displacement of a row under some strides. -/
def rowDelta (strides : List Int) (coords : List Nat) : Int := ((strides.zip coords).map (fun e => e.1 * (e.2 : Int))).sum

/-- The lowest and the highest displacement of the bytes of a box, `n` bytes along dimension 0. -/
def boxSpan (strides : List Int) (ext : List Nat) (n : Nat) : Int × Int :=
  let ends := (strides.zip ext).map (fun e => e.1 * ((e.2 : Int) - 1))
  ((ends.map (fun k => min k 0)).sum, (ends.map (fun k => max k 0)).sum + n - 1)

/-- Displacements from a local address stay within the launch's range (R73, R232). -/
def spanOk (spres : Nat) (a : Word) (span : Int × Int) : Bool :=
  decide (0 ≤ (offsetOf a : Int) + span.1) && decide ((offsetOf a : Int) + span.2 < (min spres 0x3E0000 : Nat))

/-! ### The SPR header (R237) -/

/-- An SPR header with the slices that a command processes: H, NSL, COLS, VALS, and (OFF, W) of each slice. -/
structure Spr where
  rows : Nat
  h : Nat
  nsl : Nat
  cols : Nat
  vals : Nat
  slices : List (Nat × Nat)
  deriving DecidableEq, Repr

/-- The bytes, if every one was read. -/
def allRead (bs : List (Option Byte)) : Option (List Byte) :=
  if bs.all Option.isSome then some (bs.map (fun b => b.getD 0)) else none

/-- FIRST of an SPR command (R238): SSTR1 and SSTR2. -/
def sprFirst (r : List Byte) : Nat := fieldAt r 0x2C 4

/-- The header and the table entries of the slices (R237). -/
def Spr.of (bs : List Byte) : Spr :=
  { rows := fieldAt bs 0 4, h := 4 * 2 ^ (fieldAt bs 4 1 % 4), nsl := fieldAt bs 8 4, cols := fieldAt bs 0x10 8,
    vals := fieldAt bs 0x18 8
    slices := (List.range ((bs.length - 32) / 8)).map (fun i => (fieldAt bs (32 + 8 * i) 4, fieldAt bs (36 + 8 * i) 2)) }

/-- The header obeys R237 and holds the slices asked for (R238). -/
def sprOk (bs : List Byte) (first count : Nat) : Bool :=
  let p := Spr.of bs
  decide (1 ≤ p.rows) && decide (fieldAt bs 4 1 ≤ 3) && fieldAt bs 5 3 == 0 && fieldAt bs 12 4 == 0 &&
    p.nsl == (p.rows + p.h - 1) / p.h && decide (first + count ≤ p.nsl)

/-- The entries of the slice table that were read obey R237. -/
def sprTableOk (bs : List Byte) (count : Nat) : Bool := (List.range count).all (fun i => fieldAt bs (38 + 8 * i) 2 == 0)

/-- e0, and the entries from it to the end of the last slice (R379). -/
def Spr.e0 (p : Spr) : Nat := (p.slices.head?.map Prod.fst).getD 0
def Spr.count (p : Spr) : Nat := match p.slices.getLast? with
  | some (off, w) => off + w * p.h - p.e0
  | none => 0

/-- The row of an entry, by the slice that holds it. -/
def Spr.row (p : Spr) (first e : Nat) : Option Nat :=
  (p.slices.zipIdx.find? (fun x => decide (x.1.1 ≤ e) && decide (e < x.1.1 + x.1.2 * p.h))).map
    (fun x => (first + x.2) * p.h + (e - x.1.1) % p.h)

/-! ### What a command reads and writes -/

/-- An access of an engine: in local space or global, from an address, so many bytes. -/
structure Access where
  loc : Bool
  addr : Word
  n : Nat
  deriving DecidableEq, Repr

/-- Take `n` bytes of what has been read, or name the access that is still needed. -/
def takeRead (loc : Bool) (a : Word) (n : Nat) (have_ : List (Option Byte)) :
    Except Access (List (Option Byte) × List (Option Byte)) :=
  if have_.length < n then .error ⟨loc, stepAddr loc a have_.length, n - have_.length⟩
  else .ok (have_.take n, have_.drop n)

/-- Pieces of a row of `n` bytes whose first byte lies at `a`: runs within 16-byte granules. -/
def rowPieces (a : Word) (n : Nat) : Nat := if n = 0 then 0 else (a.toNat % 16 + n + 15) / 16

/-- Where piece k of such a row begins and ends, as displacements from the row's first byte. -/
def pieceSpan (a : Word) (n k : Nat) : Nat × Nat := (16 * k - a.toNat % 16, min n (16 * (k + 1) - a.toNat % 16))

/-- The bytes along dimension 0 at the destination. -/
def Box.rowBytes (b : Box) : Nat := b.extent 0 * b.de

/-- The command moves nothing (R120, R233, R379). A list command has the two dimensions that R236 steps through, an SPR
command the one of R238 (log entry 15). -/
def Box.zero (b : Box) (kind : CmdKind) : Bool :=
  match kind with
  | .gatherSpr | .scatterSpr => b.extent 0 == 0
  | .gatherList | .scatterList => b.extent 0 == 0 || b.extent 1 == 0
  | _ => b.ext.any (· == 0)

/-- The destination bytes of a command (R232, R379). -/
def Box.total (b : Box) (kind : CmdKind) (p : Spr) : Nat :=
  if b.zero kind then 0
  else match kind with
    | .gatherSpr | .scatterSpr => p.count * b.de
    | .gatherList | .scatterList => b.extent 1 * b.extent 0 * b.de
    | _ => b.rows * b.rowBytes

/-- The pieces of a command. -/
def Box.pieces (b : Box) (kind : CmdKind) (p : Spr) : Nat :=
  if b.zero kind then 0
  else match kind with
    | .gatherSpr => rowPieces b.dst (p.count * b.de)
    | .scatterSpr => p.count
    | .gatherList | .scatterList => b.extent 1 * rowPieces b.dst b.rowBytes
    | _ => b.rows * rowPieces b.dst b.rowBytes

/-- The row and the span of a piece of a COPY, MCAST or list command. -/
def Box.piece (b : Box) (k : Nat) : Nat × Nat × Nat :=
  let n := rowPieces b.dst b.rowBytes
  let (lo, hi) := pieceSpan b.dst b.rowBytes (k % n)
  (k / n, lo, hi)

/-- The bytes that a piece stands for (R120). -/
def Box.pieceBytes (b : Box) (kind : CmdKind) (p : Spr) (k : Nat) : Nat :=
  match kind with
  | .scatterSpr => b.de
  | .gatherSpr => let (lo, hi) := pieceSpan b.dst (p.count * b.de) k
    hi - lo
  | _ => let (_, lo, hi) := b.piece k
    hi - lo

/-- Elements of `de` bytes written from an address on, as runs of bytes: an element with a skipped read is left out
(R242). -/
def elementRuns (loc : Bool) (a : Word) (de : Nat) (es : List (Option (List Byte))) : List (Word × List Byte) :=
  let step := fun (x : List (Word × List Byte) × Nat × Bool) (e : Option (List Byte)) =>
    match e with
    | none => (x.1, x.2.1 + de, false)
    | some bs =>
      if x.2.2 then (x.1.dropLast ++ (x.1.getLast?.map (fun r => (r.1, r.2 ++ bs))).toList, x.2.1 + de, true)
      else (x.1 ++ [(stepAddr loc a x.2.1, bs)], x.2.1 + de, true)
  (es.foldl step ([], 0, false)).1

/-- The bytes of a source element as they stand when its turn in box order comes: earlier elements of the piece may
have overwritten them (R230). -/
def overlay (cells : List (Nat × Byte)) (a : Nat) (bs : List (Option Byte)) : List (Option Byte) :=
  bs.zipIdx.map (fun e => match cells.reverse.find? (fun c => c.1 == a + e.2) with
    | some c => some c.2
    | none => e.1)

/-- An address as a number within its space. -/
def placeOf (loc : Bool) (a : Word) : Nat := if loc then offsetOf a else a.toNat % 2 ^ 56

/-- The elements of a run whose source bytes have all been read, in order; with `same`, an element's source may lie
in what the run itself writes. -/
def Box.elements (b : Box) (same : Bool) (src dst : Word) : Nat → List (Option Byte) → List (Nat × Byte) → Nat →
    List (Option (List Byte))
  | 0, _, _, _ => []
  | n + 1, raw, cells, i =>
    let bs := raw.take b.se
    let bs := if same then overlay cells (placeOf b.ssp src + i * b.se) bs else bs
    let out := (allRead bs).map b.convert
    let at_ := placeOf b.dsp dst + i * b.de
    let cells := match out with
      | some cs => if same then cells ++ cs.zipIdx.map (fun e => (at_ + e.2, e.1)) else cells
      | none => cells
    out :: b.elements same src dst n (raw.drop b.se) cells (i + 1)

/-- The index of row j of a list command: read at acceptance, or with the piece when that read failed (R379, R242). -/
def indexOf (side : List (Option Byte)) (b : Box) (j : Nat) (have_ : List (Option Byte)) :
    Except Access (Option Nat × List (Option Byte)) :=
  match allRead ((side.drop (4 * j)).take 4) with
  | some bs => .ok (some (leNat bs), have_)
  | none =>
    match takeRead b.asp (stepAddr b.asp b.aux (4 * j)) 4 have_ with
    | .error a => .error a
    | .ok (bs, rest) => .ok ((allRead bs).map leNat, rest)

/-- The sentinel index (R236, R237). -/
def sentinel : Nat := 0xFFFFFFFF

/-- The bytes of an element as it is written at an address, after the cells that are to be written. -/
def writeOver (cells : List (Nat × Byte)) (at_ : Nat) (out : Option (List Byte)) : List (Nat × Byte) :=
  cells ++ (out.elim [] (fun cs => cs.zipIdx.map (fun e => (at_ + e.2, e.1))))

/-- The elements of GATHER.spr from entry `e` on, in ascending order (R238): each reads its column index and then its source
element, as the elements before it in the piece leave them when they lie in what is written. -/
def Box.sprElements (b : Box) (p : Spr) (first : Nat) (same sameAux : Bool) :
    Nat → Nat → List (Nat × Byte) → List (Option Byte) → Except Access (List (Option (List Byte)))
  | 0, _, _, _ => .ok []
  | n + 1, e, cells, raw =>
    let at_ := placeOf b.dsp (stepAddr b.dsp b.dst ((e - p.e0) * b.de : Nat))
    match p.row first e with
    | none => (b.sprElements p first same sameAux n (e + 1) cells raw).map (none :: ·)
    | some _ =>
      let col := stepAddr b.asp b.aux (p.cols + 4 * e)
      match takeRead b.asp col 4 raw with
      | .error a => .error a
      | .ok (cb, raw) =>
        match allRead (if sameAux then overlay cells (placeOf b.asp col) cb else cb) with
        | none => (b.sprElements p first same sameAux n (e + 1) cells raw).map (none :: ·)
        | some cb =>
          if leNat cb = sentinel then
            let out := List.replicate b.de 0
            (b.sprElements p first same sameAux n (e + 1) (writeOver cells at_ (some out)) raw).map (some out :: ·)
          else
            let src := stepAddr b.ssp b.src (leNat cb * b.se)
            match takeRead b.ssp src b.se raw with
            | .error a => .error a
            | .ok (bs, raw) =>
              let out := (allRead (if same then overlay cells (placeOf b.ssp src) bs else bs)).map b.convert
              (b.sprElements p first same sameAux n (e + 1) (writeOver cells at_ out) raw).map (out :: ·)

/-- A piece of a copy-family command: the access it still needs, or the runs that it writes (R230, R236, R238). -/
def Box.script (b : Box) (kind : CmdKind) (first : Nat) (side : List (Option Byte)) (same sameAux : Bool) (k : Nat)
    (have_ : List (Option Byte)) : Except Access (List (Word × List Byte)) :=
  match kind with
  | .gatherList =>
    let (j, lo, hi) := b.piece k
    let dst := stepAddr b.dsp b.dst ((j : Int) * b.dstr.getD 0 0 + lo)
    match indexOf side b j have_ with
    | .error a => .error a
    | .ok (none, _) => .ok []
    | .ok (some x, raw) =>
      if x = sentinel then .ok [(dst, List.replicate (hi - lo) 0)]
      else
        let src := stepAddr b.ssp b.src ((x : Int) * b.sstr.getD 0 0 + lo / b.de * b.se)
        let n := (hi - lo) / b.de
        (takeRead b.ssp src (n * b.se) raw).map (fun r => elementRuns b.dsp dst b.de (b.elements same src dst n r.1 [] 0))
  | .scatterList =>
    let (j, lo, hi) := b.piece k
    match indexOf side b j have_ with
    | .error a => .error a
    | .ok (none, _) => .ok []
    | .ok (some x, raw) =>
      if x = sentinel then .ok []
      else
        let src := stepAddr b.ssp b.src ((j : Int) * b.sstr.getD 0 0 + lo / b.de * b.se)
        let dst := stepAddr b.dsp b.dst ((x : Int) * b.dstr.getD 0 0 + lo)
        let n := (hi - lo) / b.de
        (takeRead b.ssp src (n * b.se) raw).map (fun r => elementRuns b.dsp dst b.de (b.elements same src dst n r.1 [] 0))
  | .gatherSpr =>
    let p := Spr.of ((allRead side).getD [])
    let (lo, hi) := pieceSpan b.dst (p.count * b.de) k
    (b.sprElements p first same sameAux ((hi - lo) / b.de) (p.e0 + lo / b.de) [] have_).map (elementRuns b.dsp (stepAddr b.dsp b.dst lo) b.de)
  | .scatterSpr =>
    let p := Spr.of ((allRead side).getD [])
    let e := p.e0 + k
    match p.row first e with
    | none => .ok []
    | some row =>
      match takeRead b.asp (stepAddr b.asp b.aux (p.cols + 4 * e)) 4 have_ with
      | .error a => .error a
      | .ok (cb, raw) =>
        match allRead cb with
        | none => .ok []
        | some cb =>
          if leNat cb = sentinel then .ok []
          else
            (takeRead b.asp (stepAddr b.asp b.aux (p.vals + e * b.se)) b.se raw).map (fun r =>
              elementRuns b.dsp (stepAddr b.dsp b.dst ((row : Int) * b.dstr.getD 0 0 + leNat cb * b.de)) b.de
                [(allRead r.1).map b.convert])
  | _ =>
    let (r, lo, hi) := b.piece k
    let src := stepAddr b.ssp b.src (rowDelta b.sstr (b.coords r) + lo / b.de * b.se)
    let dst := stepAddr b.dsp b.dst (rowDelta b.dstr (b.coords r) + lo)
    let n := (hi - lo) / b.de
    (takeRead b.ssp src (n * b.se) have_).map (fun x => elementRuns b.dsp dst b.de (b.elements same src dst n x.1 [] 0))

/-- The source and destination ranges of a piece of a COPY or MCAST, as numbers within their spaces. -/
def Box.ranges (b : Box) (k : Nat) : (Nat × Nat) × (Nat × Nat) :=
  let (r, lo, hi) := b.piece k
  let src := placeOf b.ssp (stepAddr b.ssp b.src (rowDelta b.sstr (b.coords r) + lo / b.de * b.se))
  let dst := placeOf b.dsp (stepAddr b.dsp b.dst (rowDelta b.dstr (b.coords r) + lo))
  ((src, src + (hi - lo) / b.de * b.se), (dst, dst + (hi - lo)))

/-- Two ranges meet. -/
def meets (x y : Nat × Nat) : Bool := decide (x.1 < y.2) && decide (y.1 < x.2)

/-- Pieces of a COPY or MCAST that must be performed in box order (R230). -/
def Box.conflict (b : Box) (same : Bool) (m n : Nat) : Bool :=
  let (sm, dm) := b.ranges m
  let (sn, dn) := b.ranges n
  meets dm dn || (same && (meets dm sn || meets sm dn))

/-! ### Checks (R232, R379) -/

/-- The bytes read at acceptance: the list, or the header and the table entries of the slices (R379). -/
def sideLength (kind : CmdKind) (b : Box) : Nat :=
  if b.zero kind then 0
  else match kind with
    | .gatherList | .scatterList => 4 * b.extent 1
    | .gatherSpr | .scatterSpr => 32 + 8 * b.extent 0
    | _ => 0

/-- Where byte k of them lies. -/
def sideAddr (kind : CmdKind) (b : Box) (first k : Nat) : Word :=
  match kind with
  | .gatherSpr | .scatterSpr => if k < 32 then stepAddr b.asp b.aux k else stepAddr b.asp b.aux (8 * first + k)
  | _ => stepAddr b.asp b.aux k

/-- Code 0x01 of R232, with R236, R238 and R420. -/
def Box.fieldsOk (b : Box) (kind : CmdKind) (p : Spr) : Bool :=
  !b.mode.testBit 7 && decide (b.esz ≤ 4) && b.convOk && (b.sealing || b.handle == 0) &&
  !(b.sf && !b.dsp) && !(b.sealing && !b.dsp) && decide (b.total kind p ≤ 2 ^ 32) &&
  (match kind with
    | .copy => b.aux == 0
    | .mcast => true
    | .gatherList | .scatterList => decide (b.extent 2 ≤ 1) && decide (b.extent 3 ≤ 1) && decide (b.extent 4 ≤ 1)
    | .gatherSpr => (b.ext.drop 1).all (· == 0) && (b.sstr.drop 2).all (· == 0) && b.dstr.all (· == 0)
    | _ => (b.ext.drop 1).all (· == 0) && (b.sstr.drop 2).all (· == 0) && (b.dstr.drop 1).all (· == 0) && b.src == 0)

/-- A base address passes R73 or R62 and is a multiple of its element size. -/
def State.baseOk (s : State) (job spres : Nat) (loc : Bool) (a : Word) (size : Nat) : Bool :=
  if loc then (s.checkLocal job spres a size).isNone else canonical a && a.toNat % size == 0

/-- A barrier address of a record (R229): 0, or local, a multiple of 16, passing R73. -/
def State.barOk (s : State) (job spres : Nat) (a : Word) : Bool := a == 0 || (s.checkLocal job spres a 16).isNone

/-- Code 0x02 of R232, with R379. -/
def State.addressesOk (s : State) (job spres : Nat) (kind : CmdKind) (b : Box) (p : Spr) : Bool :=
  let z := b.zero kind
  let box := fun (loc : Bool) (a : Word) (strides : List Int) (ext : List Nat) (n : Nat) =>
    z || !loc || spanOk spres a (boxSpan strides ext n)
  let ext := b.ext.drop 1
  let srcBase := s.baseOk job spres b.ssp b.src b.se
  let dstBase := s.baseOk job spres b.dsp b.dst b.de
  s.barOk job spres b.bar && dstBase &&
  (match kind with
    | .gatherList => srcBase && s.baseOk job spres b.asp b.aux 4 && box b.asp b.aux [] [] (4 * b.extent 1) &&
        box b.dsp b.dst (b.dstr.take 1) (ext.take 1) b.rowBytes
    | .scatterList => srcBase && s.baseOk job spres b.asp b.aux 4 && box b.asp b.aux [] [] (4 * b.extent 1) &&
        box b.ssp b.src (b.sstr.take 1) (ext.take 1) (b.extent 0 * b.se)
    | .gatherSpr => srcBase && s.baseOk job spres b.asp b.aux 16 && box b.dsp b.dst [] [] (p.count * b.de)
    | .scatterSpr => s.baseOk job spres b.asp b.aux 16
    | _ => srcBase && box b.dsp b.dst b.dstr ext b.rowBytes && box b.ssp b.src b.sstr ext (b.extent 0 * b.se))

/-- A cluster holds a context of a launch. -/
def State.holdsLaunch (s : State) (cl : Nat) (l : BitVec 32) : Bool := (s.cluster cl).launch == some l

/-- Code 0x03 of R232 for a multicast mask and a destination address. -/
def State.multicastOk (s : State) (i : Issuer) (mask dst : Word) : Bool :=
  mask != 0 && rankOf dst == 0xFFFF && clusterOf dst / 256 == i.cl / 256 &&
    gangOf (clusterOf dst) == gangOf i.cl && s.holdsLaunch (clusterOf dst) i.launch &&
    (maskTargets i.cl mask).all (fun c => s.holdsLaunch c i.launch)

end Sys2Proof.Machine
end

