-- ==== Sys2Proof/Machine/Merge.lean ====
section
/-! DEFINITION. MERGE (R239 to R241, R394): its record, its checks and its steps. -/

namespace Sys2Proof.Machine

/-- A MERGE record (R239). -/
structure MergeRecord where
  a : Word
  b : Word
  out : Word
  count : Word
  na : Nat
  nb : Nat
  cap : Nat
  ent : Nat
  vt : Nat
  space : Nat
  bar : Word
  zeros : Bool
  deriving DecidableEq, Repr

/-- The record's fields (R239). -/
def MergeRecord.of (r : List Byte) : MergeRecord :=
  { a := word (fieldAt r 0 8), b := word (fieldAt r 8 8), out := word (fieldAt r 0x10 8), count := word (fieldAt r 0x18 8)
    na := fieldAt r 0x20 4, nb := fieldAt r 0x24 4, cap := fieldAt r 0x28 4, ent := fieldAt r 0x2C 1, vt := fieldAt r 0x2D 1
    space := fieldAt r 0x2E 1, bar := word (fieldAt r 0x30 8), zeros := fieldAt r 0x2F 1 == 0 && fieldAt r 0x38 8 == 0 }

/-- The bytes of an entry. -/
def MergeRecord.size (m : MergeRecord) : Nat := if m.ent = 0 then 8 else 16
def MergeRecord.localA (m : MergeRecord) : Bool := m.space.testBit 0
def MergeRecord.localB (m : MergeRecord) : Bool := m.space.testBit 1
def MergeRecord.localOut (m : MergeRecord) : Bool := m.space.testBit 2

/-- Code 0x01 of R239. -/
def MergeRecord.fieldsOk (m : MergeRecord) : Bool :=
  m.zeros && decide (m.space < 8) &&
    ((m.ent == 0 && (m.vt == 0 || m.vt == 3 || m.vt == 6)) || (m.ent == 1 && (m.vt == 9 || m.vt == 10)))

/-- Two local addresses name one cluster of one module. -/
def State.samePlace (s : State) (job : Nat) (x y : Word) : Bool :=
  clusterOf x == clusterOf y && (rankOf x == rankOf y || (s.rankHere job (rankOf x) && s.rankHere job (rankOf y)))

/-- Two runs of bytes share a byte within one space; an empty run shares none. -/
def State.runsMeet (s : State) (job : Nat) (lx : Bool) (x : Word) (n : Nat) (ly : Bool) (y : Word) (m : Nat) : Bool :=
  n != 0 && m != 0 && lx == ly && (!lx || s.samePlace job x y) && meets (placeOf lx x, placeOf lx x + n) (placeOf ly y, placeOf ly y + m)

/-- Code 0x02 of R239 and R394. -/
def State.mergeOk (s : State) (i : Issuer) (spres : Nat) (m : MergeRecord) : Bool :=
  let base := fun (l : Bool) (a : Word) => s.baseOk i.job spres l a m.size
  base m.localA m.a && base m.localB m.b && base m.localOut m.out && s.barOk i.job spres m.bar &&
  (s.checkLocal i.job spres m.count 8).isNone && s.namesCluster i.job i.cl m.count &&
  (s.cluster i.cl).inPlain (offsetOf m.count) 8 &&
  !s.runsMeet i.job m.localOut m.out (m.cap * m.size) m.localA m.a (m.na * m.size) &&
  !s.runsMeet i.job m.localOut m.out (m.cap * m.size) m.localB m.b (m.nb * m.size) &&
  !s.runsMeet i.job m.localOut m.out (m.cap * m.size) true m.count 8

/-- The key and the value of an entry. -/
def MergeRecord.entry (m : MergeRecord) (bs : List Byte) : Nat × Nat :=
  (leNat (bs.take (m.size / 2)), leNat (bs.drop (m.size / 2)))

/-- The combined value of the entries of one key in a stream (R240). -/
def MergeRecord.combine (m : MergeRecord) (vs : List Nat) : Nat :=
  if m.vt = 0 then alignedSum (vs.map val32) else vs.sum % 2 ^ (4 * m.size)

/-- The output value of a key under a mode, if the key is output (R240). -/
def MergeRecord.value (m : MergeRecord) (mode : Nat) (a b : List Nat) : Option Nat :=
  match mode with
  | 0 => some (m.combine (a ++ b))
  | 1 => (a ++ b).head?
  | 2 =>
    if a = [] ∨ b = [] then none
    else if m.vt = 0 then some ((mulVal (val32 (m.combine a)) (val32 (m.combine b))).rne .f32)
    else some (m.combine a * m.combine b % 2 ^ (4 * m.size))
  | _ => if a ≠ [] ∧ b = [] then some (m.combine a) else none

/-- The key that is complete goes to the output, or is cut at CAP (R241). -/
def MergeRecord.output (m : MergeRecord) (mode : Nat) (x : MergeState) : MergeState :=
  let y := { x with key := none, valsA := [], valsB := [] }
  match x.key with
  | none => y
  | some k =>
    match m.value mode x.valsA x.valsB with
    | none => y
    | some v =>
      if x.out < m.cap then
        { y with out := x.out + 1, buf := x.buf ++ natBytes (m.size / 2) k ++ natBytes (m.size / 2) v }
      else { y with trunc := true }

/-- Nothing is left to take from the streams, and no key is open. -/
def MergeRecord.drained (m : MergeRecord) (x : MergeState) : Bool :=
  x.unsorted.isSome || (x.takenA == m.na && x.takenB == m.nb && x.key.isNone)

/-- What a MERGE does next. -/
inductive MergeStep where
  /-- Read the head of A (false) or of B. -/
  | read (b : Bool) (a : Access)
  /-- A step within the engine. -/
  | go (x : MergeState)
  /-- Write output entries, `x` after it. -/
  | write (a : Word) (bs : List Byte) (x : MergeState)
  /-- Write the count word. -/
  | count
  | over

/-- The next step (R240, R241). Output entries of one granule are written together. -/
def MergeRecord.step (m : MergeRecord) (mode : Nat) (x : MergeState) : MergeStep :=
  if x.counted then .over
  else if x.buf ≠ [] ∧ (m.drained x ∨ (placeOf m.localOut m.out + x.written + x.buf.length) % 16 = 0) then
    .write (stepAddr m.localOut m.out x.written) x.buf { x with buf := [], written := x.written + x.buf.length }
  else if m.drained x then .count
  else if x.headA.isNone && decide (x.takenA < m.na) then
    .read false ⟨m.localA, stepAddr m.localA m.a (x.takenA * m.size), m.size⟩
  else if x.headB.isNone && decide (x.takenB < m.nb) then
    .read true ⟨m.localB, stepAddr m.localB m.b (x.takenB * m.size), m.size⟩
  else
    let fromA := match x.headA, x.headB with
      | some a, some b => decide (a.1 ≤ b.1)
      | some _, none => true
      | none, _ => false
    match (if fromA then x.headA else x.headB) with
    | none => .go (m.output mode x)
    | some (k, v) =>
      if x.key.isSome && x.key != some k then .go (m.output mode x)
      else if fromA then
        .go { x with key := some k, valsA := x.valsA ++ [v], takenA := x.takenA + 1, lastA := some k, headA := none }
      else .go { x with key := some k, valsB := x.valsB ++ [v], takenB := x.takenB + 1, lastB := some k, headB := none }

/-- A head has been read: the stream is unsorted when its key lies below the key before it (R241). A skipped entry is
passed over (R242). -/
def MergeRecord.head (m : MergeRecord) (b : Bool) (bs : List (Option Byte)) (x : MergeState) : MergeState :=
  match allRead bs with
  | none => if b then { x with takenB := x.takenB + 1 } else { x with takenA := x.takenA + 1 }
  | some bs =>
    let e := m.entry bs
    let last := if b then x.lastB else x.lastA
    if last.any (fun k => decide (e.1 < k)) then { x with unsorted := some b, key := none, valsA := [], valsB := [] }
    else if b then { x with headB := some e } else { x with headA := some e }

/-- The count word (R241). -/
def MergeState.countWord (x : MergeState) : Word :=
  word (x.out + 2 ^ 32 * x.trunc.toNat + 2 ^ 33 * x.unsorted.isSome.toNat + 2 ^ 34 * (x.unsorted.getD false).toNat + 2 ^ 63)

end Sys2Proof.Machine
end

