-- ==== Sys2Proof/Machine/Engine.lean ====
section
/-! DEFINITION. How the engines of a cluster carry out commands (R224 to R244): contexts, accesses, refusals, the hand-off to
firmware, seals, arrivals and completion. The attention units use the same steps (R261, R262). -/

namespace Sys2Proof.Machine

/-! ### Contexts -/

/-- The state with an engine context replaced. -/
def State.setContext (s : State) (e : EngineRef) (x : Ctx) : State :=
  match e with
  | .copy cl n => s.setCluster cl { s.cluster cl with copies := (s.cluster cl).copies.set n x }
  | .gather cl => s.setCluster cl { s.cluster cl with gather := x }
  | .merge cl => s.setCluster cl { s.cluster cl with merge := x }
  | .matrix cl => s.setCluster cl { s.cluster cl with matrix := x }
  | .nma n => { s with nmas := mset s.nmas n x }

/-- A command of a context. -/
def State.command? (s : State) (e : EngineRef) (id : Nat) : Option Cmd := (s.context e).queue.find? (fun c => c.id == id)

/-- Change a command of a context. -/
def State.modCommand (s : State) (e : EngineRef) (id : Nat) (f : Cmd → Cmd) : State :=
  let x := s.context e
  s.setContext e { x with queue := x.queue.map (fun c => if c.id = id then f c else c) }

/-- Move the timeline over what lies completed beyond it (R225). -/
def Ctx.advance (x : Ctx) : Nat → Ctx
  | 0 => x
  | fuel + 1 =>
    if x.completed.contains (x.timeline + 1) then
      { x with timeline := x.timeline + 1, completed := x.completed.filter (· != x.timeline + 1) }.advance fuel
    else x

/-- A command completes: it leaves the queue, and the timeline advances in order (R225). -/
def Ctx.complete (x : Ctx) (id : Nat) : Ctx :=
  let y := { x with queue := x.queue.filter (fun c => c.id != id), completed := x.completed ++ [id] }
  y.advance y.completed.length

/-- An accepted command takes the counter's value, and joins the queue (R225). -/
def Ctx.accept (x : Ctx) (f : Nat → Cmd) : Ctx := { x with counter := x.counter + 1, queue := x.queue ++ [f x.counter] }

/-- Queue depths (R224, R261); of a matrix unit, its command queue for MLOADs (R396). -/
def engineDepth : EngineRef → Nat
  | .merge _ => 16
  | .matrix _ => 8
  | _ => 64

/-- The cluster of an engine; an attention unit belongs to none. -/
def engineCluster : EngineRef → Option Nat
  | .copy cl _ => some cl
  | .gather cl => some cl
  | .merge cl => some cl
  | .matrix cl => some cl
  | .nma _ => none

/-- The die of an engine: an attention unit channel lies with its stack, 32 channels to a stack, 2 stacks to a die
(R10, R261). -/
def engineDie : EngineRef → Nat
  | .nma n => n / 64
  | e => ((engineCluster e).getD 0) / 256

/-- The endpoint from which an engine sends packets (R274). -/
def State.engineEndpoint (s : State) (e : EngineRef) : Word :=
  match e with
  | .nma n => s.endpoint 3 (n / 64) (8 * (n / 32 % 2) + n % 32 / 4)
  | e => s.clusterAddr ((engineCluster e).getD 0)

/-- The key of a target that is no cluster of this module. -/
def elsewhere : Nat := 2 ^ 14

/-- ENG and DETAIL of SR_ENGERR (R243). -/
def engineCode : EngineRef → Nat
  | .copy _ _ => 0
  | .gather _ => 1
  | .merge _ => 2
  | .matrix _ => 3
  | .nma _ => 4
def engineDetail : EngineRef → Nat
  | .copy _ n => n
  | .nma n => n
  | _ => 0

/-- A retirement with error (R243): at the issuing pip, or through the Milcy port when its launch has completed. -/
def State.engineError (s : State) (i : Issuer) (eng cause detail id : Nat) (addr : Word) : State :=
  if (s.launch i.launch).isSome then s.tellPip i.launch i.pipid (.error eng cause detail id addr)
  else s.report (.engineError i.launch i.pipid
    (word (1 + 4 * eng + 2 ^ 8 * cause + 2 ^ 16 * (detail % 2 ^ 12) + 2 ^ 28 * (id % 2 ^ 36))) addr)

/-! ### Translation (R242, R244) -/

/-- A command stands behind the marker of a TINV that covers the translation that its TLB holds (R123, R244, R429). A command
that is being accepted stands behind every one. -/
def State.behindMarker (s : State) (e : EngineRef) (id : Nat) (t : Tlb) : Bool :=
  match engineCluster e with
  | none => false
  | some cl =>
    s.pips.any (fun p => p.2.ops.any (fun o => match o.kind, o.phase with
      | .tinv mode _, .accepted ahead => !ahead.contains (e, id) && tinvReaches (o.rel.getD 0) (p.1 / 256) cl &&
          tinvCovers mode o.data t.asid t.vpage t.size
      | _, _ => false)) ||
    s.net.tinvs.any (fun x => !x.ahead.contains (e, id) && tinvCovers x.mode x.record t.asid t.vpage t.size)

/-- Translate an access of a command: through the TLB of the issuer's die (R66), or afresh behind a marker and in firmware. The
causes are those of SR_ENGERR (R243). -/
def State.translateFor (s : State) (e : EngineRef) (id : Nat) (firmware : Bool) (i : Issuer) (need : Need) (a : Word) :
    State × Except Nat Nat :=
  if !canonical a then (s, .error 1)
  else
    let va := a.toNat % 2 ^ 56
    let (s, r) :=
      if firmware || (s.lookup (i.cl / 256) i.asid va).any (s.behindMarker e id) then
        match s.walk (i.cl / 256) i.asid va with
        | (s, none) => (s, Except.error 1)
        | (s, some t) =>
          if leafAllows t.leaf need i.mode then (s, .ok (entryAddr t.leaf + va % 2 ^ t.size)) else (s, .error 2)
      else
        match s.translate (i.cl / 256) i.asid i.mode need a with
        | (s, .ok (pa, _)) => (s, .ok pa)
        | (s, .error c) => (s, .error (if c = .pageNotPresent then 1 else 2))
    match r with
    | .error n => (s, .error n)
    | .ok pa => if (mget s.bad (pa / 128)).isSome then (s, .error 3) else (s, .ok pa)

/-- Translate an access of an accepted command. -/
def State.engineTranslate (s : State) (e : EngineRef) (c : Cmd) (need : Need) (a : Word) : State × Except Nat Nat :=
  s.translateFor e c.id c.firmware c.issuer need a

/-- An access fails: the command stops there, or firmware skips the access and keeps the first failure (R242). -/
def State.engineFails (s : State) (e : EngineRef) (c : Cmd) (cause : Nat) (a : Word) (skip : State → State) : State :=
  if c.firmware then
    skip (s.modCommand e c.id (fun c => { c with error := some (c.error.getD (cause, a)) }))
  else s.modCommand e c.id (fun c => { c with stopped := true })

/-! ### Reads -/

/-- The bytes read for a piece so far. -/
def Cmd.have_ (c : Cmd) (k : Nat) : List (Option Byte) := ((c.got.find? (fun g => g.1 == k)).map Prod.snd).getD []

/-- Further bytes of a piece. -/
def Cmd.take (c : Cmd) (k : Nat) (bs : List (Option Byte)) : Cmd :=
  { c with got := c.got.filter (fun g => g.1 != k) ++ [(k, c.have_ k ++ bs)] }

/-- A piece's bytes are no longer kept. -/
def Cmd.forget (c : Cmd) (k : Nat) : Cmd := { c with got := c.got.filter (fun g => g.1 != k) }

/-- The packet of a command, from an endpoint. -/
def State.enginePacket (s : State) (src : Word) (c : Cmd) (kind : Byte) (dst a : Word) (len : Nat) (body : List Byte)
    (sf : Bool) (work : PacketWork) : Packet := s.packet kind src dst a len body sf work c.issuer.job c.issuer.launch

/-- The key under which packets to a target are counted: the cluster's number in this module, else one number for every place
outside its clusters. -/
def State.targetKey (s : State) (dst : Word) : Nat := if s.here dst && endType dst == 0 then clusterNamed dst else elsewhere

/-- So many packets of so many body bytes to an address can be sent from an endpoint: its rank is not moving, and the answers and
the copies have room (R278, R282, R291). -/
def State.sendReady (s : State) (src : Word) (c : Cmd) (a : Word) (bytes count : Nat) : Bool :=
  match s.resolve c.issuer.job a with
  | none => false
  | some dst => s.mayInject src dst (bytes + 32 * (count - 1)) count

/-- Send a packet of a command. -/
def State.engineInject (s : State) (e : EngineRef) (c : Cmd) (k : Nat) (q : Packet) (performs : Bool) : State :=
  let t := s.targetKey q.dst
  (s.inject (.engine e c.id k) q).modCommand e c.id (fun c =>
    { c with awaiting := c.awaiting ++ [(k, t)], unperformed := if performs then c.unperformed ++ [(k, t)] else c.unperformed })

/-- Send a packet of a command to a local address. -/
def State.engineSend (s : State) (e : EngineRef) (src : Word) (c : Cmd) (k : Nat) (kind : Byte) (a : Word) (len : Nat)
    (body : List Byte) (sf : Bool) (work : PacketWork) (performs : Bool) : State :=
  match s.resolve c.issuer.job a with
  | none => s
  | some dst => s.engineInject e c k (s.enginePacket src c kind dst a len body sf work) performs

/-- Send an atomic request of a command to a local address. -/
def State.engineAtomic (s : State) (e : EngineRef) (c : Cmd) (k : Nat) (a : Word) (w : PacketWork) : State :=
  let body := w.body none none
  s.engineSend e (s.engineEndpoint e) c k 0x02 a body.length body false w false

/-- The first SEQ, counted on from the pair of the first target, that no pair of an origin with these targets uses. -/
def State.sharedSeq (s : State) (src : Word) (dsts : List Word) : BitVec 16 :=
  let used := dsts.flatMap (s.seqsInUse src)
  let next := mgetD s.net.nextSeq (pairKey src (dsts.headD 0)) 0
  match (List.range (used.length + 1)).find? (fun i => !used.contains (BitVec.ofNat 16 (next + i))) with
  | some i => BitVec.ofNat 16 (next + i)
  | none => 0

/-- Send one MCW packet to every target of a command (R293): each answers its own copy. -/
def State.engineMulticast (s : State) (e : EngineRef) (c : Cmd) (k : Nat) (a : Word) (bs : List Byte) (sf : Bool) (mask : Word) : State :=
  let src := s.engineEndpoint e
  let dsts := c.targets.map s.clusterAddr
  let body := natBytes 8 mask.toNat ++ bs
  let q : Packet := { s.enginePacket src c 0x04 (dsts.headD 0) a body.length body sf .bulk with
    seq := s.sharedSeq src dsts, ver := s.versionAt (dieOf src), crossesDie := false }
  let out : List Outstanding := dsts.map (fun d => ⟨.engine e c.id k, { q with dst := d }, false, false⟩)
  let s := { s with net := { s.net with
    outstanding := s.net.outstanding ++ out
    nextSeq := mset s.net.nextSeq (pairKey src q.dst) (q.seq.toNat + 1) } }
  (s.addPacket q).modCommand e c.id (fun c =>
    { c with awaiting := c.awaiting ++ c.targets.map (fun t => (k, t)), unperformed := c.unperformed ++ c.targets.map (fun t => (k, t)) })

/-- The local address names the engine's own cluster. -/
def State.engineNear (s : State) (e : EngineRef) (c : Cmd) (a : Word) : Option Nat :=
  match engineCluster e with
  | some cl => if s.namesCluster c.issuer.job cl a then some cl else none
  | none => none

/-- Perform one read of a command, within a bank line or a line (R89, R242): further bytes for piece k. A home L2 on another die
is asked by RD, of at most 64 bytes (R276). -/
def State.engineRead (s : State) (e : EngineRef) (c : Cmd) (k : Nat) (x : Access) : State :=
  let s := s.modCommand e c.id (fun c => { c with begun := true })
  let src := s.engineEndpoint e
  if x.loc then
    let n := min x.n (64 - offsetOf x.addr % 64)
    match s.engineNear e c x.addr with
    | some cl =>
      if !s.slotsFor (.live cl) (offsetOf x.addr) n then s
      else
        let s := s.giveSlots (.live cl) (offsetOf x.addr) n
        match s.readPlaced (.live cl) x.addr n with
        | .ok bs => s.modCommand e c.id (fun c => c.take k (bs.map some))
        | .error _ => (s.refuseIssuer c.issuer x.addr).modCommand e c.id (fun c => c.take k (List.replicate n (some 0)))
    | none => if s.sendReady src c x.addr 0 1 then s.engineSend e src c k 0x01 x.addr n [] false (.load 0) false else s
  else
    let n := min x.n (128 - x.addr.toNat % 128)
    match s.engineTranslate e c .load x.addr with
    | (s, .ok pa) =>
      if homeDie pa ≠ engineDie e then
        let q := s.enginePacket src c 0x01 (s.sliceAddr pa) (word pa) (min n 64) [] false .fill
        if s.mayInject src q.dst 0 1 then s.engineInject e c k q false else s
      else if !s.noCopies (pa / 128) then s.recallLine (pa / 128)
      else s.modCommand e c.id (fun c => c.take k ((readBytes s.hbm pa n).map some))
    | (s, .error cause) =>
      s.engineFails e c cause x.addr (fun s => s.modCommand e c.id (fun c => c.take k (List.replicate n none)))

/-! ### Pieces done, barriers (R120) -/

/-- The record's barrier, and whether each target has its own (R235). -/
def Cmd.barrier (c : Cmd) : Word :=
  match c.kind with
  | .merge _ => (MergeRecord.of c.record).bar
  | _ => word (fieldAt c.record 0x10 8)
def CmdKind.multi : CmdKind → Bool
  | .mcast | .kvld => true
  | _ => false

/-- The clusters of this module whose barrier a command updates. -/
def State.barrierClusters (s : State) (c : Cmd) : List Nat :=
  if c.barrier = 0 then []
  else if c.kind.multi then c.targets
  else if s.rankHere c.issuer.job (rankOf c.barrier) then [clusterOf c.barrier]
  else []

/-- The barrier lies in another module. -/
def State.barrierAway (s : State) (c : Cmd) : Bool :=
  c.barrier != 0 && !c.kind.multi && !s.rankHere c.issuer.job (rankOf c.barrier)

/-- The kinds whose bytes the barrier loses only after the seal (R344, R360, R378, R392); SCATTER, KVLD and MERGE subtract each
part as it has been performed (R382, R394, R420). -/
def CmdKind.late : CmdKind → Bool
  | .copy | .mcast | .gatherList | .gatherSpr | .attn => true
  | _ => false

/-- What a barrier in another module is still to lose goes there, if a packet may be sent. -/
def State.sendOwed (s : State) (e : EngineRef) (id : Nat) : State :=
  match s.command? e id with
  | none => s
  | some c =>
    if c.owed = 0 || !s.sendReady (s.engineEndpoint e) c c.barrier 24 1 then s
    else (s.engineAtomic e c (2 ^ 40) c.barrier (.barrierSub c.owed)).modCommand e id (fun c => { c with owed := 0 })

/-- Subtract performed bytes from the barrier of a target, or from the command's barrier, which may lie in another module (R120). What
is subtracted late waits for the end. -/
def State.subtract (s : State) (e : EngineRef) (c : Cmd) (t n : Nat) : State :=
  if n = 0 ∨ c.barrier = 0 ∨ c.kind.late then s
  else if s.barrierAway c then
    (s.modCommand e c.id (fun c => { c with left := c.left - n, owed := c.owed + min n c.left })).sendOwed e c.id
  else if c.kind.multi then s.barrierChange c.issuer.job t c.barrier (fun b => b.subBytes n)
  else
    let s := s.modCommand e c.id (fun c => { c with left := c.left - n })
    (s.barrierClusters c).foldl (fun (s : State) cl => s.barrierChange c.issuer.job cl c.barrier (fun b => b.subBytes (min n c.left))) s

/-- A piece of `n` bytes has been performed at a target. -/
def State.performedAt (s : State) (e : EngineRef) (c : Cmd) (t n : Nat) : State :=
  let s := s.modCommand e c.id (fun c =>
    { c with performed := mset c.performed t ((mgetD c.performed t (0, 0)).1 + 1, s.cycle) })
  s.subtract e c t n

/-- Every piece below `next` is finished; move it over those listed. -/
def Cmd.settle (c : Cmd) : Nat → Cmd
  | 0 => c
  | fuel + 1 =>
    if c.finished.contains c.next then
      { c with next := c.next + 1, finished := c.finished.filter (· != c.next) }.settle fuel
    else c

/-- A piece is finished. -/
def Cmd.finish (c : Cmd) (k : Nat) : Cmd :=
  let d := { (c.forget k) with finished := c.finished ++ [k] }
  d.settle d.finished.length

/-- Positions of a page, and the row stride (R246). -/
def positions (layout : Nat) : Nat := if layout = 0 then 64 else 32
def rowStride (layout : Nat) : Nat := if layout = 0 then 128 else 256

/-- What KVLD and ATTN learn at acceptance (R262): the PSD's bytes, and after them the destination pod's FMT. -/
def Cmd.known (c : Cmd) : List Byte := (allRead c.side).getD []
def Cmd.headDim (c : Cmd) : Nat := fieldAt c.known 2 2
def Cmd.pagePositions (c : Cmd) : Nat := positions (fieldAt c.known 4 1)
def Cmd.podFormat (c : Cmd) : Nat := fieldAt c.known 64 1

/-- NP, and the heads of ATTN (R262). -/
def Cmd.pages (c : Cmd) : Nat := fieldAt c.record 0x20 2
def Cmd.heads (c : Cmd) : Nat := fieldAt c.record 0x24 1

/-- The bytes of an element of a pod of FMT 4, 5 or 6; the triple size (R267). -/
def elementBytes (fmt : Nat) : Nat := if fmt = 6 then 4 else 2
def tripleSize (d : Nat) : Nat := 16 + 16 * ((d + 3) / 4)

/-- The bytes that a piece stands for. -/
def Cmd.pieceBytes (c : Cmd) (k : Nat) : Nat :=
  match c.kind with
  | .merge _ => 0
  | .kvld => c.headDim * elementBytes c.podFormat
  | .attn => tripleSize c.headDim
  | kind => (Box.of c.record).pieceBytes kind (Spr.of ((allRead c.side).getD [])) k

/-- A packet of a command, of so many bytes, has been performed at its target (R117, R120). A piece is performed there with its last
packet; a MERGE's output entries each on their own (R394). -/
def State.packetPerformed (s : State) (e : EngineRef) (id k t n : Nat) : State :=
  match s.command? e id with
  | none => s
  | some c =>
    if !c.unperformed.contains (k, t) then s
    else
      let s := s.modCommand e id (fun c => { c with unperformed := c.unperformed.erase (k, t) })
      match s.command? e id, c.kind with
      | none, _ => s
      | some c, .merge _ => s.performedAt e c t n
      | some c, _ => if c.unperformed.contains (k, t) then s else s.performedAt e c t (c.pieceBytes k)

/-- A packet of a command has been answered; one not yet noted as performed counts as performed then. A piece with no
packet out is finished (R117). -/
def State.packetAnswered (s : State) (e : EngineRef) (id k t n : Nat) : State :=
  let s := s.modCommand e id (fun c => { c with awaiting := c.awaiting.erase (k, t) })
  let late := (s.command? e id).any (fun c => decide (c.awaiting.count (k, t) < c.unperformed.count (k, t)))
  (if late then s.packetPerformed e id k t n else s).modCommand e id (fun c =>
    if c.awaiting.any (fun x => x.1 == k) then c else c.finish k)

/-! ### Writes -/

/-- Where the runs of a piece lie in memory: none when the command stops at a run that fails; firmware leaves such a run out
(R242). -/
def State.placeRuns (s : State) (e : EngineRef) (c : Cmd) : List (Word × List Byte) → State × Option (List (Nat × List Byte))
  | [] => (s, some [])
  | (a, bs) :: rs =>
    match s.engineTranslate e c .store a with
    | (s, .ok pa) =>
      match s.placeRuns e c rs with
      | (s, some ps) => (s, some ((pa, bs) :: ps))
      | (s, none) => (s, none)
    | (s, .error cause) => if c.firmware then (s.engineFails e c cause a id).placeRuns e c rs else (s.engineFails e c cause a id, none)

/-- Write runs of bytes at their home L2s (R234): update-only copies are recalled first, a home L2 on another die is written by WR.
None while that must wait; otherwise the state, and whether packets are out. -/
def State.writeRuns (s : State) (e : EngineRef) (c : Cmd) (k : Nat) (runs : List (Nat × List Byte)) : State × Option Bool :=
  let far := runs.filter (fun r => homeDie r.1 != engineDie e)
  let near := runs.filter (fun r => homeDie r.1 == engineDie e)
  let src := s.engineEndpoint e
  if !near.all (fun r => s.noCopies (r.1 / 128)) then (near.foldl (fun (s : State) r => s.recallLine (r.1 / 128)) s, none)
  else if !far.all (fun r => s.mayInject src (s.sliceAddr r.1) (48 * far.length) far.length) then (s, none)
  else
    let s := near.foldl (fun (s : State) r => s.writeHome r.1 r.2) s
    (far.foldl (fun (s : State) r =>
      s.engineInject e c k (s.enginePacket src c 0x03 (s.sliceAddr r.1) (word r.1) r.2.length r.2 false .bulk) true) s,
     some (!far.isEmpty))

/-- Perform the writes of a piece (R234, R235): in the engine's own cluster, in other clusters by packets, or at the
home L2. -/
def State.engineWrite (s : State) (e : EngineRef) (c : Cmd) (k : Nat) (loc sf : Bool) (runs : List (Word × List Byte))
    (mask : Word) : State :=
  let s := s.modCommand e c.id (fun c => { c with begun := true })
  let done := fun (s : State) (t : Nat) => (s.performedAt e c t (c.pieceBytes k)).modCommand e c.id (fun c => c.finish k)
  let own := c.targets.headD elsewhere
  let src := s.engineEndpoint e
  if runs = [] then
    let s := (if c.kind.multi then c.targets else [own]).foldl (fun (s : State) t => s.performedAt e c t (c.pieceBytes k)) s
    s.modCommand e c.id (fun c => c.finish k)
  else if c.kind.multi then
    if s.responseRoom src (runs.length * c.targets.length) && !s.rankMoves c.issuer.job then
      runs.foldl (fun (s : State) r => s.engineMulticast e c k r.1 r.2 sf mask) s
    else s
  else if loc then
    match runs.head?.bind (fun r => s.engineNear e c r.1) with
    | some cl =>
      let off := (runs.head?.map (fun r => offsetOf r.1)).getD 0
      if !s.slotsFor (.live cl) off 1 then s
      else
        let s := s.giveSlots (.live cl) off 1
        let s := runs.foldl (fun (s : State) r =>
          match s.writePlaced (.live cl) r.1 r.2 sf true with
          | (s, none) => s
          | (s, some _) => s.refuseIssuer c.issuer r.1) s
        done s cl
    | none =>
      if (runs.head?).all (fun r => s.sendReady src c r.1 (16 * runs.length) runs.length) then
        runs.foldl (fun (s : State) r => s.engineSend e src c k 0x03 r.1 r.2.length r.2 sf .bulk true) s
      else s
  else
    match s.placeRuns e c runs with
    | (s, none) => s
    | (s, some ps) =>
      match s.writeRuns e c k ps with
      | (s, none) => s
      | (s, some out) => if out then s else done s own

/-! ### One access of a command (R230) -/

/-- The same space and place on both sides (R230). Virtual places are compared: an overlap through two aliases of one physical page is
none that the engine sees, as R394 has it for MERGE (the model's choice for the others, log entry 58). -/
def State.sameSpace (s : State) (c : Cmd) (b : Box) : Bool :=
  b.ssp == b.dsp && (!b.ssp || (if c.kind.multi then s.rankHere c.issuer.job (rankOf b.src) && c.targets.contains (clusterOf b.src)
    else s.samePlace c.issuer.job b.src b.dst))

/-- The index side and the destination lie in one space and place. -/
def State.sameAux (s : State) (c : Cmd) (b : Box) : Bool :=
  b.asp == b.dsp && (!b.asp || s.samePlace c.issuer.job b.aux b.dst)

/-- A command may make its first access once every earlier one of its context has (R117). -/
def State.mayBegin (s : State) (e : EngineRef) (c : Cmd) : Bool :=
  c.begun || (s.context e).queue.all (fun d => decide (c.id ≤ d.id) || d.begun)

/-- The piece may be worked on: in box order where pieces conflict, in order for every other command and in firmware. -/
def Cmd.eligible (c : Cmd) (same : Bool) (b : Box) (k total : Nat) : Bool :=
  !c.stopped && decide (c.next ≤ k) && decide (k < total) && !c.finished.contains k && !c.awaiting.any (fun x => x.1 == k) &&
  (match c.kind, c.firmware with
    | .copy, false | .mcast, false =>
      c.got.any (fun g => g.1 == k) || (List.range (k - c.next)).all (fun i =>
        c.finished.contains (c.next + i) || !b.conflict same (c.next + i) k)
    | _, _ => k == c.next)

/-- The pieces of a command: of KVLD the rows, of ATTN the triples. -/
def Cmd.total (c : Cmd) : Nat :=
  match c.kind with
  | .kvld => c.pages * c.pagePositions
  | .attn => c.pages * c.heads
  | kind => (Box.of c.record).pieces kind (Spr.of c.known)

/-- One access of a copy-family command. -/
def State.boxAccess (s : State) (e : EngineRef) (c : Cmd) (k : Nat) : State :=
  let b := Box.of c.record
  let same := s.sameSpace c b
  if !c.eligible same b k c.total || !s.mayBegin e c then s
  else match b.script c.kind (sprFirst c.record) c.side same (s.sameAux c b) k (c.have_ k) with
    | .error a => s.engineRead e c k a
    | .ok runs => s.engineWrite e c k b.dsp b.sf runs b.aux

/-- One step of a MERGE that accesses memory, after the steps within the engine. Pieces 0 and 1 are the streams, 2 the
output. -/
def State.mergeAccess (s : State) (e : EngineRef) (c : Cmd) : Nat → State
  | 0 => s
  | fuel + 1 =>
    let m := MergeRecord.of c.record
    let mode := match c.kind with
      | .merge n => n
      | _ => 0
    if c.stopped || c.awaiting ≠ [] || !s.mayBegin e c then s
    else match m.step mode c.merge with
      | .over => s
      | .go x =>
        let c := { c with merge := x }
        (s.modCommand e c.id (fun _ => c)).mergeAccess e c fuel
      | .read b a =>
        let k := b.toNat
        match takeRead a.loc a.addr a.n (c.have_ k) with
        | .error a => s.engineRead e c k a
        | .ok (bs, _) =>
          let c := { (c.forget k) with merge := m.head b bs c.merge }
          (s.modCommand e c.id (fun _ => c)).mergeAccess e c fuel
      | .write a bs x =>
        let after := fun (s : State) => s.modCommand e c.id (fun c => { c with merge := x })
        let done := fun (s : State) => after (s.subtract e c 0 bs.length)
        let src := s.engineEndpoint e
        if m.localOut then
          match s.engineNear e c a with
          | some cl =>
            if !s.slotsFor (.live cl) (offsetOf a) 1 then s
            else
              let t := s.giveSlots (.live cl) (offsetOf a) 1
              match t.writePlaced (.live cl) a bs true true with
              | (t, none) => done t
              | (t, some _) => done (t.refuseIssuer c.issuer a)
          | none =>
            if s.sendReady src c a bs.length 1 then after (s.engineSend e src c 2 0x03 a bs.length bs true .bulk true) else s
        else match s.engineTranslate e c .store a with
          | (s, .ok pa) =>
            match s.writeRuns e c 2 [(pa, bs)] with
            | (s, none) => s
            | (s, some out) => if out then after s else done s
          | (s, .error cause) => s.engineFails e c cause a done
      | .count =>
        let cl := c.issuer.cl
        if !s.slotsFor (.live cl) (offsetOf m.count) 1 then s
        else
          let s := s.giveSlots (.live cl) (offsetOf m.count) 1
          let x := s.cluster cl
          let s := match x.refusalInSlot m.count (offsetOf m.count) 8 true with
            | none => s.setCluster cl ((x.write (offsetOf m.count) (natBytes 8 c.merge.countWord.toNat)).fill (granulesOf (offsetOf m.count) 8))
            | some _ => s.refuseIssuer c.issuer m.count
          s.modCommand e c.id (fun c => { c with merge := { c.merge with counted := true }, begun := true })

/-! ### Acceptance (R227, R232, R378, R394) -/

/-- The issuer of a command. -/
def State.issuerOf (s : State) (k : Nat) (p : Pip) (o : Op) : Issuer :=
  { launch := p.launch, pipid := p.pipid, cl := k / 256, core := k / 16, asid := o.asid, mode := o.mode, job := s.jobOfLaunch p.launch }

/-- A command is refused with a code (R227). -/
def State.refuseCommand (s : State) (k : Nat) (o : Op) (code : Nat) : State :=
  s.finish k o ((statusWord code).setWidth 512)

/-- A read of a command that is being accepted is refused: it is recorded at the issuer if the command is accepted, since a refused
command changes nothing but its rd (R227). -/
def State.noteRefusal (s : State) (k n : Nat) (a : Word) : State :=
  s.modPip k (fun p => p.modOp n (fun o => { o with refusals := o.refusals ++ [a] }))

/-- A command is accepted: identifier, queue, rd (R225, R227), and what of its list was refused (R89). -/
def State.acceptCommand (s : State) (k : Nat) (o : Op) (e : EngineRef) (f : Nat → Cmd) : State :=
  let refusals := ((s.pip k).bind (fun p => p.op o.id)).elim [] Op.refusals
  let s := refusals.foldl (fun (s : State) a => s.modPip k (fun p => p.refuse a)) s
  let x := s.context e
  (s.setContext e (x.accept f)).finish k o (BitVec.ofNat 512 x.counter)

/-- Read the bytes that a command needs before it is accepted, as loads of the issuer: what has been read, and the
access in another cluster that is still needed. Reads of an SPR header or table that fail leave bytes absent, as reads of a list in
memory do; a refused read of a local list gives zeros and is noted (R89). A command being accepted stands behind every marker (R244). -/
def State.readSide (s : State) (k n : Nat) (i : Issuer) (e : EngineRef) (kind : CmdKind) (b : Box) (first need : Nat) :
    Nat → List (Option Byte) → State × List (Option Byte) × Option Access
  | 0, side => (s, side, none)
  | fuel + 1, side =>
    if need ≤ side.length then (s, side, none)
    else
      let a := sideAddr kind b first side.length
      let limit := need - side.length
      if b.asp then
        let len := min limit (64 - offsetOf a % 64)
        if !s.namesCluster i.job i.cl a then (s, side, some ⟨true, a, len⟩)
        else
          match (s.readPlaced (.live i.cl) a len).toOption, kind with
          | some bs, _ => s.readSide k n i e kind b first need fuel (side ++ bs.map some)
          | none, .gatherSpr | none, .scatterSpr => s.readSide k n i e kind b first need fuel (side ++ List.replicate len none)
          | none, _ => (s.noteRefusal k n a).readSide k n i e kind b first need fuel (side ++ List.replicate len (some 0))
      else
        let len := min limit (128 - a.toNat % 128)
        match s.translateFor e (s.context e).counter false i .load a with
        | (s, .ok pa) =>
          let (s, bs) := s.readFrom s.asker pa len
          s.readSide k n i e kind b first need fuel (side ++ bs.map some)
        | (s, .error _) => s.readSide k n i e kind b first need fuel (side ++ List.replicate len none)

/-- The command waits for what another module answers, with its record as it has been read. -/
def State.fetching (s : State) (k : Nat) (o : Op) (r : List Byte) (side : List (Option Byte)) (stage : Nat) : State :=
  s.modPip k (fun p => p.modOp o.id (fun o => { o with phase := .fetching side stage, data := r }))

/-- A request of a command before its acceptance. -/
def State.askAway (s : State) (k : Nat) (o : Op) (i : Issuer) (kind : Byte) (a : Word) (len : Nat) (body : List Byte)
    (work : PacketWork) (r : List Byte) (side : List (Option Byte)) (stage : Nat) : State :=
  match s.resolve i.job a with
  | none => s.fetching k o r side 0
  | some dst =>
    let src := s.clusterAddr i.cl
    if !s.mayInject src dst body.length 1 then s.fetching k o r side 0
    else (s.inject (.pip k o.id) (s.packet kind src dst a len body false work i.job i.launch)).fetching k o r side stage

/-- The last steps of acceptance: the barrier's addition, after every other check (R120, R232), and the queue. -/
def State.acceptWith (s : State) (k : Nat) (o : Op) (i : Issuer) (e : EngineRef) (kind : CmdKind) (r : List Byte)
    (targets : List Nat) (total pieces : Nat) (bar : Word) (side : List (Option Byte)) : State :=
  let cmd := fun (s : State) (id : Nat) =>
    { id := id, kind := kind, issuer := i, record := r, targets := targets, side := side, left := total
      begun := pieces == 0
      performed := targets.foldl (fun m t => mset m t (0, s.cycle)) [] : Cmd }
  if total = 0 ∨ bar = 0 then s.acceptCommand k o e (cmd s)
  else if kind.multi then
    match s.barrierAddAll i.job bar total targets with
    | .ok s => s.acceptCommand k o e (cmd s)
    | .error c => s.refuseCommand k o c
  else if s.rankHere i.job (rankOf bar) then
    match s.barrierAdd i.job (clusterOf bar) bar total with
    | .ok s => s.acceptCommand k o e (cmd s)
    | .error c => s.refuseCommand k o c
  else
    let body := (PacketWork.barrierAdd total).body none none
    s.askAway k o i 0x02 bar body.length body (.barrierAdd total) r side 2

/-- The clusters of a copy-family command's local destination: this module's, or the place of one elsewhere. -/
def State.boxTargets (s : State) (i : Issuer) (kind : CmdKind) (b : Box) : List Nat :=
  if kind == .mcast then maskTargets i.cl b.aux
  else if !b.dsp then []
  else if s.rankHere i.job (rankOf b.dst) then [clusterOf b.dst] else [elsewhere]

/-- The first code of R232 and R379 that applies, once what must be read has been read. -/
def State.boxCode (s : State) (i : Issuer) (spres : Nat) (kind : CmdKind) (b : Box) (p : Spr) : Option Nat :=
  if !b.fieldsOk kind p then some 1
  else if !s.addressesOk i.job spres kind b p then some 2
  else if kind == .mcast && !(b.dsp && s.multicastOk i b.aux b.dst) then some 3
  else none

/-- No slices: the SPR header of a command that reads none. -/
def Spr.empty : Spr := ⟨1, 4, 0, 0, 0, []⟩

/-- Read the first `need` bytes on the side; then go on with them, be refused with code 0x02 when an SPR command cannot read one, or
wait for another module. -/
def State.withSide (s : State) (k : Nat) (o : Op) (i : Issuer) (e : EngineRef) (kind : CmdKind) (b : Box) (first need : Nat)
    (r : List Byte) (side : List (Option Byte)) (f : State → List (Option Byte) → State) : State :=
  match s.readSide k o.id i e kind b first need (need + 1) side with
  | (s, side, some a) => s.askAway k o i 0x01 a.addr a.n [] (.load 0) r side 1
  | (s, side, none) =>
    if (kind == .gatherSpr || kind == .scatterSpr) && (allRead (side.take need)).isNone then s.refuseCommand k o 2 else f s side

/-- COPY, MCAST, GATHER or SCATTER at the head of the store queue (R227, R232, R378, R420). An SPR command reads and checks its
header, then its slice table, each within the issuer's range, before the record is checked. `side` is what has been read. -/
def State.acceptBox (s : State) (k : Nat) (o : Op) (i : Issuer) (spres : Nat) (e : EngineRef) (kind : CmdKind) (r : List Byte)
    (side : List (Option Byte)) : State :=
  let b := Box.of r
  let first := sprFirst r
  let count := b.extent 0
  let need := sideLength kind b
  let accept := fun (s : State) (side : List (Option Byte)) (p : Spr) =>
    s.acceptWith k o i e kind r (s.boxTargets i kind b) (b.total kind p) (b.pieces kind p) b.bar side
  if kind == .gatherSpr || kind == .scatterSpr then
    let inRange := fun (lo n : Nat) => !b.asp || spanOk spres b.aux ((lo : Int), (lo + n : Int) - 1)
    let record := fun (s : State) (side : List (Option Byte)) (p : Spr) =>
      match s.boxCode i spres kind b p with
      | some c => s.refuseCommand k o c
      | none => accept s side p
    if need = 0 then record s side Spr.empty
    else if !s.baseOk i.job spres b.asp b.aux 16 || !inRange 0 32 then s.refuseCommand k o 2
    else s.withSide k o i e kind b first 32 r side (fun s side =>
      if !sprOk ((allRead (side.take 32)).getD []) first count then s.refuseCommand k o 1
      else if !inRange (32 + 8 * first) (8 * count) then s.refuseCommand k o 2
      else s.withSide k o i e kind b first need r side (fun s side =>
        let bs := (allRead side).getD []
        if !sprTableOk bs count then s.refuseCommand k o 1 else record s side (Spr.of bs)))
  else match s.boxCode i spres kind b Spr.empty with
    | some c => s.refuseCommand k o c
    | none => s.withSide k o i e kind b first need r side (fun s side => accept s side Spr.empty)

/-- MERGE at the head of the store queue (R239, R394). -/
def State.acceptMerge (s : State) (k : Nat) (o : Op) (i : Issuer) (spres : Nat) (e : EngineRef) (kind : CmdKind) (r : List Byte) : State :=
  let m := MergeRecord.of r
  if !m.fieldsOk then s.refuseCommand k o 1
  else if !s.mergeOk i spres m then s.refuseCommand k o 2
  else s.acceptWith k o i e kind r [] (m.cap * m.size) 1 m.bar []

/-! ### Seals, arrivals, completion (R117, R120, R233, R234) -/

/-- Every access of the command has been performed and answered. -/
def Cmd.accessed (c : Cmd) : Bool :=
  c.awaiting.isEmpty && c.unperformed.isEmpty && (match c.kind with
    | .merge _ => c.merge.counted
    | _ => c.next == c.total)

/-- HANDLE of a record that asks for a seal (R229). -/
def Cmd.sealHandle (c : Cmd) : Option (BitVec 16) :=
  match c.kind with
  | .merge _ => none
  | .kvld | .attn => if (fieldAt c.record 0x28 1).testBit 0 then some (BitVec.ofNat 16 (fieldAt c.record 0x22 2)) else none
  | _ => if (Box.of c.record).sealing then some (Box.of c.record).handle else none

/-- Every write of a command at a target has been performed. -/
def Cmd.writtenAt (c : Cmd) (total t : Nat) : Bool :=
  decide (total ≤ (mgetD c.performed t (0, 0)).1) && !c.unperformed.any (fun x => x.2 == t)

/-- The targets whose seal point is due: every write there was performed in an earlier cycle (R234). -/
def Cmd.sealsDue (c : Cmd) (total cycle : Nat) : List Nat :=
  if c.sealHandle.isNone then []
  else c.targets.filter (fun t => !c.sealedIn.contains t && c.writtenAt total t && decide ((mgetD c.performed t (0, 0)).2 < cycle))

/-- Seal a pod of a saved image, where firmware performs every access (R73): its slots are all performed at once. -/
def Cluster.sealNow (c : Cluster) (j point : Nat) : Cluster :=
  let d := c.pod j
  let gs := granulesOf d.base d.footprint
  let x : Seal := { pod := j, point := point, due := [], full := gs.filter (fun g => c.gran (16 * g) == .full) }
  let m := x.mask d
  let e : Pod := { d.setState 2 with
    w0 := setField (d.setState 2).w0 53 8 (x.ocount c d), w2 := word (m % 2 ^ 64), w3 := word (m / 2 ^ 64) }
  (gs.foldl (fun (c : Cluster) g => c.setGran g .sealed) c).setPod j e

/-- Seal the pod that a handle names in the context of a job on a cluster (R73, R234): none where it is not live, or SEALED. -/
def State.sealPlaced (s : State) (p : Place) (h : BitVec 16) (cmd : Option (EngineRef × Nat)) : State × Option Nat :=
  match (s.placed p).live (h.setWidth 64) with
  | none => (s, none)
  | some j =>
    let d := (s.placed p).pod j
    if d.state = 2 then (s.setPlaced p ((s.placed p).setPod j { d with w0 := d.w0 ||| BitVec.twoPow 64 62 }), none)
    else match p with
      | .live cl => (s.beginSeal cl j false cmd, some j)
      | .kept _ _ => (s.setPlaced p ((s.placed p).sealNow j s.cycle), some j)

/-- Seal the pod that a handle names in a target (R234): one that is not live or is SEALED counts as a refused write. In another
module an atomic request asks for it (log entry 56). -/
def State.engineSeal (s : State) (e : EngineRef) (c : Cmd) (h : BitVec 16) (a : Word) (t : Nat) : State :=
  let note := fun (s : State) => s.modCommand e c.id (fun c => { c with sealedIn := c.sealedIn ++ [t] })
  if t = elsewhere then
    if s.sendReady (s.engineEndpoint e) c a 24 1 then note (s.engineAtomic e c (2 ^ 40 + 2) a (.seal h)) else s
  else
    let refuse := fun (s : State) => s.refuseIssuer c.issuer (setField a 22 14 t)
    match s.place c.issuer.job t with
    | none => refuse (note s)
    | some p => match (note s).sealPlaced p h (some (e, c.id)) with
      | (s, some _) => s
      | (s, none) => refuse s

/-- The seal that a command asked for in a target is over. -/
def State.sealOver (s : State) (e : EngineRef) (c : Cmd) (t : Nat) : Bool :=
  c.sealHandle.isNone || (c.sealedIn.contains t && !(s.cluster t).seals.any (fun x => x.cmd == some (e, c.id)) &&
    !c.awaiting.any (fun x => x.1 == 2 ^ 40 + 2))

/-- The seals that a command asked for are over. -/
def State.sealsOver (s : State) (e : EngineRef) (c : Cmd) : Bool := c.sealHandle.isNone || c.targets.all (s.sealOver e c)

/-- The last subtraction and the arrival on the barrier in a cluster of this module, one update after the other (R120, R348). -/
def State.endAt (s : State) (c : Cmd) (t left : Nat) : State :=
  let s := if left = 0 then s else s.barrierChange c.issuer.job t c.barrier (fun b => b.subBytes left)
  s.barrierChange c.issuer.job t c.barrier Barrier.arrive

/-- The last subtraction and the arrival on the barrier of one target of a multicast (R235, R382, R392). -/
def State.arriveIn (s : State) (e : EngineRef) (c : Cmd) (t : Nat) : State :=
  let s := if c.barrier = 0 then s else s.endAt c t (if c.kind.late then c.left else 0)
  s.modCommand e c.id (fun c => { c with arrivedIn := c.arrivedIn ++ [t] })

/-- The last subtraction and the arrival on the barrier (R120); one in another module answers the subtraction before the arrival is
sent. -/
def State.engineArrive (s : State) (e : EngineRef) (c : Cmd) : State :=
  if s.barrierAway c then
    if !s.sendReady (s.engineEndpoint e) c c.barrier 24 1 then s
    else if !c.subSent && c.left + c.owed != 0 then
      (s.engineAtomic e c (2 ^ 40) c.barrier (.barrierSub (c.left + c.owed))).modCommand e c.id (fun c => { c with subSent := true, owed := 0 })
    else (s.engineAtomic e c (2 ^ 40 + 1) c.barrier .arrive).modCommand e c.id (fun c => { c with arrived := true })
  else
    let s := (s.barrierClusters c).foldl (fun (s : State) cl => s.endAt c cl c.left) s
    s.modCommand e c.id (fun c => { c with arrived := true })

/-- The command completes: it is retired, with its error if it has one, and the timeline advances (R225, R243). -/
def State.engineRetire (s : State) (e : EngineRef) (c : Cmd) : State :=
  let s := match c.error with
    | some (cause, a) => s.engineError c.issuer (engineCode e) cause (engineDetail e) c.id a
    | none => s
  s.setContext e ((s.context e).complete c.id)

/-- The targets of a multicast that may have their subtraction and arrival: each after its own writes and its own seal. -/
def State.arrivalsDue (s : State) (e : EngineRef) (c : Cmd) (total : Nat) : List Nat :=
  c.targets.filter (fun t => !c.arrivedIn.contains t && c.writtenAt total t && s.sealOver e c t)

/-- The steps after the last access of a command, as far as they can be taken now: seals, then subtractions and
arrival, then completion. -/
def State.engineEnd (s : State) (e : EngineRef) (c : Cmd) (total : Nat) (a : Word) (accessed : Bool) : State :=
  let due := c.sealsDue total s.cycle
  if due ≠ [] then due.foldl (fun (s : State) t => s.engineSeal e c (c.sealHandle.getD 0) a t) s
  else if c.kind.multi then
    let ts := s.arrivalsDue e c total
    if ts ≠ [] then ts.foldl (fun (s : State) t => s.arriveIn e c t) s
    else if accessed && c.targets.all c.arrivedIn.contains then s.engineRetire e c else s
  else if !accessed || !s.sealsOver e c then s
  else if !c.arrived then
    let s := s.engineArrive e c
    match s.command? e c.id with
    | some d => if d.arrived && d.awaiting.isEmpty then s.engineRetire e d else s
    | none => s
  else s.engineRetire e c

end Sys2Proof.Machine
end

