-- ==== Sys2Proof/Machine/Pages.lean ====
section
/-! DEFINITION. Key-value pages and the page unit (R245 to R260, R381, R405, R406). Each page instruction is one indivisible
step: a function from the state that either fails with the detail of a status, changing nothing, or succeeds. -/

namespace Sys2Proof.Machine

/-- Why a step of the page unit fails: the detail of its status (R254), and what its access lacked by then. -/
structure PageError where
  detail : Nat
  reach : Option Reach
  deriving DecidableEq, Repr

/-- The step failed for want of what must be asked for first. -/
def PageError.lacks (e : PageError) : Bool := e.reach.any Reach.lacks

/-- A step of the page unit: it fails with a detail (R254), or goes on. -/
abbrev PageStep (α : Type) := StateT State (Except PageError) α

/-- The step fails with a detail. -/
def pageFail {α : Type} (detail : Nat) : PageStep α := fun s => .error ⟨detail, s.reach⟩

/-- The step fails with a detail when a condition holds. -/
def pageFailIf (b : Bool) (detail : Nat) : PageStep Unit := fun s => if b then .error ⟨detail, s.reach⟩ else .ok ((), s)

/-! ### Places -/

/-- The physical address of a page (R245). -/
def pageBase (id : Nat) : Nat := id % 4096 / 32 * 2 ^ 36 + id / 4096 % 65536 * 2 ^ 20 + id % 32 * 2 ^ 15

/-- The attention unit that owns a page: unit (ch mod 32) div 4 of stack ch div 32, its fabric address (R245, R274). -/
def State.ownerOf (s : State) (id : Nat) : Word :=
  s.endpoint 3 (id % 4096 / 64) (8 * (id % 4096 / 32 % 2) + id % 4096 % 32 / 4)

/-- Read physical bytes within a line. -/
def physRead (pa n : Nat) : PageStep (List Byte) := fun s =>
  if !physical pa || (mget s.bad (pa / 128)).isSome then .error ⟨2, s.reach⟩
  else
    let (s, bs) := s.readFrom s.asker pa n
    .ok (bs, s)

/-- Write physical bytes within a line. -/
def physWrite (pa : Nat) (bs : List Byte) : PageStep Unit := fun s =>
  if !physical pa || (mget s.bad (pa / 128)).isSome then .error ⟨2, s.reach⟩ else .ok ((), s.writeFrom pa bs)

/-- Read physical bytes, line by line. -/
def physReads : Nat → Nat → Nat → PageStep (List Byte)
  | 0, _, _ => pure []
  | fuel + 1, pa, n =>
    if n = 0 then pure []
    else do
      let k := min n (128 - pa % 128)
      let x ← physRead pa k
      let y ← physReads fuel (pa + k) (n - k)
      pure (x ++ y)

/-- Write physical bytes, line by line. -/
def physWrites : Nat → Nat → List Byte → PageStep Unit
  | 0, _, _ => pure ()
  | fuel + 1, pa, bs =>
    if bs = [] then pure ()
    else do
      let k := min bs.length (128 - pa % 128)
      physWrite pa (bs.take k)
      physWrites fuel (pa + k) (bs.drop k)

/-- Translate an access of the page unit with the issuer's address space and mode; a fault is code 0x02 (R251). -/
def pageTranslate (i : Issuer) (need : Need) (va : Word) : PageStep Nat := fun s =>
  match s.translate (i.cl / 256) i.asid i.mode need va with
  | (s, .ok (pa, _)) => .ok (pa, s)
  | (s, .error _) => .error ⟨2, s.reach⟩

/-- Read virtual bytes, line by line. -/
def virtReads (i : Issuer) : Nat → Word → Nat → PageStep (List Byte)
  | 0, _, _ => pure []
  | fuel + 1, va, n =>
    if n = 0 then pure []
    else do
      let k := min n (128 - va.toNat % 128)
      let pa ← pageTranslate i .load va
      let x ← physRead pa k
      let y ← virtReads i fuel (va + word k) (n - k)
      pure (x ++ y)

/-- Write virtual bytes, line by line. -/
def virtWrites (i : Issuer) : Nat → Word → List Byte → PageStep Unit
  | 0, _, _ => pure ()
  | fuel + 1, va, bs =>
    if bs = [] then pure ()
    else do
      let k := min bs.length (128 - va.toNat % 128)
      let pa ← pageTranslate i .store va
      physWrite pa (bs.take k)
      virtWrites i fuel (va + word k) (bs.drop k)

/-- Read `n` bytes at a virtual address. -/
def virtRead (i : Issuer) (va : Word) (n : Nat) : PageStep (List Byte) := virtReads i (n / 128 + 2) va n

/-- Write bytes at a virtual address. -/
def virtWrite (i : Issuer) (va : Word) (bs : List Byte) : PageStep Unit := virtWrites i (bs.length / 128 + 2) va bs

/-- Read and write within a page. -/
def pageRead (id off n : Nat) : PageStep (List Byte) := physReads (n / 128 + 2) (pageBase id + off) n
def pageWrite (id off : Nat) (bs : List Byte) : PageStep Unit := physWrites (bs.length / 128 + 2) (pageBase id + off) bs

/-! ### Page sets (R246, R247) -/

/-- An entry of the channel table (R247). -/
structure Channel where
  ch : Nat
  slot0 : Nat
  nslot : Nat
  bitmap : Word
  deriving DecidableEq, Repr

/-- A page set descriptor with its channel table (R246). -/
structure PageSet where
  d : Nat
  layout : Nat
  freq : Word
  htab : Word
  nbuck : Nat
  chans : List Channel
  deriving DecidableEq, Repr

/-- The 64 bytes of a PSD obey R246. -/
def psdOk (b : List Byte) : Bool :=
  let d := fieldAt b 2 2
  let layout := fieldAt b 4 1
  let nb := fieldAt b 0x20 4
  fieldAt b 0 2 == 1 && decide (layout ≤ 1) && d % 2 == 0 && decide (2 ≤ d) && decide (d ≤ (if layout = 0 then 128 else 256)) &&
  fieldAt b 5 1 == 0 && decide (1 ≤ fieldAt b 6 2) && decide (fieldAt b 6 2 ≤ 4096) && fieldAt b 8 8 % 16 == 0 &&
  fieldAt b 0x10 8 % 16 == 0 && fieldAt b 0x18 8 % 64 == 0 && decide (1 ≤ nb) && nb == 2 ^ Nat.log2 nb && decide (nb ≤ 2 ^ 24) &&
  fieldAt b 0x24 4 == 0 && fieldAt b 0x38 8 == 0

/-- The entries of a channel table, and whether each obeys R247. -/
def channelsOf (t : List Byte) (n : Nat) : List Channel :=
  (List.range n).map (fun e => ⟨fieldAt t (16 * e) 2, fieldAt t (16 * e + 2) 2, fieldAt t (16 * e + 4) 2, word (fieldAt t (16 * e + 8) 8)⟩)
def channelOk (c : Channel) : Bool :=
  decide (c.ch ≤ 4095) && decide (1 ≤ c.nslot) && decide (c.slot0 + c.nslot ≤ 49152) && c.bitmap.toNat % 8 == 0

/-- No two entries name overlapping slots (R247). -/
def channelsApart : List Channel → Bool
  | [] => true
  | c :: cs => cs.all (fun e => e.ch != c.ch || !meets (c.slot0, c.slot0 + c.nslot) (e.slot0, e.slot0 + e.nslot)) && channelsApart cs

/-- The page set of a PSD and its channel table. -/
def PageSet.of (b t : List Byte) : PageSet :=
  ⟨fieldAt b 2 2, fieldAt b 4 1, word (fieldAt b 8 8), word (fieldAt b 0x18 8), fieldAt b 0x20 4, channelsOf t (fieldAt b 6 2)⟩

/-- The page unit of the PSD's home die serves the step: its accesses are that endpoint's, and the step waits while the unit has another
under way (R251, R274; that it takes one at a time over all its sets is the model's choice, log entry 58). -/
def servedBy (i : Issuer) (psd : Word) : PageStep Unit := do
  let pa ← pageTranslate i .load psd
  modify (fun s =>
    let u := s.pageUnitAddr (homeDie pa)
    match s.reach with
    | none => s
    | some r =>
      if s.net.asks.any (fun a => a.unit == some u && some a.id != r.ask) then { s with reach := some { r with waits := true } }
      else { s with reach := some { r with src := u, unit := some u } })

/-- Read and check a PSD (code 0x02). -/
def readDescriptor (i : Issuer) (psd : Word) : PageStep (List Byte) := do
  servedBy i psd
  let b ← virtRead i psd 64
  pageFailIf (!psdOk b) 2
  pure b

/-- Read and check the channel table of a PSD (code 0x02). -/
def readChannels (i : Issuer) (b : List Byte) : PageStep PageSet := do
  let n := fieldAt b 6 2
  let t ← virtRead i (word (fieldAt b 0x10 8)) (16 * n)
  let p := PageSet.of b t
  pageFailIf (!(p.chans.all channelOk && (List.range n).all (fun e => fieldAt t (16 * e + 6) 2 == 0) && channelsApart p.chans)) 2
  pure p

/-- Read and check a PSD and its channel table (code 0x02). -/
def readSet (i : Issuer) (psd : Word) : PageStep PageSet := do
  let b ← readDescriptor i psd
  readChannels i b

/-! ### Headers (R249) -/

/-- A page header. -/
structure Header where
  tag : Nat
  pb : Nat
  ref : Nat
  fill : Nat
  flags : Nat
  kscale : Nat
  vscale : Nat
  kzero : Nat
  vzero : Nat
  skscale : Nat
  ocount : Nat
  layout : Nat
  hdim : Nat
  deriving DecidableEq, Repr

/-- The header in the first 36 bytes of a page. -/
def Header.of (b : List Byte) : Header :=
  { tag := fieldAt b 0 16, pb := fieldAt b 0x10 4, ref := fieldAt b 0x14 2, fill := fieldAt b 0x16 1, flags := fieldAt b 0x17 1
    kscale := fieldAt b 0x18 2, vscale := fieldAt b 0x1A 2, kzero := fieldAt b 0x1C 1, vzero := fieldAt b 0x1D 1
    skscale := fieldAt b 0x1E 2, ocount := fieldAt b 0x20 1, layout := fieldAt b 0x21 1, hdim := fieldAt b 0x22 2 }

def Header.kf (h : Header) : Bool := h.flags.testBit 0
def Header.vf (h : Header) : Bool := h.flags.testBit 1
def Header.tagged (h : Header) : Bool := h.flags.testBit 2

/-- Read a page's header. -/
def readHeader (id : Nat) : PageStep Header := do
  let b ← pageRead id 0 36
  pure (Header.of b)

/-- The entry of the channel table that holds a page (R245, R247). -/
def PageSet.entry (p : PageSet) (id : Nat) : Option Channel :=
  if id / 2 ^ 28 != 0 then none
  else p.chans.find? (fun c => c.ch == id % 4096 && decide (c.slot0 ≤ id / 4096) && decide (id / 4096 < c.slot0 + c.nslot))

/-- PAGE is an allocated page of the set (codes 0x03 and 0x04): its entry and its header. -/
def findPage (p : PageSet) (id : Nat) : PageStep (Channel × Header) :=
  match p.entry id with
  | none => pageFail 3
  | some c => do
    let h ← readHeader id
    pageFailIf (h.ref == 0) 4
    pure (c, h)

/-! ### The hash table (R257) -/

/-- The distinct buckets of a tag's probe window, in order. -/
def PageSet.window (p : PageSet) (tag : Nat) : List Word :=
  (List.range (min 8 p.nbuck)).map (fun n => p.htab + word (64 * ((tag + n) % p.nbuck)))

/-- The entries of a bucket: address, tag, ID. -/
def readBucket (i : Issuer) (a : Word) : PageStep (List (Word × Nat × Nat)) := do
  let b ← virtRead i a 64
  pure ((List.range 3).map (fun e => (a + word (20 * e), fieldAt b (20 * e) 16, fieldAt b (20 * e + 16) 4)))

/-- The entries of a tag's probe window. -/
def readWindow (i : Issuer) (p : PageSet) (tag : Nat) : PageStep (List (Word × Nat × Nat)) := do
  let bs ← (p.window tag).mapM (readBucket i)
  pure bs.flatten

/-- The ID of an empty entry. -/
def emptyId : Nat := 0xFFFFFFFF

/-- Empty a page's hash entries and clear TAGGED (R256, R259). -/
def untag (i : Issuer) (p : PageSet) (id : Nat) (h : Header) : PageStep Unit :=
  if !h.tagged then pure ()
  else do
    let es ← readWindow i p h.tag
    (es.filter (fun e => e.2.2 == id)).forM (fun e => virtWrite i e.1 (natBytes 16 0 ++ natBytes 4 emptyId))
    pageWrite id 0x17 [BitVec.ofNat 8 (h.flags - 4)]

/-! ### The instructions -/

/-- f16 finite and above zero (R249). -/
def scaleOk (x : Nat) : Bool := decide (0 < x) && decide (x < 0x7C00)

/-- Bytes of a record that lie outside some ranges are zero (R253). -/
def zeroOutside (r : List Byte) (used : List (Nat × Nat)) : Bool :=
  (r.zipIdx).all (fun e => e.1 == 0 || used.any (fun u => decide (u.1 ≤ e.2) && decide (e.2 < u.2)))

/-- A canonical virtual address with an alignment. -/
def virtOk (a align : Nat) : Bool := canonical (word a) && a % align == 0

/-- The lowest 0 bit below a limit in the words of a bitmap, word by word. -/
def freeBit (i : Issuer) (c : Channel) : List Nat → PageStep (Option Nat)
  | [] => pure none
  | w :: ws => do
    let b ← virtRead i (c.bitmap + word (8 * w)) 8
    match (List.range 64).find? (fun n => decide (64 * w + n < c.nslot) && !(leNat b).testBit n) with
    | some n => pure (some (64 * w + n))
    | none => freeBit i c ws

/-- Change a bit of a bitmap. -/
def setBitmap (i : Issuer) (c : Channel) (n : Nat) (v : Bool) : PageStep Unit := do
  let a := c.bitmap + word (8 * (n / 64))
  let b ← virtRead i a 8
  let x := leNat b
  let y := if v then x ||| 2 ^ (n % 64) else if x.testBit (n % 64) then x - 2 ^ (n % 64) else x
  virtWrite i a (natBytes 8 y)

/-- The first entry, in the order of the cursor, with a free page (R255). -/
def findFree (i : Issuer) (p : PageSet) : List Nat → PageStep (Option (Nat × Channel × Nat))
  | [] => pure none
  | e :: es =>
    match p.chans[e]? with
    | none => findFree i p es
    | some c => do
      match ← freeBit i c (List.range ((c.nslot + 63) / 64)) with
      | some b => pure (some (e, c, b))
      | none => findFree i p es

/-- PB above its bound (code 0x17). -/
def basesAbove (pb : Nat) : Bool := decide (2 ^ 28 - 64 < pb)

/-- PGALLOC (R255, R405, R406). The bytes of the header that R249 does not list are zero. -/
def pgalloc (i : Issuer) (r : List Byte) : PageStep Nat := do
  let clone := (fieldAt r 0x20 1).testBit 7
  let kf := (fieldAt r 0x20 1).testBit 0
  let vf := (fieldAt r 0x20 1).testBit 1
  let used := if clone then [(0, 12), (0x10, 0x18), (0x20, 0x21)] else [(0, 8), (0x0C, 0x18), (0x20, 0x21), (0x22, 0x2A)]
  let formats := if clone then fieldAt r 0x20 1 == 128
    else decide (fieldAt r 0x20 1 ≤ 3) && scaleOk (fieldAt r 0x22 2) && scaleOk (fieldAt r 0x24 2) && scaleOk (fieldAt r 0x28 2) &&
      decide (fieldAt r 0x26 1 ≤ 254) && decide (fieldAt r 0x27 1 ≤ 254) && (kf || fieldAt r 0x26 1 == 0) && (vf || fieldAt r 0x27 1 == 0)
  pageFailIf (!(zeroOutside r used && virtOk (fieldAt r 0 8) 64 && virtOk (fieldAt r 0x10 8) 8 && formats)) 1
  let p ← readSet i (word (fieldAt r 0 8))
  let cursor := word (fieldAt r 0x10 8)
  let cur ← virtRead i cursor 8
  if clone then
    let _ ← findPage p (fieldAt r 8 4)
  let n := p.chans.length
  let start := fieldAt cur 0 4 % n
  match ← findFree i p ((List.range n).map (fun k => (start + k) % n)) with
  | none => pageFail 0x10
  | some (e, c, b) =>
    pageFailIf (!clone && basesAbove (fieldAt r 0x0C 4)) 0x17
    setBitmap i c b true
    let id := (c.slot0 + b) * 4096 + c.ch
    virtWrite i cursor (natBytes 8 ((e + 1) % n))
    if clone then
      let body ← pageRead (fieldAt r 8 4) 0x100 0x7F00
      pageWrite id 0x100 body
      let head ← pageRead (fieldAt r 8 4) 0x10 0x14
      pageWrite id 0x10 head
    else
      pageWrite id 0x10 (natBytes 4 (fieldAt r 0x0C 4))
      pageWrite id 0x16 (natBytes 1 0 ++ natBytes 1 (fieldAt r 0x20 1 % 4) ++ natBytes 4 (fieldAt r 0x22 4) ++
        natBytes 2 (fieldAt r 0x26 2) ++ natBytes 2 (fieldAt r 0x28 2) ++ natBytes 1 0 ++ natBytes 1 p.layout ++ natBytes 2 p.d)
      pageWrite id 0x100 (List.replicate 256 0)
    pageWrite id 0x24 (List.replicate 220 0)
    let h ← readHeader id
    pageWrite id 0 (List.replicate 16 0)
    pageWrite id 0x14 (natBytes 2 1)
    pageWrite id 0x17 (natBytes 1 (h.flags - (if h.tagged then 4 else 0)))
    pure id

/-- The record of an instruction on PAGE, with the ranges it uses. -/
def pageRecordOk (r : List Byte) (used : List (Nat × Nat)) : Bool := zeroOutside r used && virtOk (fieldAt r 0 8) 64

/-- PGFREE (R256). -/
def pgfree (i : Issuer) (r : List Byte) : PageStep Nat := do
  pageFailIf (!pageRecordOk r [(0, 12)]) 1
  let p ← readSet i (word (fieldAt r 0 8))
  let id := fieldAt r 8 4
  let (c, h) ← findPage p id
  if h.ref = 1 then
    setBitmap i c (id / 4096 - c.slot0) false
    untag i p id h
  pageWrite id 0x14 (natBytes 2 (h.ref - 1))
  pure (h.ref - 1)

/-- PGFORK (R256). -/
def pgfork (i : Issuer) (r : List Byte) : PageStep Nat := do
  pageFailIf (!pageRecordOk r [(0, 12)]) 1
  let p ← readSet i (word (fieldAt r 0 8))
  let id := fieldAt r 8 4
  let (_, h) ← findPage p id
  pageFailIf (h.ref == 65535) 0x11
  pageWrite id 0x14 (natBytes 2 (h.ref + 1))
  pure (h.ref + 1)

/-- PGLOOK (R258). -/
def pglook (i : Issuer) (r : List Byte) : PageStep Nat := do
  pageFailIf (!pageRecordOk r [(0, 8), (0x10, 0x20)]) 1
  let p ← readSet i (word (fieldAt r 0 8))
  let tag := fieldAt r 0x10 16
  let es ← readWindow i p tag
  match es.find? (fun e => e.2.1 == tag && e.2.2 != emptyId) with
  | none => pageFail 0x12
  | some (_, _, id) =>
    let h ← readHeader id
    pageFailIf (h.ref == 65535) (id * 2 ^ 16 + 0x11)
    pageWrite id 0x14 (natBytes 2 (h.ref + 1))
    pure id

/-- PGINS (R258). -/
def pgins (i : Issuer) (r : List Byte) : PageStep Nat := do
  pageFailIf (!pageRecordOk r [(0, 12), (0x10, 0x20)]) 1
  let p ← readSet i (word (fieldAt r 0 8))
  let id := fieldAt r 8 4
  let (_, h) ← findPage p id
  pageFailIf h.tagged 0x15
  let tag := fieldAt r 0x10 16
  let es ← readWindow i p tag
  match es.find? (fun e => e.2.1 == tag && e.2.2 != emptyId), es.find? (fun e => e.2.2 == emptyId) with
  | some (_, _, x), _ => pageFail (x * 2 ^ 16 + 0x13)
  | none, none => pageFail 0x14
  | none, some (a, _, _) =>
    virtWrite i a (natBytes 16 tag ++ natBytes 4 id)
    pageWrite id 0 (natBytes 16 tag)
    pageWrite id 0x17 (natBytes 1 (h.flags + 4))
    pure 0

/-- PGSHIFT (R259). -/
def pgshift (i : Issuer) (r : List Byte) : PageStep Nat := do
  pageFailIf (!pageRecordOk r [(0, 16)]) 1
  let p ← readSet i (word (fieldAt r 0 8))
  let id := fieldAt r 8 4
  let (_, h) ← findPage p id
  pageFailIf (decide (1 < h.ref)) 0x16
  pageFailIf (basesAbove (fieldAt r 0x0C 4)) 0x17
  pageWrite id 0x10 (natBytes 4 (fieldAt r 0x0C 4))
  untag i p id h
  pure h.pb

/-! ### Appending (R260) -/

/-- The value of an exact outcome. -/
def Res.value : Res → Val
  | .nan _ => .nan
  | .inf s _ => .inf s
  | .ex x => .fin x.neg x.m x.e

/-- An integer as a value. -/
def valOfInt (k : Int) : Val := .fin (decide (k < 0)) k.natAbs 0

/-- Whether the exact quotient of two finite values, the second no zero, exceeds 448 in magnitude. -/
def above448 (x s : Val) : Bool := compareVal x.abs (mulVal s.abs (.fin false 448 0)).value == .gt

/-- The code of an element, or none when it elects an outlier entry (R260). The scale may be any f16 value: another
agent's write may have left it (R247). A quotient that is a NaN of an element that is none rounds to the NaN code of
e4m3, and elects in q8. -/
def kvCode (q8 : Bool) (scale zp : Nat) (x : Val) : Option Nat :=
  let s := decodeF .f16 scale
  if q8 then
    match x, divVal x s with
    | .fin _ _ _, .ex y =>
      let k := (y.toInt 0).1 + (zp : Int)
      if k < 0 ∨ 254 < k then none else some k.toNat
    | _, _ => none
  else
    match x, s, divVal x s with
    | .nan, _, _ => none
    | _, _, .inf _ _ => none
    | _, .fin _ _ _, .ex y => if above448 x s then none else some ((Res.ex y).rne .e4m3)
    | _, _, r => some (r.rne .e4m3)

/-- The decoded value of an element (R250): `want` is its page index, `list` the entries in use. -/
def kvDecode (q8 : Bool) (scale zp code want : Nat) (list : List Nat) : Val :=
  if (if q8 then code = 0xFF else code % 128 = 0x7F) then
    match list.find? (fun e => e % 2 ^ 14 == want) with
    | some e => decodeF .bf16 (e / 2 ^ 14 % 2 ^ 16)
    | none => .fin false 0 0
  else
    (mulVal (if q8 then valOfInt ((code : Int) - (zp : Int)) else decodeF .e4m3 code) (decodeF .f16 scale)).value

/-- The sketch of a decoded key value (R260). -/
def sketch (skscale : Nat) (v : Val) : Int :=
  match divVal v (decodeF .f16 skscale) with
  | .nan _ => 0
  | .inf s _ => if s then -8 else 7
  | .ex y => max (-8) (min 7 (y.toInt 0).1)

/-- The radius (R260): f16, rounded up, of the root of the exact sum of squares. A scale that is no finite value makes
every product with it, and so the sum, a NaN or an infinity. -/
def radius (skscale : Nat) (kvs : List Val) : Nat :=
  if (decodeF .f16 skscale :: kvs).any (fun v => match v with
    | .fin _ _ _ => false
    | _ => true) then 0x7C00
  else
    let unit := fun (v : Val) => match v with
      | .fin n m e => scaled n m e (-200)
      | _ => 0
    let sk := unit (decodeF .f16 skscale)
    let sum := (kvs.map (fun v => (unit v - sketch skscale v * sk) * (unit v - sketch skscale v * sk))).sum
    if sum = 0 then 0 else ((sqrtExact sum.natAbs (-400)).round .f16 3).1

/-- A half of a position: its codes, and the entries it elects, in ascending dimension. `base` is the page index of
dimension 0. -/
def kvHalf (q8 : Bool) (scale zp base : Nat) (xs : List Nat) : List Nat × List Nat :=
  let cs := xs.map (fun x => kvCode q8 scale zp (val32 x))
  (cs.map (fun c => c.getD (if q8 then 0xFF else 0x7F)),
   ((xs.zip cs).zipIdx.filter (fun e => e.1.2.isNone)).map (fun e =>
     (convertF (val32 e.1.1) .bf16 0 false).1 * 2 ^ 14 + base + e.2))

/-- KVAPP (R260, R381). The end of SRC is checked, under code 0x01, as soon as the PSD has given D. -/
def kvapp (i : Issuer) (spres : Nat) (r : List Byte) : PageStep Nat := do
  let s ← get
  let a := word (fieldAt r 0x10 8)
  let c := s.cluster i.cl
  let fits := fun n => (s.checkLocal i.job spres a 16).isNone && s.namesCluster i.job i.cl a && c.inPlain (offsetOf a) n
  pageFailIf (!(pageRecordOk r [(0, 12), (0x10, 0x18)] && fits 16)) 1
  let b ← readDescriptor i (word (fieldAt r 0 8))
  pageFailIf (!fits (8 * fieldAt b 2 2)) 1
  let p ← readChannels i b
  let id := fieldAt r 8 4
  let (_, h) ← findPage p id
  pageFailIf (decide (1 < h.ref)) 0x16
  pageFailIf (decide (positions p.layout ≤ h.fill)) 0x18
  let data := c.read (offsetOf a) (8 * p.d)
  let xs := (List.range (2 * p.d)).map (fun n => fieldAt data (4 * n) 4)
  let st := rowStride p.layout
  let row := h.fill * st
  let (ks, ke) := kvHalf h.kf h.kscale h.kzero row (xs.take p.d)
  let (vs, ve) := kvHalf h.vf h.vscale h.vzero (8192 + row) (xs.drop p.d)
  let new := ke ++ ve
  pageFailIf (decide (64 < h.ocount + new.length)) 0x19
  let old ← pageRead id 0x100 (4 * h.ocount)
  let list := (List.range h.ocount).map (fun n => fieldAt old (4 * n) 4) ++ new
  let kvs := ks.zipIdx.map (fun e => kvDecode h.kf h.kscale h.kzero e.1 (row + e.2) list)
  let sks := kvs.map (fun v => ((sketch h.skscale v) % 16).toNat)
  let pad := fun (l : List Nat) (n : Nat) => l ++ List.replicate (n - l.length) 0
  pageWrite id (0x200 + row) ((pad ks st).flatMap (natBytes 1))
  pageWrite id (0x2200 + row) ((pad vs st).flatMap (natBytes 1))
  pageWrite id (0x100 + 4 * h.ocount) (new.flatMap (natBytes 4))
  pageWrite id (0x4200 + row / 2) ((List.range (st / 2)).flatMap (fun n =>
    natBytes 1 (sks.getD (2 * n) 0 + 16 * sks.getD (2 * n + 1) 0)))
  pageWrite id (0x5200 + 2 * h.fill) (natBytes 2 (radius h.skscale kvs))
  pageWrite id 0x20 (natBytes 1 (h.ocount + new.length))
  pageWrite id 0x16 (natBytes 1 (h.fill + 1))
  pure (h.fill + 1)

/-- A page instruction's writes on other dies have been performed: it is over (R251). -/
def State.finishPage (s : State) (k n : Nat) : State :=
  match (s.pip k).bind (fun p => p.op n) with
  | some o => if o.phase = .fetching [] 6 then s.finish k o o.result else s
  | none => s

/-- A page instruction at the head of the store queue: its step, and the value or status for rd (R251), which waits for its writes on
other dies. -/
def State.performPage (s : State) (k : Nat) (o : Op) (i : Issuer) (spres : Nat) (kind : CmdKind) (r : List Byte) : State :=
  let step := match kind with
    | .pgalloc => pgalloc i r
    | .pgfree => pgfree i r
    | .pgfork => pgfork i r
    | .pglook => pglook i r
    | .pgins => pgins i r
    | .pgshift => pgshift i r
    | _ => kvapp i spres r
  match step.run s with
  | .ok (v, t) =>
    if t.reach.any (fun r => !r.writes.isEmpty) then
      t.modPip k (fun p => p.modOp o.id (fun o => { o with phase := .fetching [] 6, result := BitVec.ofNat 512 v }))
    else t.finish k o (BitVec.ofNat 512 v)
  | .error e => if e.lacks then { s with reach := e.reach } else s.finish k o ((statusWord e.detail).setWidth 512)

end Sys2Proof.Machine
end

