-- ==== Sys2Proof/Machine/Nma.lean ====
section
/-! DEFINITION. KVLD and ATTN on the near-memory attention units (R261 to R270, R344, R345, R382). -/

namespace Sys2Proof.Machine

/-! ### Rotation and scores -/

/-- A sum of exact values, from the first. -/
def sumVals : List Val → Val
  | [] => .fin false 0 0
  | v :: vs => vs.foldl (fun a b => (addVal a b 0).value) v

/-- The rotation's cosine and sine for PB + p and a frequency (R263). -/
def rotation (n f : Nat) : Val × Val :=
  let θ := match val32 f with
    | .fin s m e => Val.fin s (m * n) e
    | v => v
  let (sn, c) := sinCosRne θ
  (val32 c, val32 sn)

/-- A pair rotated exactly (R263). -/
def rotatePair (x y c sn : Val) : Val × Val :=
  ((addVal (mulVal x c).value (mulVal y sn).value.negate 0).value, (addVal (mulVal x sn).value (mulVal y c).value 0).value)

/-- A row of values rotated exactly, pair by pair. -/
def rotateRow (n : Nat) : List Nat → List Val → List Val
  | f :: fs, x :: y :: vs =>
    let (c, sn) := rotation n f
    let (a, b) := rotatePair x y c sn
    a :: b :: rotateRow n fs vs
  | _, _ => []

/-- A value rounded to nearest to a floating-point type. -/
def Val.roundTo (v : Val) (t : FType) : Nat := (convertF v t 0 false).1

/-- A page as a command has read it (R264): header, list, codes, sketches and radii. -/
structure PageImage where
  bytes : List Byte
  head : Header
  deriving DecidableEq, Repr

/-- The entries in use of the outlier list. -/
def PageImage.list (p : PageImage) : List Nat := (List.range p.head.ocount).map (fun n => fieldAt p.bytes (0x100 + 4 * n) 4)

/-- The decoded values of a key or value row (R250). -/
def PageImage.row (p : PageImage) (layout d pos : Nat) (value : Bool) : List Val :=
  let base := pos * rowStride layout
  (List.range d).map (fun i =>
    let code := fieldAt p.bytes ((if value then 0x2200 else 0x200) + base + i) 1
    if value then kvDecode p.head.vf p.head.vscale p.head.vzero code (8192 + base + i) p.list
    else kvDecode p.head.kf p.head.kscale p.head.kzero code (base + i) p.list)

/-- The sketch row in units of SKSCALE (R265). -/
def PageImage.sketchRow (p : PageImage) (layout d pos : Nat) : List Val :=
  (List.range d).map (fun i =>
    let b := fieldAt p.bytes (0x4200 + pos * rowStride layout / 2 + i / 2) 1
    (mulVal (valOfInt (sextInt (if i % 2 = 0 then b else b / 16) 4)) (decodeF .f16 p.head.skscale)).value)

/-- FILL as far as the page has positions. Another agent's write may leave more (R247), and the spec gives no meaning to those: they
are passed over, and KVAPP finds the page full (the model's choice, log entry 58). -/
def PageImage.fill (p : PageImage) (layout : Nat) : Nat := min p.head.fill (positions layout)

/-- The keys of R263, f32 encodings. -/
def PageImage.keys (p : PageImage) (layout d : Nat) (freq : List Nat) (pos : Nat) : List Nat :=
  (rotateRow (p.head.pb + pos) freq (p.row layout d pos false)).map (fun v => v.roundTo .f32)

/-- A finite value as a multiple of 2^-400. -/
def fixed400 : Val → Option Int
  | .fin s m e => some (scaled s m e (-400))
  | _ => none

/-- Σ a_i × b_i as a value, formed exactly. -/
def dot (xs ys : List Val) : Val := sumVals ((xs.zip ys).map (fun e => (mulVal e.1 e.2).value))

/-- b_p before the replacement of what is not finite (R265): s + √q2 × r, rounded toward +infinity; none when an operand
is not finite. -/
def bound (s1 q2 r : Val) : Option Nat :=
  match fixed400 s1, fixed400 q2, r with
  | some s, some q, .fin neg m e =>
    -- √(q × 2^-400) × m × 2^e in units of 2^-400, with its remainder
    let x := q.natAbs * m * m
    let sh : Int := 400 + 2 * e
    let y := if 0 ≤ sh then x * pow2 sh.toNat else x / pow2 (-sh).toNat
    let root := isqrt y
    let rest := root * root != y || (decide (sh < 0) && y * pow2 (-sh).toNat != x)
    let k := if neg then s - (root : Int) - (if rest then 1 else 0) else s + (root : Int)
    -- the value lies in [k, k + 1), above k when `rest`
    let ex : Exact := if 0 ≤ k then ⟨false, k.toNat, -400, rest⟩
      else if rest then ⟨true, k.natAbs - 1, -400, true⟩ else ⟨true, k.natAbs, -400, false⟩
    let b := (ex.round .f32 3).1
    match val32 b with
    | .fin _ _ _ => some b
    | _ => none
  | _, _, _ => none

/-- The greater of two f32 encodings, NaN if either is (R265: U). -/
def maxU (a b : Nat) : Nat :=
  if val32 a = .nan ∨ val32 b = .nan then FType.f32.nan else if lessF .f32 a b then b else a

/-- −infinity in f32. -/
def negInfinity : Nat := 2 ^ 31 + FType.f32.infinity

/-- One position of pass 2 (R266): sum and accumulators, f32 encodings. -/
def visit (u s : Nat) (vv : List Val) (x : Nat × List Nat) : Nat × List Nat :=
  let d := (addVal (val32 s) (val32 u).negate 0).rne .f32
  let e := (exp2Val (val32 d)).rne .f32
  ((addVal (val32 x.1) (val32 e) 0).rne .f32, (x.2.zip vv).map (fun a => (fmaVal (val32 e) a.2 (val32 a.1) 0).rne .f32))

/-- A triple of one page and head (R265 to R267): U, sum and the accumulators. -/
def PageImage.triple (p : PageImage) (layout d : Nat) (freq q : List Nat) (t : Nat) : Nat × Nat × List Nat :=
  let qs := q.map val32
  let q2 := dot qs qs
  let ps := List.range (p.fill layout)
  let score := fun (pos : Nat) => (dot qs ((p.keys layout d freq pos).map val32)).roundTo .f32
  let r := fun (pos : Nat) => decodeF .f16 (fieldAt p.bytes (0x5200 + 2 * pos) 2)
  let b := fun (pos : Nat) =>
    (bound (dot qs (rotateRow (p.head.pb + pos) freq (p.sketchRow layout d pos))) q2 (r pos)).getD (score pos)
  let bs := ps.map b
  let u := bs.foldl maxU negInfinity
  let skip := fun (bp : Nat) => match val32 u with
    | .fin _ _ _ => decide (0 < t) && compareVal (addVal (val32 bp) (.fin false t 0) 0).value (val32 u) == .lt
    | _ => false
  let visited := (ps.zip bs).filter (fun e => !skip e.2)
  let (sum, acc) := visited.foldl (fun x e => visit u (score e.1) (p.row layout d e.1 true) x) (0, List.replicate d 0)
  (u, sum, acc)

/-- The bytes of a triple (R267). -/
def tripleBytes (d u sum : Nat) (acc : List Nat) : List Byte :=
  let bs := natBytes 4 u ++ natBytes 4 sum ++ natBytes 8 0 ++ acc.flatMap (natBytes 4)
  bs ++ List.replicate (tripleSize d - bs.length) 0

/-- The triple of a page in error (R269). -/
def errorTriple (d : Nat) : List Byte := tripleBytes d negInfinity 0 (List.replicate d 0)

/-- A row of KVLD (R264): rotated keys, or decoded values, in the pod's format. -/
def PageImage.podRow (p : PageImage) (layout d fmt : Nat) (freq : List Nat) (values : Bool) (pos : Nat) : List Byte :=
  let t := if fmt = 4 then FType.f16 else if fmt = 5 then .bf16 else .f32
  let xs := if values then (p.row layout d pos true).map (fun v => v.roundTo t)
    else (p.keys layout d freq pos).map (fun k => (val32 k).roundTo t)
  xs.flatMap (natBytes (elementBytes fmt))

/-! ### Acceptance (R262) -/

/-- The 64 bytes of a PSD as a load of the issuer, if they can be read. -/
def State.readPsd (s : State) (i : Issuer) (a : Word) : State × Option (List Byte) :=
  match (virtRead i a 64).run s with
  | .ok (b, s) => (s, if psdOk b then some b else none)
  | .error e => ({ s with reach := e.reach }, none)

/-- The bytes lie in the plain region of the issuer's cluster, and the address passes R73. -/
def State.plainOk (s : State) (i : Issuer) (spres : Nat) (a : Word) (align n : Nat) : Bool :=
  (s.checkLocal i.job spres a align).isNone && s.namesCluster i.job i.cl a && (s.cluster i.cl).inPlain (offsetOf a) n

/-- Code 0x01 of R262. -/
def nmaFieldsOk (kind : CmdKind) (r : List Byte) : Bool :=
  let np := fieldAt r 0x20 2
  let h := fieldAt r 0x24 1
  decide (fieldAt r 0x26 2 ≤ 4095) && decide (1 ≤ np) && (r.drop 0x29).all (· == 0) &&
  (match kind with
    | .kvld => decide (np ≤ 4) && decide (h ≤ 127) && fieldAt r 0x25 1 == 0 && decide (fieldAt r 0x28 1 ≤ 3)
    | _ => decide (np ≤ 64) && decide (1 ≤ h) && decide (h ≤ 8) && decide (np * h ≤ 128) && decide (fieldAt r 0x25 1 ≤ 64) &&
      decide (fieldAt r 0x28 1 ≤ 1))

/-- Code 0x05 of R262: the pod that HANDLE names in the issuer's cluster suits the command. -/
def nmaPodOk (kind : CmdKind) (r psd : List Byte) (d : Pod) : Bool :=
  let np := fieldAt r 0x20 2
  let h := fieldAt r 0x24 1
  let dim := fieldAt psd 2 2
  match kind with
  | .kvld => (d.fmt == 4 || d.fmt == 5 || d.fmt == 6) && d.rowBytes == dim * elementBytes d.fmt &&
      decide (h + np * positions (fieldAt psd 4 1) ≤ d.rows)
  | _ => d.fmt == 6 && decide (np * h * tripleSize dim ≤ d.dataBytes)

/-- KVLD or ATTN at its channel (R262, R344, R382). -/
def State.acceptNma (s : State) (k : Nat) (o : Op) (i : Issuer) (spres : Nat) (e : EngineRef) (kind : CmdKind) (r : List Byte) : State :=
  let np := fieldAt r 0x20 2
  let bar := word (fieldAt r 0x10 8)
  let mask := word (fieldAt r 0x18 8)
  let kv := kind == .kvld
  let handle := word (fieldAt r 0x22 2)
  if !nmaFieldsOk kind r then s.refuseCommand k o 1
  else if !virtOk (fieldAt r 0 8) 64 || !s.barOk i.job spres bar || !s.plainOk i spres (word (fieldAt r 8 8)) 4 (4 * np) then
    s.refuseCommand k o 2
  else match s.readPsd i (word (fieldAt r 0 8)) with
    | (s, none) => s.refuseCommand k o 2
    | (s, some psd) =>
      let d := fieldAt psd 2 2
      if !kv && !s.plainOk i spres mask 16 (fieldAt r 0x24 1 * d * 4) then s.refuseCommand k o 2
      else if kv && !(maskTargets i.cl mask).all (fun c => s.holdsLaunch c i.launch) then s.refuseCommand k o 3
      else match (s.cluster i.cl).live handle with
        | none => s.refuseCommand k o 5
        | some j =>
          let pod := (s.cluster i.cl).pod j
          if !nmaPodOk kind r psd pod then s.refuseCommand k o 5
          else
            let side := (psd ++ [BitVec.ofNat 8 pod.fmt]).map some
            let targets := if kv && mask != 0 then maskTargets i.cl mask else [i.cl]
            let pieces := if kv then np * positions (fieldAt psd 4 1) else np * fieldAt r 0x24 1
            let bytes := if kv then d * elementBytes pod.fmt else tripleSize d
            s.acceptWith k o i e kind r targets (pieces * bytes) pieces bar side

/-! ### Accesses -/

/-- The tags under which a command keeps what it reads: LIST, QUERY, FREQ, the channel table, and pages. -/
def tagList : Nat := 2 ^ 41
def tagQuery : Nat := 2 ^ 41 + 1
def tagFreq : Nat := 2 ^ 41 + 2
def tagTable : Nat := 2 ^ 41 + 3
def tagPage (j : Nat) : Nat := 2 ^ 42 + j

/-- KVLD with V reads no frequency table (R382). -/
def Cmd.unrotated (c : Cmd) : Bool := c.kind == .kvld && (fieldAt c.record 0x28 1).testBit 1

/-- The reads before the first page, in order (R344 step 4). -/
def Cmd.startReads (c : Cmd) : List (Nat × Access) :=
  [(tagList, ⟨true, word (fieldAt c.record 8 8), 4 * c.pages⟩)] ++
  (if c.kind = .attn then [(tagQuery, ⟨true, word (fieldAt c.record 0x18 8), 4 * c.heads * c.headDim⟩)] else []) ++
  (if c.unrotated then [] else [(tagFreq, ⟨false, word (fieldAt c.known 8 8), 2 * c.headDim⟩)])

/-- The first of them that is not complete: what is still to be read. -/
def Cmd.startNeed (c : Cmd) : Option (Nat × Access) :=
  c.startReads.findSome? (fun r => match takeRead r.2.loc r.2.addr r.2.n (c.have_ r.1) with
    | .error a => some (r.1, a)
    | .ok _ => none)

/-- Read 32-bit words that were read under a tag. -/
def Cmd.words (c : Cmd) (tag : Nat) : List Nat :=
  let bs := (allRead (c.have_ tag)).getD []
  (List.range (bs.length / 4)).map (fun n => fieldAt bs (4 * n) 4)

/-- Read the entries of a channel table, each checked as R247 states; or the address of the first that fails (R269). -/
def State.tableEntries (s : State) (i : Issuer) (chtab : Word) : Nat → Nat → State × Except Word (List Byte)
  | 0, _ => (s, .ok [])
  | n + 1, e =>
    let a := chtab + word (16 * e)
    match (virtRead i a 16).run s with
    | .error x => ({ s with reach := x.reach }, .error a)
    | .ok (b, s) =>
      if !((channelsOf b 1).all channelOk && fieldAt b 6 2 == 0) then (s, .error a)
      else match s.tableEntries i chtab n (e + 1) with
        | (s, .ok bs) => (s, .ok (b ++ bs))
        | x => x

/-- Read words at these addresses; or the first that fails. -/
def State.readWords (s : State) (i : Issuer) : List Word → State × Option Word
  | [] => (s, none)
  | a :: as => match (virtRead i a 8).run s with
    | .error e => ({ s with reach := e.reach }, some a)
    | .ok (_, s) => s.readWords i as

/-- The channel table, and the bitmap words that the page IDs of the list need, are read and checked (R247, R269): the table, or
the address that could not be read or checked. -/
def State.checkTable (s : State) (i : Issuer) (psd : List Byte) (ids : List Nat) : State × Except Word (List Byte) :=
  let chtab := word (fieldAt psd 0x10 8)
  match s.tableEntries i chtab (fieldAt psd 6 2) 0 with
  | (s, .error a) => (s, .error a)
  | (s, .ok t) =>
    let p := PageSet.of psd t
    match (List.range p.chans.length).find? (fun n => !channelsApart (p.chans.take (n + 1))) with
    | some n => (s, .error (chtab + word (16 * n)))
    | none =>
      match s.readWords i (ids.filterMap (fun id =>
          (p.entry id).map (fun c => c.bitmap + word (8 * ((id / 4096 - c.slot0) / 64))))) with
      | (s, some a) => (s, .error a)
      | (s, none) => (s, .ok t)

/-- The page set of a command, from the PSD as read at acceptance and the channel table. -/
def Cmd.pageSet (c : Cmd) : PageSet := PageSet.of c.known ((allRead (c.have_ tagTable)).getD [])

/-- Note the first error of a command (R269). -/
def Cmd.noteError (c : Cmd) (cause : Nat) (a : Word) : Cmd := { c with error := some (c.error.getD (cause, a)) }

/-- Every page of the list is in error (R269): the table failed, or a frequency was skipped. -/
def Cmd.allBad (c : Cmd) : Bool :=
  (c.have_ tagTable).any Option.isNone || (!c.unrotated && (c.have_ tagFreq).any Option.isNone)

/-- Rows of a page that are not written count as performed in every target (R382). -/
def State.skipRows (s : State) (e : EngineRef) (id j first : Nat) : State :=
  match s.command? e id with
  | none => s
  | some c =>
    ((List.range c.pagePositions).drop first).foldl (fun (s : State) p =>
      let s := c.targets.foldl (fun (s : State) t => s.performedAt e c t (c.pieceBytes 0)) s
      s.modCommand e id (fun c => c.finish (j * c.pagePositions + p))) s

/-- Read page j of the list, header and body together (R264, R270). -/
def State.readPage (s : State) (e : EngineRef) (c : Cmd) (j : Nat) : State :=
  let id := (c.words tagList).getD j 0
  let step : PageStep (List Byte) := do
    match c.pageSet.entry id with
    | none => pageFail 3
    | some _ =>
      modify (fun s => { s with reach := s.reach.map (fun r => { r with src := s.ownerOf id }) })
      let h ← readHeader id
      pageFailIf (h.ref == 0) 4
      pageRead id 0 (0x5200 + 2 * c.pagePositions)
  let bad := fun (s : State) =>
    let a := word (fieldAt c.record 8 8) + word (4 * j)
    let s := s.modCommand e c.id (fun c => (if c.allBad then c else c.noteError 6 a).take (tagPage j) [none])
    if c.kind = .kvld then s.skipRows e c.id j 0 else s
  if c.allBad then bad s
  else match step.run s with
    | .error x => if x.lacks then { s with reach := x.reach } else bad s
    | .ok (bs, s) =>
      let s := s.modCommand e c.id (fun c => c.take (tagPage j) (bs.map some))
      if c.kind = .kvld then s.skipRows e c.id j (min (Header.of bs).fill c.pagePositions) else s

/-- The writes of a row or triple at an offset of the pod that HANDLE names in a target, of at most 1,024 bytes each (R292); they
carry the pod's generation (R264, R267). None when the handle is not live in the context that serves it (R73). -/
def State.podRuns (s : State) (c : Cmd) (t off : Nat) (bs : List Byte) : Option (List (Word × List Byte)) :=
  let h := word (fieldAt c.record 0x22 2)
  (s.place c.issuer.job t).bind (fun p => ((s.placed p).live h).map (fun j =>
    let base := ((s.placed p).pod j).base + off
    (List.range ((bs.length + 1023) / 1024)).map (fun n =>
      (setField (setField (localAddr t (base + 1024 * n)) 52 8 (h.toNat / 256)) 60 1 1, (bs.drop (1024 * n)).take 1024))))

/-- Write piece k, a row or a triple, to every target, from an attention unit (R264, R267). -/
def State.nmaWrite (s : State) (e : EngineRef) (src : Word) (c : Cmd) (k off : Nat) (bs : List Byte) : State :=
  let s := c.targets.foldl (fun (s : State) t =>
    match s.podRuns c t off bs with
    | none => (s.refuseIssuer c.issuer (localAddr t off)).performedAt e c t (c.pieceBytes k)
    | some runs => runs.foldl (fun (s : State) r => s.engineSend e src c k 0x03 r.1 r.2.length r.2 true .bulk true) s) s
  s.modCommand e c.id (fun c => if c.awaiting.any (fun x => x.1 == k) then c else c.finish k)

/-- The writes of a piece can all be sent. -/
def State.nmaReady (s : State) (src : Word) (c : Cmd) : Bool :=
  s.responseRoom src (2 * c.targets.length) && c.targets.all (fun t => s.sendReady src c (localAddr t 0) 1056 2)

/-- The attention unit that writes for a page of a command: its owner, or COLLECT's for a page in error (R265). -/
def State.pageUnit (s : State) (e : EngineRef) (c : Cmd) (j : Nat) : Word :=
  if (c.have_ (tagPage j)).any Option.isNone then s.engineEndpoint e else s.ownerOf ((c.words tagList).getD j 0)

/-- One access of KVLD or ATTN (R264 to R269, R344, R382): the reads before the first page, the channel table, the page of
piece k, and then the row or the triple. -/
def State.nmaAccess (s : State) (e : EngineRef) (c : Cmd) (k : Nat) : State :=
  if c.stopped || !s.mayBegin e c then s
  else match c.startNeed with
    | some (tag, a) => if c.awaiting.any (fun x => x.1 == tag) then s else s.engineRead e c tag a
    | none =>
      if c.have_ tagTable = [] then
        match s.checkTable c.issuer c.known (c.words tagList) with
        | (s, .ok t) => s.modCommand e c.id (fun c => c.take tagTable (t.map some))
        | (s, .error a) => s.modCommand e c.id (fun c => (c.noteError 6 a).take tagTable [none])
      else
        let per := if c.kind = .kvld then c.pagePositions else c.heads
        let j := k / per
        if c.total ≤ k then s
        else if c.have_ (tagPage j) = [] then s.readPage e c j
        else if decide (k < c.next) || c.finished.contains k || c.awaiting.any (fun x => x.1 == k) || !s.nmaReady (s.pageUnit e c j) c then s
        else
          let layout := fieldAt c.known 4 1
          let freq := c.words tagFreq
          let image := (allRead (c.have_ (tagPage j))).map (fun bs => (⟨bs, Header.of bs⟩ : PageImage))
          match c.kind, image with
          | .kvld, some p =>
            let row := fieldAt c.record 0x24 1 + j * per + k % per
            s.nmaWrite e (s.pageUnit e c j) c k (row * (c.headDim * elementBytes c.podFormat))
              (p.podRow layout c.headDim c.podFormat freq c.unrotated (k % per))
          | .kvld, none => s
          | _, some p =>
            let q := ((c.words tagQuery).drop (k % per * c.headDim)).take c.headDim
            let (u, sum, acc) := p.triple layout c.headDim freq q (fieldAt c.record 0x25 1)
            s.nmaWrite e (s.pageUnit e c j) c k (k * tripleSize c.headDim) (tripleBytes c.headDim u sum acc)
          | _, none => s.nmaWrite e (s.pageUnit e c j) c k (k * tripleSize c.headDim) (errorTriple c.headDim)

end Sys2Proof.Machine
end

