-- ==== Sys2Proof/Machine/Accept.lean ====
section
/-! DEFINITION. A command at the head of a pip's store queue (R55 to R57, R123, R183, R196, R197, R227, R251, R262, R396, R399,
R428), and the engine events that follow its acceptance (R117, R230, R242). -/

namespace Sys2Proof.Machine

/-! ### MTASK and MLOAD -/

/-- The fields of an MTASK record are in range (R196). -/
def mtaskFieldsOk (r : List Byte) : Bool :=
  let nin := fieldAt r 3 1
  let nout := fieldAt r 4 1
  decide (fieldAt r 0 1 ≤ 7) && decide (fieldAt r 1 1 ≤ 1) && decide (fieldAt r 2 1 ≤ 15) && decide (nin ≤ 8) && decide (nout ≤ 8) &&
    decide (fieldAt r 5 1 < 2 ^ nin) && fieldAt r 6 2 == 0 &&
    ((r.drop (8 + 2 * nin)).take (16 - 2 * nin)).all (· == 0) && ((r.drop (0x18 + 2 * nout)).take (16 - 2 * nout)).all (· == 0)

/-- The handles of an MTASK record. -/
def mtaskIns (r : List Byte) : List (BitVec 16) := (List.range (fieldAt r 3 1)).map (fun j => BitVec.ofNat 16 (fieldAt r (8 + 2 * j) 2))
def mtaskOuts (r : List Byte) : List (BitVec 16) := (List.range (fieldAt r 4 1)).map (fun j => BitVec.ofNat 16 (fieldAt r (0x18 + 2 * j) 2))

/-- Code 0x02 of R197 does not apply in a cluster: inputs are live, outputs live and OPEN. -/
def Cluster.handlesOk (c : Cluster) (r : List Byte) : Bool :=
  (mtaskIns r).all (fun h => (c.live (h.setWidth 64)).isSome) &&
  (mtaskOuts r).all (fun h => match c.live (h.setWidth 64) with
    | some j => (c.pod j).state == 1
    | none => false)

/-- No element occurs twice. -/
def distinct : List (BitVec 16) → Bool
  | [] => true
  | x :: xs => !xs.contains x && distinct xs

/-- An address with its CLUSTER field replaced by a member's, and no other; 0 stays 0 (R200). -/
def memberAddr (a : Word) (cl : Nat) : Word := if a = 0 then 0 else setField a 22 8 (cl % 256)

/-- The task that a record declares in a cluster (R196, R200). -/
def MTask.of (r : List Byte) (i : Issuer) (cl id gangId : Nat) : MTask :=
  { id := id, issuer := i, prog := fieldAt r 0 1, gang := fieldAt r 1 1 == 1, prio := fieldAt r 2 1, ins := mtaskIns r
    outs := mtaskOuts r, consume := BitVec.ofNat 8 (fieldAt r 5 1), barrier := word (fieldAt r 0x28 8)
    resultAt := if fieldAt r 1 1 = 1 then memberAddr (word (fieldAt r 0x30 8)) cl else word (fieldAt r 0x30 8)
    scaleLog := if fieldAt r 1 1 = 1 then memberAddr (word (fieldAt r 0x38 8)) cl else word (fieldAt r 0x38 8)
    gangId := gangId, gangCl := i.cl }

/-- Enter a task in a cluster's dependency table, with the next identifier of its matrix unit (R200). -/
def State.enterTask (s : State) (r : List Byte) (i : Issuer) (gangId cl : Nat) : State :=
  let c := s.cluster cl
  let t := MTask.of r i cl c.matrix.counter gangId
  s.setCluster cl { c with mu := { c.mu with table := c.mu.table ++ [t] }, matrix := { c.matrix with counter := c.matrix.counter + 1 } }

/-- The clusters to whose units a record posts its task (R200). -/
def mtaskClusters (r : List Byte) (cl : Nat) : List Nat := if fieldAt r 1 1 = 1 then gangMembers cl else [cl]

/-- MTASK (R197, R399): the first code that applies, or the task in every table. The units' queues take MTASKs and MLOADs
in order (R125, R396), so it waits while an MLOAD accepted before it has not been performed. -/
def State.acceptMtask (s : State) (k : Nat) (o : Op) (i : Issuer) (r : List Byte) : State :=
  let cls := mtaskClusters r i.cl
  if !mtaskFieldsOk r then s.refuseCommand k o 1
  else if !cls.all (fun c => s.holdsLaunch c i.launch) then s.refuseCommand k o 5
  else if !cls.all (fun c => (s.cluster c).matrix.queue.isEmpty) then s
  else if !cls.all (fun c => (s.cluster c).handlesOk r) then s.refuseCommand k o 2
  else if !distinct (mtaskOuts r) || (mtaskOuts r).any (mtaskIns r).contains then s.refuseCommand k o 3
  else if cls.any (fun c => decide (32 ≤ (s.cluster c).mu.table.length)) then s.refuseCommand k o 4
  else
    let id := (s.cluster i.cl).matrix.counter
    (cls.foldl (fun (s : State) c => s.enterTask r i id c) s).finish k o (BitVec.ofNat 512 id)

/-- An accepted operation holds back no others and is not written yet. -/
def State.markAccepted (s : State) (k : Nat) (o : Op) (ahead : List (EngineRef × Nat)) : State :=
  (s.modPip k (fun p => p.modOp o.id (fun o => { o with phase := .accepted ahead }))).settle k

/-- MLOAD (R396 step 2): the command queue takes it; rd is written once it is performed. -/
def State.acceptMload (s : State) (k : Nat) (o : Op) (i : Issuer) (e : EngineRef) (r : List Byte) : State :=
  let x := s.context e
  (s.setContext e (x.accept (fun id => { id := id, kind := .mload, issuer := i, record := r, targets := [] }))).markAccepted k o
    [(e, x.counter)]

/-! ### TINV -/

/-- A TINV record obeys R428. -/
def tinvOk (mode : Nat) (r : List Byte) : Bool :=
  let va := fieldAt r 0 8
  let n := fieldAt r 8 8
  (r.drop 0x12).all (· == 0) && (match mode with
    | 0 => canonical (word va) && va % 65536 == 0 && n != 0 && n % 65536 == 0 && decide (va + n ≤ 2 ^ 64) && canonical (word (va + n - 1))
    | 1 => va == 0 && n == 0
    | _ => va == 0 && n == 0 && fieldAt r 0x10 2 == 0)

/-- The commands of the copy, gather and merge contexts that a TINV's markers stand behind (R244). -/
def State.aheadOf (s : State) (scope cl : Nat) : List (EngineRef × Nat) :=
  (s.clusters.filter (fun c => tinvReaches scope cl c.1)).flatMap (fun c =>
    (c.2.copies.zipIdx.flatMap (fun x => x.1.queue.map (fun d => (EngineRef.copy c.1 x.2, d.id)))) ++
    c.2.gather.queue.map (fun d => (.gather c.1, d.id)) ++ c.2.merge.queue.map (fun d => (.merge c.1, d.id)))

/-- TINV at the head of the store queue reads its record, once (R123, R428). One of scope job or system goes to the other modules of
the job too (R429). -/
def State.acceptTinv (s : State) (k job : Nat) (o : Op) (mode : Nat) (r : List Byte) : State :=
  let scope := o.rel.getD 0
  if !tinvOk mode r then s.refuseCommand k o 1
  else
    let away := if 6 ≤ scope then s.otherModules job else []
    let s := if away = [] then s else s.report (.tinvSent job mode r)
    (s.modPip k (fun p => p.modOp o.id (fun o => { o with data := r, modules := away }))).markAccepted k o (s.aheadOf scope (k / 256))

/-- An access of a pip that used a translation of an ASID that a TINV covers, and has not been performed (R123). -/
def Op.translated (o : Op) (mode : Nat) (r : List Byte) : Bool :=
  o.kind.isGlobal && tinvAsid mode r o.asid && (o.phase == .sent || !o.parts.isEmpty)

/-- Every access that used a translation which a TINV is to drop has been performed: of pips, and of engines and attention units, which use
the TLB of their issuer's die (R66). -/
def State.usesOver (s : State) (die scope mode : Nat) (r : List Byte) : Bool :=
  s.pips.all (fun e => !(e.1 / 65536 == die || decide (5 ≤ scope)) || !e.2.ops.any (fun o => o.translated mode r)) &&
  !s.net.outstanding.any (fun o => !o.completed && endType o.packet.dst == 1 && (match o.origin with
    | .engine e id _ => (s.command? e id).any (fun c =>
        tinvAsid mode r c.issuer.asid && (c.issuer.cl / 256 == die || decide (5 ≤ scope)))
    | _ => false)) &&
  !s.net.asks.any Ask.closing

/-- Drop what a TINV covers (R123, R429): translations, clean L1 lines, and prepared fetches with them (R124); what walks have read is
read again. Update-only lines stay (R69, R416). -/
def State.invalidate (s : State) (cl : Nat) (scope mode : Nat) (r : List Byte) : State :=
  let tlbs := s.tlbs.map (fun e =>
    if e.1 = cl / 256 ∨ 5 ≤ scope then (e.1, e.2.filter (fun t => !tinvCovers mode r t.asid t.vpage t.size)) else e)
  let cores := s.cores.map (fun e =>
    if tinvReaches scope cl (e.1 / 16) then
      (e.1, { e.2 with lines := e.2.lines.filter (fun l => !tinvAsid mode r l.asid)
                       code := e.2.code.filter (fun l => !tinvAsid mode r l.asid)
                       awaited := e.2.awaited.filter (fun w => !tinvAsid mode r w.asid) })
    else e)
  State.restartAsks { s with tlbs := tlbs, cores := cores }

/-- A TINV of another module of a job, of scope job or system, reaches this one: its markers are placed (R244, R429). -/
def State.tinvArrives (s : State) (job modid mode : Nat) (r : List Byte) : State :=
  if tinvOk mode r && (s.otherModules job).contains modid then
    { s with net := { s.net with tinvs := s.net.tinvs ++ [⟨job, modid, mode, r, s.aheadOf 6 0⟩] } }
  else s

/-- Its part here is over once every command ahead of its markers has completed; what it covers is dropped, and the module that issued
it learns so. -/
def State.tinvOver (s : State) (i : Nat) : State :=
  match s.net.tinvs[i]? with
  | none => s
  | some x =>
    if x.ahead.any (fun m => (s.command? m.1 m.2).isSome) || !s.usesOver 0 6 x.mode x.record then s
    else ({ s with net := { s.net with tinvs := dropAt s.net.tinvs [i] } }.invalidate 0 6 x.mode x.record).report (.tinvOver x.modid)

/-- Another module's part of a TINV of this module is over. -/
def State.tinvAnswered (s : State) (slot op modid : Nat) : State :=
  s.modPip slot (fun p => p.modOp op (fun o => { o with modules := o.modules.filter (· != modid) }))

/-! ### LAUNCH -/

/-- The issuer of a LAUNCH as its submitter (R57). -/
def State.submitter (s : State) (i : Issuer) : Submitter :=
  { user := if i.mode then none else some ((s.launch i.launch).elim 0 Launch.prio, i.asid), topPrio := 46 }

/-- LAUNCH at the head of the store queue (R56, R57): a release at the scope of the record's level 0. -/
def State.acceptLaunch (s : State) (k : Nat) (p : Pip) (o : Op) (i : Issuer) (r : List Byte) : State :=
  let x := LaunchRecord.of r
  match launchCode r (s.submitter i) (s.ranksOf i.job).length with
  | 0 =>
    if 512 ≤ s.entriesUsed (queuingDie x (i.cl / 256)) true then s.refuseCommand k o 9
    else if (p.before o.id).any (s.releaseWaits i.job i.cl ((x.levels.head?.map Level.domain).getD 0)) then s
    else
      let (s, id) := s.submit i.job x true (i.cl / 256)
      (s.deliver id).finish k o (id.setWidth 512)
  | c => s.refuseCommand k o c

/-! ### The event -/

/-- The context that takes a command up. -/
def commandContext (cl : Nat) (kind : CmdKind) (channel : Nat) (r : List Byte) : EngineRef :=
  match kind with
  | .copy | .mcast => .copy cl channel
  | .gatherList | .gatherSpr | .scatterList | .scatterSpr => .gather cl
  | .merge _ => .merge cl
  | .kvld | .attn => .nma (fieldAt r 0x26 2)
  | _ => .matrix cl

/-- The kinds that queue in their context and wait while it is full (R227); MTASK does not wait (R399). -/
def CmdKind.queues : CmdKind → Bool
  | .copy | .mcast | .gatherList | .gatherSpr | .scatterList | .scatterSpr | .merge _ | .kvld | .attn | .mload => true
  | _ => false

/-- The command that was checked before its barrier in another module took the addition (R232). -/
def State.checkedCommand (s : State) (kind : CmdKind) (i : Issuer) (r : List Byte) (side : List (Option Byte)) (id : Nat) : Cmd :=
  let b := Box.of r
  let known := (allRead side).getD []
  let spr := kind == .gatherSpr || kind == .scatterSpr
  let p : Spr := if spr then Spr.of known else Spr.empty
  let (targets, total, begun) := match kind with
    | .merge _ => ([], (MergeRecord.of r).cap * (MergeRecord.of r).size, false)
    | .attn => ([i.cl], fieldAt r 0x20 2 * fieldAt r 0x24 1 * tripleSize (fieldAt known 2 2), false)
    | _ => (s.boxTargets i kind b, b.total kind p, b.pieces kind p == 0)
  { id := id, kind := kind, issuer := i, record := r, targets := targets, side := side, left := total, begun := begun
    performed := targets.foldl (fun m t => mset m t (0, s.cycle)) [] }

/-- The operation is at the head of the store queue: neither accepted nor performed, nor a replay entry. -/
def Phase.atHead : Phase → Bool
  | .waiting | .fetching _ _ => true
  | _ => false

/-- The bytes of a command's record. -/
def recordBytes (kind : CmdKind) : Nat := if kind = .launch then 192 else 64

/-- The record of a command at the head of its store queue: as it stands, or as it was read when its acceptance began. -/
def State.commandRecord (s : State) (cl : Nat) (o : Op) (kind : CmdKind) (a : Word) : List Byte :=
  match o.phase with
  | .fetching _ _ => o.data
  | _ => (s.cluster cl).read (offsetOf a) (recordBytes kind)

/-- A command of another pip for the same context came to the head of its store queue in an earlier cycle, and still stands there:
contexts take commands up in that order (R225, R396). -/
def State.comesFirst (s : State) (k : Nat) (o : Op) (e : EngineRef) : Bool :=
  s.pips.any (fun x => x.1 != k && x.2.ops.any (fun y => y.phase.atHead &&
    y.head.any (fun t => o.head.all (fun u => decide (t < u))) && (match y.kind with
      | .command kind a channel => (kind.queues || kind == .mtask) &&
          commandContext (x.1 / 256) kind channel (s.commandRecord (x.1 / 256) y kind a) == e
      | _ => false)))

/-- A command at the head of the store queue whose record has been read. -/
def State.acceptAt (s : State) (k : Nat) (p : Pip) (o : Op) (kind : CmdKind) (channel : Nat) (r : List Byte) : State :=
  let i := s.issuerOf k p o
  let spres := (s.launch p.launch).elim 0 (fun l => l.record.spres)
  let e := commandContext i.cl kind channel r
  let nma := kind == .kvld || kind == .attn
  if nma && decide (4095 < fieldAt r 0x26 2) then s.refuseCommand k o 1
  else if kind.queues && decide (engineDepth e ≤ (s.context e).queue.length) then s
  else if (kind.queues || kind == .mtask) && s.comesFirst k o e then s
  else match o.phase with
  | .fetching _ 1 | .fetching _ 2 => s
  | .fetching side 3 =>
    s.acceptCommand k o e (s.checkedCommand kind i r side)
  | .fetching _ 4 => s.refuseCommand k o 4
  | .fetching _ 5 => s.refuseCommand k o 2
  | ph =>
    let side := match ph with
      | .fetching side _ => side
      | _ => []
    match kind with
    | .copy | .mcast | .gatherList | .gatherSpr | .scatterList | .scatterSpr => s.acceptBox k o i spres e kind r side
    | .merge _ => s.acceptMerge k o i spres e kind r
    | .kvld | .attn => s.acceptNma k o i spres e kind r
    | .mtask => s.acceptMtask k o i r
    | .mload => s.acceptMload k o i e r
    | .launch => s.acceptLaunch k p o i r
    | .pgalloc | .pgfree | .pgfork | .pglook | .pgins | .pgshift | .kvapp => s.performPage k o i spres kind r

/-- ENGINE_COMMAND_ACCEPT (R227): nothing holds the command back; its record is read, and it is accepted or refused. -/
def execEngineCommandAccept (p op : Nat) (s : State) : Host.Outcome State Fault Refusal :=
  match s.pip p with
  | none => .next s
  | some x =>
    match x.op op with
    | none => .next s
    | some o =>
      if !o.phase.atHead || !s.canPerform p x o then .next s
      else match o.kind with
        | .command kind a channel =>
          .next (s.reaching (.op p op) (s.clusterAddr (p / 256))
            (fun s => (s.acceptAt p x o kind channel (s.commandRecord (p / 256) o kind a), id)) (fun s => s.finishPage p op))
        | .tinv mode a => .next (s.acceptTinv p (s.jobOfLaunch x.launch) o mode (s.tinvRecord p a))
        | _ => .next s

/-- TINV_COMPLETE (R123, R428, R429): every command ahead of a marker has completed, every access that used what is to be dropped has
been performed, and the other modules' parts are over. -/
def execTinvComplete (p op : Nat) (s : State) : Host.Outcome State Fault Refusal :=
  match (s.pip p).bind (fun x => x.op op) with
  | none => .next s
  | some o =>
    match o.kind, o.phase with
    | .tinv mode _, .accepted ahead =>
      let scope := o.rel.getD 0
      if ahead.any (fun m => (s.command? m.1 m.2).isSome) || !s.usesOver (p / 65536) scope mode o.data || !o.modules.isEmpty then .next s
      else .next ((s.invalidate (p / 256) scope mode o.data).finish p o 0)
    | _, _ => .next s

/-! ### Engine events -/

/-- ENGINE_ACCESS (R230): one access of an accepted command, for piece `piece`. -/
def execEngineAccess (e : EngineRef) (id piece : Nat) (s : State) : Host.Outcome State Fault Refusal :=
  match s.command? e id with
  | none => .next s
  | some c =>
    let tries := fun (f : State → State) => Host.Outcome.next
      (s.reaching (.engine e id piece) (s.engineEndpoint e) (fun s => (f s, fun s => s)) (fun s => s))
    match c.kind with
    | .copy | .mcast | .gatherList | .gatherSpr | .scatterList | .scatterSpr => tries (fun s => s.boxAccess e c piece)
    | .merge _ => tries (fun s => s.mergeAccess e c 8)
    | .kvld | .attn => tries (fun s => s.nmaAccess e c piece)
    | _ => .next s

/-- The address under which a command's refused seal is reported (R89). -/
def Cmd.destination (c : Cmd) : Word :=
  match c.kind with
  | .kvld | .attn => word (fieldAt c.record 8 8)
  | _ => (Box.of c.record).dst

/-- A command of an engine of 08 or 09, which engines perform by accesses. -/
def CmdKind.byAccess : CmdKind → Bool
  | .copy | .mcast | .gatherList | .gatherSpr | .scatterList | .scatterSpr | .merge _ | .kvld | .attn => true
  | _ => false

/-- ENGINE_COMMAND_COMPLETE (R117): the steps after a command's last access, as far as they can be taken now. -/
def execEngineCommandComplete (e : EngineRef) (id : Nat) (s : State) : Host.Outcome State Fault Refusal :=
  match s.command? e id with
  | none => .next s
  | some c => if c.kind.byAccess then .next (s.engineEnd e c c.total c.destination c.accessed) else .next s

/-- ENGINE_HANDOFF (R242): the remainder of a command that stopped at a failing access goes to firmware. -/
def execEngineHandoff (e : EngineRef) (id : Nat) (s : State) : Host.Outcome State Fault Refusal :=
  match s.command? e id with
  | none => .next s
  | some c => if c.stopped then .next (s.modCommand e id (fun c => { c with stopped := false, firmware := true })) else .next s

end Sys2Proof.Machine
end

