-- ==== Sys2Proof/Machine/Bundle.lean ====
section
/-! DEFINITION. Matrix bundles (R175 to R181), program images (R182, R184) and MLOAD (R183, R185, R396). -/

namespace Sys2Proof.Machine

/-! ### Bundles -/

/-- Part i of a bundle: part 0 is the header, parts 1 to 5 the slots LD-A, LD-B, MMA, VEC and ST (R175, R177). -/
def part (b : BitVec 384) (i : Nat) : Nat := (b.extractLsb' (64 * i) 64).toNat

/-- The header's fields (R175). -/
def stallOf (b : BitVec 384) : Nat := bitsOf (part b 0) 0 8
def stopOf (b : BitVec 384) : Bool := bitsOf (part b 0) 8 1 == 1
def hopOf (b : BitVec 384) : Nat := bitsOf (part b 0) 9 3
def counterOf (b : BitVec 384) : Nat := bitsOf (part b 0) 12 2
def argOf (b : BitVec 384) : Nat := bitsOf (part b 0) 16 16

/-- The operation of a slot. -/
def opOf (x : Nat) : Nat := bitsOf x 0 8

/-- Every set bit of a slot lies in one of these fields, given as (low bit, length). -/
def onlyFields (x : Nat) (fs : List (Nat × Nat)) : Bool :=
  (fs.map (fun f => bitsOf x f.1 f.2 * 2 ^ f.1)).sum == x

/-- The header obeys R175. -/
def headerOk (x : Nat) : Bool :=
  onlyFields x [(0, 8), (8, 1), (9, 3), (12, 2), (16, 16)] && decide (bitsOf x 9 3 ≤ 3) &&
  (match bitsOf x 9 3 with
    | 1 => bitsOf x 16 16 != 0
    | 2 => true
    | _ => bitsOf x 12 2 == 0 && bitsOf x 16 16 == 0)

/-- A slot's handle field: H, HX and LCS at these bits; LCS is zero with HX = 0 (R178, R181). -/
def handleOk (x hx lcs : Nat) : Bool := bitsOf x hx 1 == 1 || bitsOf x lcs 2 == 0

/-- A tile load (R177, R178); `op` is TLDA's or TLDB's code. -/
def loadOk (x : Nat) : Bool :=
  match opOf x with
  | 0 => x == 0
  | 1 => onlyFields x [(0, 37)] && handleOk x 34 35
  | 2 => onlyFields x [(0, 30), (34, 3)] && handleOk x 34 35
  | _ => false

/-- The pairs of element types that an MMA accepts (R179). -/
def pairOk (a b : Nat) : Bool := (a < 2 && b < 2) || (a == 2 && b == 2) || (a == 3 && b == 3) || ((a == 4 || a == 5) && (b == 4 || b == 5))

/-- The MMA slot (R177, R179). -/
def mmaOk (x : Nat) : Bool :=
  match opOf x with
  | 0 => x == 0
  | 0x10 | 0x11 | 0x12 => onlyFields x [(0, 21)] && pairOk (bitsOf x 15 3) (bitsOf x 18 3)
  | _ => false

/-- The VEC slot (R177, R180, R331). -/
def vecOk (x : Nat) : Bool :=
  match opOf x with
  | 0 => x == 0
  | 0x20 => onlyFields x [(0, 11)]
  | 0x21 => onlyFields x [(0, 15)]
  | 0x22 | 0x26 | 0x27 => onlyFields x [(0, 14)]
  | 0x23 => onlyFields x [(0, 11), (16, 32)]
  | 0x24 => onlyFields x [(0, 11), (14, 4)]
  | 0x25 => onlyFields x [(0, 14), (17, 1)]
  | 0x28 => onlyFields x [(0, 8), (11, 3), (15, 17)] && decide (bitsOf x 15 3 ≤ 3) && decide (bitsOf x 18 7 ≤ 64) &&
      (bitsOf x 25 1 == 1 || bitsOf x 26 6 == 0)
  | 0x29 => onlyFields x [(0, 8), (11, 12)] && decide (bitsOf x 17 3 ≤ 3) &&
      decide (bitsOf x 20 2 ≤ (if 2 ≤ bitsOf x 17 3 then 2 else 0))
  | 0x2A => onlyFields x [(0, 12)] && decide (bitsOf x 10 2 ≤ 2)
  | _ => false

/-- The ST slot (R177, R181). -/
def stOk (x : Nat) : Bool :=
  match opOf x with
  | 0 => x == 0
  | 0x30 => onlyFields x [(0, 38)] && handleOk x 35 36 && decide (4 ≤ bitsOf x 31 4) && decide (bitsOf x 31 4 ≤ 7)
  | 0x31 => onlyFields x [(0, 31), (35, 3)] && handleOk x 35 36
  | 0x32 => onlyFields x [(0, 8), (11, 6), (35, 3)] && handleOk x 35 36 && bitsOf x 15 2 != 0 &&
      (bitsOf x 15 1 == 1 || (bitsOf x 11 4 == 0 && bitsOf x 35 1 == 0))
  | _ => false

/-- A bundle obeys R175 to R181. -/
def bundleOk (b : BitVec 384) : Bool :=
  headerOk (part b 0) && loadOk (part b 1) && loadOk (part b 2) && mmaOk (part b 3) && vecOk (part b 4) && stOk (part b 5)

/-! ### Programs -/

/-- The bundle at a position, and the position after it (R182). -/
def Program.at_ (p : Program) (pos : Nat) : BitVec 384 × Nat :=
  let e := (p.stream.getD pos 0).toNat
  if e = 0xFFFF then
    (((List.range 24).map (fun j => BitVec.setWidth 384 (p.stream.getD (pos + 1 + j) 0) <<< (16 * j))).foldl (· ||| ·) 0, pos + 25)
  else (p.dict.getD e 0, pos + 1)

/-- An element of the stream as MLOAD walks it: its position, and the fault that the walk finds there (R185). -/
inductive StreamItem where
  | bundle (pos : Nat) (b : BitVec 384)
  | badIndex (pos : Nat)
  | cutEscape (pos : Nat)
  deriving DecidableEq, Repr

/-- Walk the stream of a program from a position. -/
def Program.walk (p : Program) : Nat → Nat → List StreamItem
  | 0, _ => []
  | fuel + 1, pos =>
    if p.stream.length ≤ pos then []
    else
      let e := (p.stream.getD pos 0).toNat
      if e = 0xFFFF then
        if p.stream.length ≤ pos + 24 then [.cutEscape pos]
        else .bundle pos (p.at_ pos).1 :: p.walk fuel (pos + 25)
      else if p.dict.length ≤ e then .badIndex pos :: p.walk fuel (pos + 1)
      else .bundle pos (p.at_ pos).1 :: p.walk fuel (pos + 1)

/-- The first code of R185 from 0x10 on, with its P; none for a sound program. -/
def Program.check (p : Program) : Option (Nat × Nat) :=
  let items := p.walk p.stream.length 0
  let bundles := items.filterMap (fun x => match x with
    | .bundle pos b => some (pos, b)
    | _ => none)
  let first := fun (f : StreamItem → Option Nat) => items.findSome? f
  match (p.dict.zipIdx.find? (fun e => !bundleOk e.1)).map Prod.snd with
  | some j => some (0x10, j)
  | none =>
    match first (fun x => match x with
      | .badIndex pos => some pos
      | _ => none) with
    | some pos => some (0x11, pos)
    | none =>
      match first (fun x => match x with
        | .cutEscape pos => some pos
        | _ => none) with
      | some pos => some (0x12, pos)
      | none =>
        match (bundles.find? (fun e => !bundleOk e.2)).map Prod.fst with
        | some pos => some (0x13, pos)
        | none =>
          let starts := bundles.map Prod.fst
          match (bundles.find? (fun e => hopOf e.2 == 2 && !starts.contains (argOf e.2))).map Prod.fst with
          | some pos => some (0x14, pos)
          | none =>
            match bundles.getLast? with
            | some (pos, b) => if hopOf b = 3 then none else some (0x15, pos)
            | none => some (0x15, 0)

/-- The program that the bytes after an image's header hold (R182). -/
def Program.of (dict stream : Nat) (bs : List Byte) : Program :=
  { dict := (List.range dict).map (fun j => BitVec.ofNat 384 (fieldAt bs (48 * j) 48))
    stream := (List.range stream).map (fun j => BitVec.ofNat 16 (fieldAt bs (48 * dict + 2 * j) 2)) }

/-! ### MLOAD -/

/-- The slot is named by a task in the table or by the running task (R185). -/
def MatrixUnit.namesSlot (m : MatrixUnit) (slot : Nat) : Bool :=
  m.table.any (fun t => t.prog == slot) || m.run.any (fun r => r.task.prog == slot)

/-- The free entries of both pools suffice, counting those of the slot's present program (R184). -/
def MatrixUnit.roomFor (m : MatrixUnit) (slot dict stream : Nat) : Bool :=
  let others := m.programs.filter (fun e => e.1 != slot)
  decide ((others.map (fun e => e.2.dict.length)).sum + dict ≤ 2048) &&
    decide ((others.map (fun e => e.2.stream.length)).sum + stream ≤ 65536)

/-- MLOAD's reads and checks, in the order of R185: the program, or P × 2^16 + code. -/
def mloadStep (m : MatrixUnit) (i : Issuer) (r : List Byte) : PageStep (Nat × Program) := do
  let image := word (fieldAt r 0 8)
  let slot := fieldAt r 8 1
  pageFailIf (decide (7 < slot) || (r.drop 9).any (· != 0) || fieldAt r 0 8 % 64 != 0 || !canonical image) 1
  let h ← tryRead (virtRead i image 64)
  let dict := fieldAt h 2 2
  let stream := fieldAt h 4 4
  pageFailIf (fieldAt h 0 2 != 1 || dict == 0 || decide (2048 < dict) || stream == 0 || decide (65536 < stream) ||
    (h.drop 8).any (· != 0)) 3
  let bs ← tryRead (virtRead i (image + 64) (48 * dict + 2 * stream))
  let p := Program.of dict stream bs
  pageFailIf (m.namesSlot slot) 4
  pageFailIf (!m.roomFor slot dict stream) 5
  match p.check with
  | some (code, pos) => pageFail (pos * 2 ^ 16 + code)
  | none => pure (slot, p)
where
  /-- A failed read is code 0x02. -/
  tryRead (x : PageStep (List Byte)) : PageStep (List Byte) := fun s => match x s with
    | .ok y => .ok y
    | .error e => .error ⟨2, e.reach⟩

/-- The pip and operation of an accepted MLOAD. -/
def State.mloadOp (s : State) (c : Cmd) : Option (Nat × Op) :=
  s.pips.findSome? (fun e =>
    if e.2.launch = c.issuer.launch ∧ e.2.pipid = c.issuer.pipid then
      (e.2.ops.find? (fun o => match o.kind, o.phase with
        | .command .mload _ _, .accepted ahead => ahead.any (fun m => m.2 == c.id)
        | _, _ => false)).map (fun o => (e.1, o))
    else none)

/-- Perform an MLOAD: its program is installed, or it is rejected. -/
def State.performMload (s : State) (cl : Nat) (c : Cmd) : State :=
  let over_ := fun (s : State) (v : Word) =>
    let s := s.setContext (.matrix cl) ((s.context (.matrix cl)).complete c.id)
    match s.mloadOp c with
    | some (k, o) => s.finish k o (v.setWidth 512)
    | none => s
  match (mloadStep (s.cluster cl).mu c.issuer c.record).run s with
  | .ok ((slot, p), t) =>
    let k := t.cluster cl
    over_ (t.setCluster cl { k with mu := { k.mu with programs := mset k.mu.programs slot p } }) (word c.id)
  | .error e => if e.lacks then { s with reach := e.reach } else over_ s (statusWord e.detail)

/-- MLOAD_PERFORM (R396): the oldest MLOAD of the command queue installs its program or is rejected, and its identifier is
passed either way. -/
def execMloadPerform (cl : Nat) (s : State) : Host.Outcome State Fault Refusal :=
  match (s.cluster cl).matrix.queue.head? with
  | none => .next s
  | some c =>
    .next (s.reaching (.mload cl c.id) (s.clusterAddr cl) (fun s => (s.performMload cl c, id)) id)

end Sys2Proof.Machine
end

