-- ==== Sys2Proof/Machine/Command.lean ====
section
/-! DEFINITION. The E-format commands (R167, R227, R252): the check of the record's address at issue, and the place in the
pip's store queue. The record is read when the command reaches the head of that queue. -/

namespace Sys2Proof.Machine

/-- The check of a record's address (R56, R167): MISALIGNED, then LOCAL_RANGE unless all of it lies in the plain region
of the pip's current cluster. -/
def State.checkRecord (s : State) (p : Pip) (a : Word) (n : Nat) : Option Cause :=
  if a.toNat % 64 != 0 then some .misaligned
  else if a.toNat / 2 ^ 61 != 0 || !s.near p a || !(s.cluster s.curCl).inPlain (offsetOf a) n then some .localRange
  else none

/-- A command enters the store queue. -/
def command (i : Instr) (priv : Bool) (a d : Reg) (n : Nat) (op : Word → Op) (s : State) :
    Host.Outcome State Fault Refusal :=
  runEntry i { g := [a], gd := [d], fullBit := true, priv := priv } s (fun p q t =>
    match s.checkRecord p (p.gv a) n with
    | some c => .trap c (p.gv a)
    | none => .next (t.enter q (op (p.gv a))))

/-- A command of an engine, a page unit or an attention unit channel. -/
def engineOp (kind : CmdKind) (channel : Nat) (d : Reg) (rel acq : Option Nat) (rec : Word) : Op :=
  { id := 0, kind := .command kind rec channel, dest := .g d, rel := rel, acq := acq }

/-- COPY (R227, R360). -/
def execCopy (n : BitVec 3) (a d : Reg) (s : State) : Host.Outcome State Fault Refusal :=
  command (.copy n a d) false a d 64 (engineOp .copy n.toNat d none none) s

/-- MCAST (R227, R392). -/
def execMcast (n : BitVec 3) (a d : Reg) (s : State) : Host.Outcome State Fault Refusal :=
  command (.mcast n a d) false a d 64 (engineOp .mcast n.toNat d none none) s

/-- GATHER by an index list (R236, R378). -/
def execGatherList (a d : Reg) (s : State) : Host.Outcome State Fault Refusal :=
  command (.gatherList a d) false a d 64 (engineOp .gatherList 0 d none none) s

/-- GATHER along an SPR matrix (R236, R378). -/
def execGatherSpr (a d : Reg) (s : State) : Host.Outcome State Fault Refusal :=
  command (.gatherSpr a d) false a d 64 (engineOp .gatherSpr 0 d none none) s

/-- SCATTER by an index list (R236, R420). -/
def execScatterList (a d : Reg) (s : State) : Host.Outcome State Fault Refusal :=
  command (.scatterList a d) false a d 64 (engineOp .scatterList 0 d none none) s

/-- SCATTER along an SPR matrix (R236, R420). -/
def execScatterSpr (a d : Reg) (s : State) : Host.Outcome State Fault Refusal :=
  command (.scatterSpr a d) false a d 64 (engineOp .scatterSpr 0 d none none) s

/-- MERGE, mode 0: sum (R240, R394). -/
def execMergeM0 (a d : Reg) (s : State) : Host.Outcome State Fault Refusal :=
  command (.mergeM0 a d) false a d 64 (engineOp (.merge 0) 0 d none none) s

/-- MERGE, mode 1: keep first (R240, R394). -/
def execMergeM1 (a d : Reg) (s : State) : Host.Outcome State Fault Refusal :=
  command (.mergeM1 a d) false a d 64 (engineOp (.merge 1) 0 d none none) s

/-- MERGE, mode 2: intersect (R240, R394). -/
def execMergeM2 (a d : Reg) (s : State) : Host.Outcome State Fault Refusal :=
  command (.mergeM2 a d) false a d 64 (engineOp (.merge 2) 0 d none none) s

/-- MERGE, mode 3: difference (R240, R394). -/
def execMergeM3 (a d : Reg) (s : State) : Host.Outcome State Fault Refusal :=
  command (.mergeM3 a d) false a d 64 (engineOp (.merge 3) 0 d none none) s

/-- MLOAD (R183, R396). -/
def execMload (a d : Reg) (s : State) : Host.Outcome State Fault Refusal :=
  command (.mload a d) false a d 64 (engineOp .mload 0 d none none) s

/-- MTASK (R197): a release at cluster scope. -/
def execMtask (a d : Reg) (s : State) : Host.Outcome State Fault Refusal :=
  command (.mtask a d) false a d 64 (engineOp .mtask 0 d (some 2) none) s

/-- PGALLOC (R251, R252): a release and an acquire at module scope. -/
def execPgalloc (a d : Reg) (s : State) : Host.Outcome State Fault Refusal :=
  command (.pgalloc a d) false a d 64 (engineOp .pgalloc 0 d (some 5) (some 5)) s

/-- PGFREE (R251, R252): a release and an acquire at module scope. -/
def execPgfree (a d : Reg) (s : State) : Host.Outcome State Fault Refusal :=
  command (.pgfree a d) false a d 64 (engineOp .pgfree 0 d (some 5) (some 5)) s

/-- PGFORK (R251, R252): a release and an acquire at module scope. -/
def execPgfork (a d : Reg) (s : State) : Host.Outcome State Fault Refusal :=
  command (.pgfork a d) false a d 64 (engineOp .pgfork 0 d (some 5) (some 5)) s

/-- PGLOOK (R251, R252): a release and an acquire at module scope. -/
def execPglook (a d : Reg) (s : State) : Host.Outcome State Fault Refusal :=
  command (.pglook a d) false a d 64 (engineOp .pglook 0 d (some 5) (some 5)) s

/-- PGINS (R251, R252): a release and an acquire at module scope. -/
def execPgins (a d : Reg) (s : State) : Host.Outcome State Fault Refusal :=
  command (.pgins a d) false a d 64 (engineOp .pgins 0 d (some 5) (some 5)) s

/-- PGSHIFT (R251, R252): a release and an acquire at module scope. -/
def execPgshift (a d : Reg) (s : State) : Host.Outcome State Fault Refusal :=
  command (.pgshift a d) false a d 64 (engineOp .pgshift 0 d (some 5) (some 5)) s

/-- KVAPP (R251, R252): a release and an acquire at module scope. -/
def execKvapp (a d : Reg) (s : State) : Host.Outcome State Fault Refusal :=
  command (.kvapp a d) false a d 64 (engineOp .kvapp 0 d (some 5) (some 5)) s

/-- KVLD (R261, R382). -/
def execKvld (a d : Reg) (s : State) : Host.Outcome State Fault Refusal :=
  command (.kvld a d) false a d 64 (engineOp .kvld 0 d none none) s

/-- ATTN (R261, R344). -/
def execAttn (a d : Reg) (s : State) : Host.Outcome State Fault Refusal :=
  command (.attn a d) false a d 64 (engineOp .attn 0 d none none) s

/-- LAUNCH (R55, R56). Its release, at the scope of the record's level 0, is known once the record is read. -/
def execLaunch (a d : Reg) (s : State) : Host.Outcome State Fault Refusal :=
  command (.launch a d) false a d 192 (engineOp .launch 0 d none none) s

/-- TINV, mode 0 (R123, R428): a release at its scope. -/
def execTinvRange (c : BitVec 3) (a d : Reg) (s : State) : Host.Outcome State Fault Refusal :=
  command (.tinvRange c a d) true a d 64
    (fun rec => { id := 0, kind := .tinv 0 rec, dest := .g d, rel := some c.toNat }) s

/-- TINV, mode 1 (R123, R428): a release at its scope. -/
def execTinvAsid (c : BitVec 3) (a d : Reg) (s : State) : Host.Outcome State Fault Refusal :=
  command (.tinvAsid c a d) true a d 64
    (fun rec => { id := 0, kind := .tinv 1 rec, dest := .g d, rel := some c.toNat }) s

/-- TINV, mode 2 (R123, R428): a release at its scope. -/
def execTinvAll (c : BitVec 3) (a d : Reg) (s : State) : Host.Outcome State Fault Refusal :=
  command (.tinvAll c a d) true a d 64
    (fun rec => { id := 0, kind := .tinv 2 rec, dest := .g d, rel := some c.toNat }) s

end Sys2Proof.Machine
end

