-- ==== Sys2Proof/Machine/Links.lean ====
section
/-! DEFINITION. Packets on their way (10 R271 to R273, R277, R281, R285 to R287, R293): flits and beats, slots and their returns,
link buffers, hops from router to router, and the death of links. -/

namespace Sys2Proof.Machine

/-! ### Flits and beats (R272) -/

/-- One step of the reflected CRC-32C register. -/
def crcShift (c : Nat) : Nat := if c % 2 = 1 then (c / 2) ^^^ 0x82F63B78 else c / 2

/-- CRC-32C of bytes, from a register (the Castagnoli polynomial; PRESUMED, log entry 13). -/
def crcFrom : Nat → List Byte → Nat
  | c, [] => c
  | c, b :: bs =>
    let x := c ^^^ b.toNat
    crcFrom (crcShift (crcShift (crcShift (crcShift (crcShift (crcShift (crcShift (crcShift x)))))))) bs

/-- CRC-32C. -/
def crc32c (bs : List Byte) : Nat := crcFrom 0xFFFFFFFF bs ^^^ 0xFFFFFFFF

/-- The flit or beat passes its check (R272, R273). -/
def flitOk (l : Nat) (f : Flit) : Bool :=
  if l < 32 then f.raw.length == 256 && crc32c (f.raw.take 252) == fieldAt f.raw 252 4 else f.beatOk

/-- The link fields and the slot returns of a flit, or of a beat's sideband. -/
def flitSeq (l : Nat) (f : Flit) : Nat := if l < 32 then fieldAt f.raw 248 2 else f.seq
def flitAck (l : Nat) (f : Flit) : Nat := if l < 32 then fieldAt f.raw 250 2 else f.ack
def flitReturn (l : Nat) (f : Flit) (v : Nat) : Nat := if l < 32 then fieldAt f.raw (2 * v) 2 else f.returns.getD v 0

/-- Bytes in pieces of at most `k`; `fuel` bounds their number. -/
def inPieces (k : Nat) : Nat → List Byte → List (List Byte)
  | 0, _ => []
  | fuel + 1, bs => if bs.isEmpty then [] else bs.take k :: inPieces k fuel (bs.drop k)

/-- The packet bytes that a flit or a beat carries. -/
def unitBytes (l : Nat) : Nat := if l < 32 then 232 else 128

/-- The flit that an end of a link composes from its counters (R272, R281). -/
def Link.flit (x : Link) (l : Nat) (payload : List Byte) (channel ends : Option Nat) (tag : Option PacketTag) : Flit :=
  let body := x.freed.flatMap (natBytes 2) ++ payload ++ List.replicate (232 - payload.length) 0 ++ natBytes 2 x.sent ++
    natBytes 2 x.received
  { raw := if l < 32 then body ++ natBytes 4 (crc32c body) else payload, returns := x.freed, seq := x.sent, ack := x.received,
    channel := channel, ends := ends, tag := tag }

/-- The next flit joins the link buffer. -/
def Link.push (x : Link) (l : Nat) (payload : List Byte) (channel ends : Option Nat) (tag : Option PacketTag) : Link :=
  let y := { x with sent := (x.sent + 1) % 65536 }
  { y with buffer := y.buffer ++ [y.flit l payload channel ends tag] }

/-- A packet is sent on a channel: it takes consecutive slots (R275), and its flits are in the link buffer until they are known
to have arrived (R273). Within the module its last one names it; through a port that one brings what the header does not hold. -/
def Link.send (x : Link) (l v n now : Nat) (q : Packet) : Link :=
  let ps := inPieces (unitBytes l) 16 q.bytes
  let last := fun (i : Nat) => decide (i + 1 = ps.length)
  ps.zipIdx.foldl (fun (x : Link) e =>
    x.push l e.1 (some v) (if last e.2 && decide (32 ≤ l) then some n else none) (if last e.2 && decide (l < 32) then some q.tag else none))
    { x with used := countOn x.used v ps.length, lastSend := now }

/-! ### Slot returns (R281) -/

/-- Adopt a slot return: `u` slots used, `r` the last return adopted, `x` the new one. -/
def adoptReturn (u r x : Nat) : Nat := if (x + 65536 - r) % 65536 ≤ (u + 65536 - r) % 65536 then x else r

/-- The free slots of a virtual channel. -/
def Link.free (x : Link) (v : Nat) (depth : Nat) : Nat :=
  depth - (x.used.getD v 0 + 65536 - x.returned.getD v 0) % 65536

/-- The depth of a virtual channel's ingress buffer, at most 1,024 (R281), and enough for the largest packet, which takes
consecutive slots (R275; DEDUCED, log entry 56). -/
def channelDepth (v : Nat) : Nat := min 1024 (slotsOf 32 1536 + Config.depth v)

/-- What an end learns from a flit or beat that passes its check: the returns, and what has arrived of its own. Only the next
flit that carries packet bytes moves its count on, and ends the retries: an idle one bears the number of the flit before it, and within
the module stays under way until it arrives. A mesh beat has no link fields (R272). -/
def Link.receive (x : Link) (l : Nat) (f : Flit) (next : Bool) (time : Nat) : Link :=
  let y : Link := { x with
    retries := if next then 0 else x.retries
    lastArrival := time
    returned := (List.range 8).map (fun v => adoptReturn (x.used.getD v 0) (x.returned.getD v 0) (flitReturn l f v)) }
  if meshLinks ≤ l then y
  else { y with
    received := if next then flitSeq l f else x.received
    buffer := x.buffer.filter (fun g => (decide (32 ≤ l) && g.channel.isNone) ||
      decide (32768 ≤ (flitAck l f + 65536 - flitSeq l g) % 65536)) }

/-! ### The death of a link (R273, R286 step 1) -/

/-- A packet is to go over a link, or stands at a die whose table names it for the packet. -/
def State.queuedFor (s : State) (n : Nat) (q : Packet) (l : Nat) : Bool :=
  match mget s.net.transit n with
  | some { spot := .link k, .. } => k == l
  | some { spot := .router die _, .. } => (linkFrom l).1 == die && dieOf q.dst != die &&
      (s.routeOf die q.ver q.dst).any (fun r => r.escape == l || r.adaptive.contains l)
  | none => false

/-- An end of a link is dead: it sends nothing more, what is on it is dropped, and its router reports to the route master. -/
def State.endDies (s : State) (l : Nat) : State :=
  let s := s.setLink l { s.link l with dead := true, buffer := [], partly := [] }
  let lost := s.net.packets.filter (fun e => (mget s.net.transit e.1).any (fun t => t.spot == .link l))
  (lost.foldl (fun (s : State) e => s.losePacket e.1 e.2) s).sendControl (linkFrom l).1 s.masterAddr (.linkDead l)

/-- A link of a module that is not off (R328) dies at both of its ends in the module; a fault of a mesh link is a module fault instead. -/
def State.linkDies (s : State) (l : Nat) : State :=
  if !linkExists l || (s.link l).dead || s.host.power == .p4 then s
  else if meshLinks ≤ l then s.report (.moduleFault l)
  else match otherEnd l with
    | some e => (s.endDies l).endDies e
    | none => s.endDies l

/-! ### Hops (R277, R281, R293) -/

/-- A multicast packet for some of its targets. -/
def State.mcwFor (s : State) (q : Packet) (xs : List Nat) : Packet :=
  let cl := clusterNamed q.dst
  let mask := ((List.range 64).map (fun i => if xs.contains (gangMember cl i) then 2 ^ i else 0)).sum
  { q with dst := s.clusterAddr (xs.headD cl), body := natBytes 8 mask ++ q.body.drop 8 }

/-- What of a packet at a router takes a link, and what stays: the mesh copies a multicast packet where the X-Y ways to its
targets part, so each link carries it once (R293). -/
def State.branch (s : State) (q : Packet) (die node l : Nat) (escape : Bool) : Option (Packet × Option Packet) :=
  if q.kind = 0x04 then
    let on := fun (t : Nat) => decide (meshLinks ≤ l) && linkFrom l == (die, node) && t / 256 == die &&
      escapeDir node (t % 256) == some ((l - meshLinks) % 4)
    match q.targets.filter on, q.targets.filter (fun t => !on t) with
    | [], _ => none
    | _, [] => some (q, none)
    | xs, ys => some (s.mcwFor q xs, some (s.mcwFor q ys))
  else if s.permits q die node l escape then some (q, none)
  else none

/-- A link's ends are listed from their first use on, as of now: until then their counters are zero, and the idle flits that have kept the
link alive (R273, R281) have changed nothing that an end holds but the times of the last one sent and arrived. -/
def State.useLink (s : State) (l : Nat) : State :=
  let fresh := fun (s : State) (l : Nat) =>
    if (mget s.net.links l).isSome then s
    else s.setLink l { lastSend := if l < 32 then s.time else s.cycle, lastArrival := s.time }
  match otherEnd l with
  | some e => fresh (fresh s l) e
  | none => fresh s l

/-- A packet at a router goes over a link on a virtual channel of its class that has room: from the adaptive channel to the
escape channel, never back (R277). Through a port it leaves the module. -/
def State.hop (s : State) (n l v : Nat) : State :=
  match mget s.net.packets n, mget s.net.transit n with
  | some q, some ⟨.router die node, held⟩ =>
    if s.discards die n q then s.losePacket n q
    else
      let stays := held.any (fun h => h.2 % 2 == 1) && v % 2 == 0
      if !linkExists l || (s.link l).dead || v / 2 != packetClass q.kind || stays ||
          decide ((s.link l).free v (channelDepth v) < slotsOf l q.body.length) then s
      else match s.branch q die node l (v % 2 == 1) with
        | none => s
        | some (p, rest) =>
          let s := s.useLink l
          let now := if l < 32 then s.time else s.cycle
          let m := if rest.isSome then s.net.nextPacket else n
          let s := match rest with
            | some r => { s with net := { s.net with
                packets := mset (mset s.net.packets n r) m p
                nextPacket := m + 1 } }
            | none => { s with net := s.net.freeSlots n }
          let s := s.setLink l ((s.link l).send l v m now p)
          if l < 32 then s.dropPacket m
          else { s with net := { s.net with transit := mset s.net.transit m { spot := .link l } } }
  | _, _ => s

/-! ### Arrival over a link (R273, R277) -/

/-- A packet stands at the router at which a link ends: the die's node flips on a packet of the next version, and an old one is
discarded (R287). -/
def State.land (s : State) (l n : Nat) (q : Packet) : State :=
  let s := s.flipBy (linkFrom l).1 q
  if s.discards (linkFrom l).1 n q then s.losePacket n q else s

/-- A flit that carries packet bytes has arrived at an end of a link. -/
def State.arrive (s : State) (l v : Nat) (f : Flit) : State :=
  let here : Transit := { spot := .router (linkFrom l).1 (linkFrom l).2, held := some (l, v) }
  if l < 32 then
    let x := s.link l
    let bs := mgetD x.partly v [] ++ (f.raw.drop 16).take 232
    match f.tag with
    | none => s.setLink l { x with partly := mset x.partly v bs }
    | some t =>
      let n := s.net.nextPacket
      let q := packetOf bs t
      let s := (s.setLink l { x with partly := merase x.partly v }).addPacket q
      { s with net := { s.net with transit := mset s.net.transit n here } }.land l n q
  else match f.ends with
    | none => s
    | some n => match mget s.net.packets n, mget s.net.transit n with
      | some q, some ⟨.link k, _⟩ =>
        if otherEnd k = some l then { s with net := { s.net with transit := mset s.net.transit n here } }.land l n q else s
      | _, _ => s

/-- The other end of a link has sent this flit, which may meet an error on its way. -/
def State.wasSent (s : State) (l : Nat) (f : Flit) : Bool :=
  match otherEnd l with
  | some e => (s.link e).buffer.any (fun g => g == { f with beatOk := true })
  | none => true

/-- The flit carries packet bytes and is the next in its link's order: by number, on the mesh the oldest in the buffer. -/
def State.inOrder (s : State) (l : Nat) (f : Flit) : Bool :=
  f.channel.isSome && (if meshLinks ≤ l then (otherEnd l).any (fun e => (s.link e).buffer.head? == some { f with beatOk := true })
    else flitSeq l f == ((s.link l).received + 1) % 65536)

/-- An arrival that fails its check fails a try of the flit that is next: of a port's flit, whose number does not count then, each one
that carries packet bytes (R273). -/
def State.failsTry (s : State) (l : Nat) (f : Flit) : Bool := if l < 32 then f.channel.isSome else s.inOrder l f

/-- A mesh beat, and an idle one of any link, is not kept once it has arrived. -/
def State.forgetFlit (s : State) (l : Nat) (f : Flit) : State :=
  match otherEnd l with
  | some e =>
    if meshLinks ≤ l || f.channel.isNone then s.setLink e { s.link e with buffer := (s.link e).buffer.erase f } else s
  | none => s

/-- LINK_FLIT_RECEIVE (R272, R273, R281): a flit that fails its check is dropped and sent again from the link buffer; its ninth
failure in a row, the eighth of a retry, kills the link. One that passes brings its returns; one whose number has been
received is a duplicate, and one that is not the next in order waits for those before it. -/
def execLinkFlitReceive (link : Nat) (flit : Flit) (s : State) : Host.Outcome State Fault Refusal :=
  if !linkExists link || (s.link link).dead || s.host.power == .p4 || !s.wasSent link flit then .next s
  else
    let s := s.useLink link
    let x := s.link link
    if !flitOk link flit then
      if !s.failsTry link flit then .next s
      else
        let s := s.setLink link { x with retries := x.retries + 1 }
        .next (if 8 ≤ x.retries then s.linkDies link else s)
    else
      let next := s.inOrder link flit
      let s := (s.setLink link (x.receive link flit next s.time)).forgetFlit link flit
      match flit.channel with
      | some v => .next (if next then s.arrive link v flit else s)
      | none => .next s

/-- IDLE_FLIT (R281): an idle flit or beat carries the slot returns when no traffic does. It bears the number of the last flit,
and is not sent again. -/
def execIdleFlit (link : Nat) (s : State) : Host.Outcome State Fault Refusal :=
  if !linkExists link || (s.link link).dead || s.host.power == .p4 then .next s
  else
    let s := s.useLink link
    let x := s.link link
    .next (s.setLink link { x with
      buffer := x.buffer ++ [x.flit link [] none none none], lastSend := if link < 32 then s.time else s.cycle })

/-- LINK_DEAD (R273): a die-to-die link or a port loses its lock, or is silent. -/
def execLinkDead (link : Nat) (s : State) : Host.Outcome State Fault Refusal := .next (s.linkDies link)

/-- A link end that has been used and lives: idle traffic is due when it has sent nothing for 64 cycles, or 53 ns at a port
(R281); it is dead when nothing has arrived for 1 µs (R273). In P3, where no cycle passes (R19), this is so of the ports alone (DEDUCED, log
entry 56). -/
def State.linkDue (s : State) (l : Nat) (x : Link) : Option Instr :=
  if x.dead || (decide (32 ≤ l) && s.host.power == .p3) then none
  else if decide (l < meshLinks) && decide (x.lastArrival + 1000 ≤ s.time) then some (.linkDead l)
  else if x.lastSend + (if l < 32 then 53 else 64) ≤ (if l < 32 then s.time else s.cycle) then some (.idleFlit l)
  else none

/-- A packet at a router, and the hop that takes it on along its escape route. -/
def State.nextHop (s : State) (n : Nat) (q : Packet) : Option (Nat × Nat) :=
  match mget s.net.transit n with
  | some ⟨.router die node, _⟩ =>
    let v := 2 * packetClass q.kind + 1
    let goals := if q.kind = 0x04 then q.targets.map (fun t => (t % 256, (none : Option Nat))) else s.goals q die true
    goals.findSome? (fun g => match escapeDir node g.1 with
      | some d => some (meshLink die node d, v)
      | none => g.2.map (fun l => (l, v)))
  | _ => none

/-- The next flit that is under way to an end of a link in the module. -/
def State.flitUnderWay (s : State) (l : Nat) (x : Link) : Option Instr :=
  (otherEnd l).bind (fun e => (x.buffer.find? (fun f => s.inOrder e f || f.channel.isNone)).map (.linkFlitReceive e))

end Sys2Proof.Machine
end

