-- ==== Sys2Proof/Machine/Remote.lean ====
section
/-! DEFINITION. Packets at their targets and at their origins (R47, R48, R89, R276 to R284, R292 to R294), and migration. -/

namespace Sys2Proof.Machine

/-! ### Requests at their target -/

/-- The request of this module of which a packet is a copy. -/
def State.requestFor (s : State) (q : Packet) : Option Outstanding :=
  s.net.outstanding.find? (fun o => o.packet.src == q.origin && o.packet.dst == q.dst && o.packet.seq == q.seq)

/-- A write of an engine of this module has been performed at its target (R117). -/
def State.notePerformed (s : State) (q : Packet) : State :=
  match s.requestFor q with
  | some { origin := .engine e id k, packet, .. } => s.packetPerformed e id k (s.targetKey q.dst) packet.len.val
  | _ => s

/-- A BARW of a pip has read PHASE at its target: its read of the barrier has been performed (R350, R351). -/
def State.foundPhase (s : State) (k n phase : Nat) : State :=
  (s.modPip k (fun p => p.modOp n (fun o => { o with kind := match o.kind with
    | .barwL a none => .barwL a (some phase)
    | x => x }))).settle k

/-- The BARW of this module that a packet carries has read PHASE. -/
def State.noteFound (s : State) (q : Packet) (phase : Nat) : State :=
  match s.requestFor q with
  | some { origin := .pip k n, .. } => s.foundPhase k n phase
  | _ => s

/-- The answer DATA, ACK or REFUSE (R276). -/
def State.answerData (s : State) (q : Packet) (bs : List Byte) : State := s.answer q 0x11 bs 0
def State.answerAck (s : State) (q : Packet) : State := s.answer q 0x10 [] 0
def State.answerRefuse (s : State) (q : Packet) (cause : Nat) : State := s.answer q 0x12 [] cause

/-- A request waits at its target, which has begun to serve it. -/
def State.holdPacket (s : State) (q : Packet) : State :=
  let n := s.net.nextPacket
  { s with net := { (s.addPacket q).net with transit := merase (s.addPacket q).net.transit n } }

/-- A remote read at its target (R80, R88, R292); none while it must wait. -/
def State.serveRead (s : State) (p : Place) (q : Packet) : Option State :=
  let off := offsetOf q.addr
  let n := q.len.val
  if !s.slotsFor p off n then none
  else match s.readPlaced p q.addr n with
    | .error cause => some ((s.giveSlots p off n).answerRefuse q cause)
    | .ok bs =>
      let c := s.placed p
      let gs := granulesOf off n
      let mode := match q.work with
        | .load m => m
        | _ => 0
      if (mode == 1 || mode == 2) && gs.any (fun g => c.gran (16 * g) == .empty) then none
      else
        let s := if mode = 2 then s.setPlaced p (c.drain gs) else s
        some ((s.giveSlots p off n).answerData q bs)

/-- A seal asked for from another module (R234): the answer waits for its completion. -/
def State.serveSeal (s : State) (p : Place) (h : BitVec 16) (q : Packet) : State :=
  match s.sealPlaced p h none with
  | (s, some j) => s.holdPacket { q with work := .sealHeld j }
  | (s, none) => s.answerRefuse q (if ((s.placed p).live (h.setWidth 64)).isSome then refSealed else refStale)

/-- An atomic request at its target (R88, R292, R339, R347 to R350, R380); none while it must wait. A BARW waits there for an update
that leaves another phase; one that comes again after a resumption is over at once where the phase has changed (R350). -/
def State.serveAtomic (s : State) (p : Place) (q : Packet) : Option State :=
  let off := offsetOf q.addr
  let n := q.work.bytes
  let c := s.placed p
  match q.work with
  | .seal h => some (s.serveSeal p h q)
  | w =>
    if !s.slotsFor p off n then none
    else
      let t := s.giveSlots p off n
      let plain := fun (f : State → State) =>
        if !c.inPlain off n then t.answerRefuse q refRange
        else if checkOf q.addr then t.answerRefuse q refStale
        else f t
      let barrier := fun (b : Barrier) (bs : List Byte) => plain (fun t => (t.putBarrier p off b).answerData q bs)
      match w with
      | .atomic op _ x =>
        if c.spres < off + n then some (t.answerRefuse q refRange)
        else match c.refusalInSlot q.addr off n false with
          | some (r, g) => some ((t.setPlaced p ((t.placed p).markRefused g)).answerRefuse q r)
          | none =>
            let bs := c.read off n
            let new := atomicNew op (8 * n) (leNat bs) (x.toNat % 2 ^ (8 * n))
            some ((t.setPlaced p ((t.placed p).write off (natBytes n new))).answerData q bs)
      | .join => some (plain (fun t =>
          (t.setPlaced p ((t.placed p).count off (· + (2 ^ 32 - 1))).1).answerData q (c.read off 4)))
      | .barrierInit n => some (barrier (Barrier.init n) [])
      | .arrive => some (barrier (c.barrier off).arrive [])
      | .barrierAdd n => some (match (c.barrier off).addBytes n with
          | none => plain (fun t => t.answerData q [1])
          | some b => barrier b [0])
      | .barrierSub n => some (barrier ((c.barrier off).subBytes n) [])
      | .barrierWait none => some (plain (fun t =>
          ((t.setPlaced p ((t.placed p).setBarrier off (c.barrier off).await)).holdPacket
            { q with work := .barrierHeld (c.barrier off).phase }).noteFound q (c.barrier off).phase))
      | .barrierWait (some x) => some (plain (fun t =>
          if (c.barrier off).phase ≠ x then t.answerData q (natBytes 1 (c.barrier off).phase)
          else t.holdPacket { q with work := .barrierHeld x }))
      | _ => some t

/-- A read or an atomic request on the context that serves it (R73): refused with cause 4 where there is none. -/
def State.serveAt (s : State) (p : Option Place) (q : Packet) : Option State :=
  match p with
  | none => some (s.answerRefuse q refNoContext)
  | some p => if q.kind = 0x01 then s.serveRead p q else s.serveAtomic p q

/-- A request that its target holds: a BARW whose wait is over, or a seal that is, is answered. -/
def State.serveHeld (s : State) (q : Packet) : Option State :=
  match q.work with
  | .barrierDone x => some (s.answerData q (natBytes 1 x))
  | .sealHeld j =>
    match s.place q.job (clusterNamed q.dst) with
    | some (.live cl) => if (s.cluster cl).seals.any (fun x => x.pod == j) then none else some (s.answerData q [])
    | _ => some (s.answerData q [])
  | _ => none

/-- Every update-only copy of a line merges at its home L2. -/
def State.mergeCopies (s : State) (copies : List (Nat × RedLine)) : State :=
  copies.foldl (fun (s : State) e => (e.2.by_.map Prod.fst).foldl State.settle (s.mergeRed e.1 e.2)) s

/-- The update-only line of a core merges whose values have come in a packet (R70). -/
def State.mergeSent (s : State) (q : Packet) : State :=
  match s.requestFor q with
  | some { origin := .merge k pline, .. } => s.mergeCopies ((s.redsOf pline).filter (fun e => e.1 == k && e.2.way == .sent))
  | _ => s

/-- A store or an atomic of this module's own pip has been performed at a home L2 on another die: the core's copy of the line is updated
with the bytes that it left there (R68, R101). -/
def State.copyFollows (s : State) (q : Packet) (bs : List Byte) : State :=
  match s.requestFor q with
  | some { origin := .pip k n, .. } =>
    match (s.pip k).bind (fun p => p.op n) with
    | some o =>
      match (match o.parts with
        | (a, _, _) :: _ => some a
        | [] => o.kind.globalAddr?) with
      | some a => s.setCore (k / 16) ((s.core (k / 16)).updateLine o.asid a bs)
      | none => s
    | none => s
  | _ => s

/-- An access from another die at its home L2 (R62, R67, R71); none while update-only copies of the line are recalled (R70, R279). A
write, a bulk packet which may cause no forwarded request (R278), merges them as it is performed (log entry 40). -/
def State.serveSlice (s : State) (q : Packet) : Option State :=
  let pa := q.addr.toNat
  let n := q.work.bytes
  if q.kind != 0x03 && q.work != .merge && !s.noCopies (pa / 128) then none
  else some (match q.work with
    | .merge => (s.mergeSent q).answerData q []
    | .atomic op _ x =>
      let (s, bs) := s.readPip pa n
      let new := natBytes n (atomicNew op (8 * n) (leNat bs) (x.toNat % 2 ^ (8 * n)))
      ((s.writeHome pa new).copyFollows q new).answerData q bs
    | .cas _ e x =>
      let (s, bs) := s.readPip pa n
      let new := if leNat bs = e.toNat % 2 ^ (8 * n) then natBytes n x.toNat else bs
      ((if leNat bs = e.toNat % 2 ^ (8 * n) then s.writeHome pa new else s).copyFollows q new).answerData q bs
    | .pin =>
      let (s, v) := s.pin q.launch (pa / 128)
      s.answerData q (natBytes 1 v)
    | .unpin => (s.unpin q.launch (pa / 128)).answerData q []
    | .flush => { s with dirty := merase s.dirty (pa / 128) }.answerData q []
    | _ =>
      if q.kind = 0x01 then
        let (s, bs) := s.readPip pa q.len.val
        s.answerData q bs
      else ((((s.mergeCopies (s.redsOf (pa / 128))).writeHome pa q.body).copyFollows q q.body).notePerformed q).answerAck q)

/-- The part of `n` bytes at an offset that lies in the i-th bank line they touch: where it begins among them, and its length. -/
def linePart (off n i : Nat) : Nat × Nat :=
  let lo := max off (off / 64 * 64 + 64 * i)
  (lo - off, min (off + n) (off / 64 * 64 + 64 * i + 64) - lo)

/-- How many bank lines `n` bytes at an offset touch. -/
def lineCount (off n : Nat) : Nat := if n = 0 then 0 else (off + n - 1) / 64 - off / 64 + 1

/-- One bank line of a write from outside (R77, R88, R280): none while its bank has no slot. A line that is refused is dropped, and
those that are not are written (log entry 56). -/
def State.sinkLine (s : State) (p : Place) (q : Packet) (bs : List Byte) (x : Sink) : Option (State × Sink) :=
  let off := offsetOf q.addr
  let (i, n) := linePart off bs.length x.lines
  if !s.slotsFor p (off + i) n then none
  else
    let t := s.giveSlots p (off + i) n
    let (t, r) := if (t.placed p).spres < off + i + n then (t, some refRange)
      else t.writePlaced p (q.addr + word i) ((bs.drop i).take n) q.setFull (q.work == .bulk)
    some (t, { lines := x.lines + 1, refusal := x.refusal.or r })

/-- How far a packet has been sunk, noted. -/
def State.setSink (s : State) (n : Nat) (x : Sink) : State := { s with net := { s.net with sinks := mset s.net.sinks n x } }

/-- A write's packet goes on by one bank line. `s` still holds it; `t` is the state without it, in which it ends. -/
def State.sinkNext (s t : State) (p : Option Place) (n : Nat) (q : Packet) (bs : List Byte) (ends : State → Option Nat → State) : State :=
  match p with
  | none => ends t (some refNoContext)
  | some p =>
    let x := mgetD s.net.sinks n {}
    match t.sinkLine p q bs x, s.sinkLine p q bs x with
    | some (t, y), some (s, _) => if lineCount (offsetOf q.addr) bs.length ≤ y.lines then ends t y.refusal else s.setSink n y
    | _, _ => s

/-- A write has been performed, or what of it was not refused: its answer (R292). -/
def State.writeEnds (s : State) (q : Packet) (r : Option Nat) : State :=
  match r with
  | none => (s.notePerformed q).answerAck q
  | some r => (s.notePerformed q).answerRefuse q r

/-- The context that serves a request to a cluster (R73). -/
def State.placeFor (s : State) (q : Packet) : Option Place :=
  if endType q.dst = 0 then s.place q.job (clusterNamed q.dst) else none

/-- A request whose context is saved goes to the die controller as FWD, with the request as its body (R73, R276, R279). -/
def State.forward (s : State) (q : Packet) : State :=
  let f := s.packet 0x08 q.dst (s.controllerAddr (dieOf q.dst)) q.addr (32 + q.body.length) q.bytes false q.work q.job q.launch
  s.addPacket { f with ver := s.versionAt (dieOf q.dst), seq := q.seq, origin := q.origin }

/-- RD or AT reaches its target: a cluster, or the home L2 of a line. -/
def State.serve (s : State) (n : Nat) (kind : Byte) : State :=
  match s.takeRequest n [kind] with
  | .none => s
  | .over t => t
  | .act t q =>
    if s.begun n q then (t.serveHeld q).getD s
    else if endType q.dst = 1 then (t.serveSlice q).getD (s.recallLine (q.addr.toNat / 128))
    else match t.placeFor q with
      | some (.kept _ _) => if t.forwardRoom q.dst then t.forward q else s
      | p => (t.serveAt p q).getD s

/-- RD (R276, R292). -/
def execRdReq (packet : Nat) (s : State) : Host.Outcome State Fault Refusal := .next (s.serve packet 0x01)

/-- AT (R276, R292). -/
def execAtReq (packet : Nat) (s : State) : Host.Outcome State Fault Refusal := .next (s.serve packet 0x02)

/-- WR (R276, R292): at a cluster by bank lines, whatever its context, since a bulk packet is never forwarded (R278). -/
def execWrReq (packet : Nat) (s : State) : Host.Outcome State Fault Refusal :=
  match s.takeRequest packet [0x03] with
  | .none => .next s
  | .over t => .next t
  | .act t q =>
    if endType q.dst = 1 then .next ((t.serveSlice q).getD s)
    else .next (s.sinkNext t (t.placeFor q) packet q q.body (fun t r => t.writeEnds q r))

/-- MCW (R293) at one of its target clusters, at whose router it stands: the target performs and answers its own copy, and the packet
goes on to the others. -/
def execMcwReq (packet target : Nat) (s : State) : Host.Outcome State Fault Refusal :=
  match mget s.net.packets packet with
  | none => .next s
  | some q =>
    if q.kind != 0x04 || !s.here q.dst || !q.targets.contains target || !s.standsAt packet (s.clusterAddr target) then .next s
    else
      let mine : Packet := { q with dst := s.clusterAddr target }
      let rest := q.targets.filter (· != target)
      let settled := { s with net := { s.net with sinks := merase s.net.sinks packet } }
      .next (s.sinkNext settled (s.place q.job target) packet mine (q.body.drop 8) (fun t r =>
        (if rest = [] then t.dropPacket packet else t.modPacket packet (fun q => t.mcwFor q rest)).writeEnds mine r))

/-- A recall reaches a core's cluster (R70, R279): the answer takes the values of the core's update-only lines of that line to the home
L2, after a merge of them that is under way already. -/
def State.recalled (s : State) (f : Packet) : Option State :=
  match s.requestFor f with
  | some { origin := .recall k pline, .. } =>
    let mine := (s.core k).reds.filter (fun r => r.pline == pline)
    if mine.any (fun r => r.way == .sent) then none
    else some ((s.redsLeave k (fun r => r.pline == pline)).answerData f (mine.flatMap RedLine.body))
  | _ => some (s.answerAck f)

/-- FWD (R279): a recall at a core's cluster, or a request for a saved context, which the die controller's firmware serves; the answer
goes to the original origin. -/
def execFwdReq (packet : Nat) (s : State) : Host.Outcome State Fault Refusal :=
  match s.takeRequest packet [0x08] with
  | .none => .next s
  | .over t => .next t
  | .act t f =>
    if f.work = .recall then .next ((t.recalled f).getD s)
    else
      let q := packetOf f.body f.tag
      match (if q.crossesDie then t.receiptOf q else none), (if q.crossesDie then t.twin q else none) with
      | some r, _ => .next (t.answerAgain q r)
      | none, some m => .next (t.modPacket m (fun x => { x with ver := q.ver }))
      | none, none => .next ((t.serveAt (t.placeFor q) q).getD s)

/-! ### Responses at their origin (R89, R284) -/

/-- A local access's address. -/
def Op.address (o : Op) : Word := o.kind.localAddr?.getD 0

/-- A pip's JOIN learns its counter (R42). -/
def Pip.joinedBy (p : Pip) (op n : Nat) : Pip :=
  { p with joined := p.joined.map (fun j => if j.op = op ∧ j.result = none then { j with result := some n } else j) }

/-- A COPY or another command goes on after another module has answered (R120, R232, R378). -/
def State.commandAnswered (s : State) (k : Nat) (o : Op) (q : Packet) (data : Option (List Byte)) : State :=
  match o.phase, o.kind with
  | .fetching side 1, .command kind _ _ =>
    let s := s.modPip k (fun p => p.modOp o.id (fun o => { o with phase := .fetching (side ++ (match data with
      | some bs => bs.map some
      | none => List.replicate q.len.val (if kind = .gatherSpr ∨ kind = .scatterSpr then none else some 0))) 0 }))
    match data, kind with
    | none, .gatherList | none, .scatterList => s.noteRefusal k o.id q.addr
    | _, _ => s
  | .fetching side 2, _ => s.modPip k (fun p => p.modOp o.id (fun o => { o with phase := .fetching side (match data with
      | some [0] => 3
      | some _ => 4
      | none => 5) }))
  | _, _ => s

/-- DATA completes a pip's access, or a part of it at a home L2. -/
def State.pipData (s : State) (k : Nat) (o : Op) (q : Packet) (bs : List Byte) : State :=
  match o.kind with
  | .loadL _ _ _ => s.finish k o (vbytes bs)
  | .atomicL _ n _ _ => s.finish k o ((atomicResult n (leNat bs)).setWidth 512)
  | .joinL _ => (s.modPip k (fun p => p.joinedBy o.id ((leNat bs + (2 ^ 32 - 1)) % 2 ^ 32))).finish k o 0
  | .barwL _ _ => s.finish k o (vbytes bs)
  | .command _ _ _ => s.commandAnswered k o q (some bs)
  | _ => s.sliceAnswered k o bs

/-- REFUSE completes a pip's access (R89, R350, R380). -/
def State.pipRefused (s : State) (k : Nat) (o : Op) (q : Packet) (cause : Nat) : State :=
  match o.kind with
  | .command _ _ _ => s.commandAnswered k o q none
  | _ =>
    let s := s.modPip k (fun p => p.refuse o.address)
    match o.kind with
    | .joinL _ => (s.modPip k (fun p => p.joinedBy o.id 1)).finish k o 0
    | .barwL _ _ => s.finish k o ((statusWord cause).setWidth 512)
    | _ => s.finish k o 0

/-- A task's arrival in another module is answered (R218, R432): a refusal counts. -/
def State.arrivalAnswered (s : State) (cl : Nat) (q : Packet) (refused : Bool) : State :=
  let c := s.cluster cl
  match c.mu.run with
  | none => s
  | some r =>
    let r := { r with unanswered := r.unanswered - 1, refused := r.refused + refused.toNat }
    let s := s.setCluster cl { c with mu := { c.mu with run := some r } }
    if refused then s.refuseIssuer r.task.issuer q.addr else s

/-- An engine's packet is answered. -/
def State.engineAnswered (s : State) (e : EngineRef) (id k : Nat) (q : Packet) (data : Option (List Byte)) : State :=
  let t := s.targetKey q.dst
  match s.command? e id with
  | none => s
  | some c =>
    match q.kind with
    | 0x01 =>
      let bs := match data with
        | some bs => bs.map some
        | none => List.replicate q.len.val (some 0)
      let s := if data.isNone then s.refuseIssuer c.issuer q.addr else s
      s.modCommand e id (fun c => { (c.take k bs) with awaiting := c.awaiting.erase (k, t) })
    | 0x02 =>
      let refused := data.isNone && (match q.work with
        | .seal _ => true
        | _ => false)
      (if refused then s.refuseIssuer c.issuer q.addr else s).modCommand e id (fun c => { c with awaiting := c.awaiting.erase (k, t) })
    | _ => (if data.isNone then s.refuseIssuer c.issuer q.addr else s).packetAnswered e id k t q.len.val

/-- A response reaches its origin: the access it completes, if it is the first for it (R284). -/
def State.respond (s : State) (n : Nat) (kinds : List Byte) (f : State → Outstanding → Packet → State) : State :=
  match s.takeUp n kinds with
  | .none => s
  | .over t => t
  | .act t r =>
    match t.takeResponse r with
    | (t, some o) => f t o r
    | (t, none) => t

/-- The outstanding operation of a pip that a response completes. -/
def State.withOp (s : State) (k op : Nat) (f : Op → State) : State :=
  match (s.pip k).bind (fun p => p.op op) with
  | some o => f o
  | none => s

/-- ACK (R284). -/
def execAckResp (packet : Nat) (s : State) : Host.Outcome State Fault Refusal :=
  .next (s.respond packet [0x10] (fun s o _ => match o.origin with
    | .pip k op => s.withOp k op (fun x => s.sliceAnswered k x [])
    | .engine (.matrix cl) _ _ => s.arrivalAnswered cl o.packet false
    | .engine e id k => s.engineAnswered e id k o.packet (some [])
    | .ask id _ => s.writeCame id
    | _ => s))

/-- DATA (R284). -/
def execDataResp (packet : Nat) (s : State) : Host.Outcome State Fault Refusal :=
  .next (s.respond packet [0x11] (fun s o r => match o.origin with
    | .pip k op => s.withOp k op (fun x => s.pipData k x o.packet r.body)
    | .part k op piece => s.halfCame k op piece r.body
    | .ask id part => s.partCame id part r.body
    | .recall k pline => s.mergeCopies ((s.redsOf pline).filter (fun e => e.1 == k && e.2.way == .sent))
    | .engine (.matrix cl) _ _ => s.arrivalAnswered cl o.packet false
    | .engine e id k => s.engineAnswered e id k o.packet (some r.body)
    | _ => s))

/-- REFUSE (R89). -/
def execRefuseResp (packet : Nat) (s : State) : Host.Outcome State Fault Refusal :=
  .next (s.respond packet [0x12] (fun s o r => match o.origin with
    | .pip k op => s.withOp k op (fun x => s.pipRefused k x o.packet (r.addr.toNat % 256))
    | .engine (.matrix cl) _ _ => s.arrivalAnswered cl o.packet true
    | .engine e id k => s.engineAnswered e id k o.packet none
    | _ => s))

/-- CONF (R284): the target deletes the receipts of the packets confirmed. -/
def execConfResp (packet : Nat) (s : State) : Host.Outcome State Fault Refusal :=
  match s.takeUp packet [0x15] with
  | .none => .next s
  | .over t => .next t
  | .act t r =>
    let seqs := (List.range (r.body.length / 2)).map (fun i => BitVec.ofNat 16 (fieldAt r.body (2 * i) 2))
    .next { t with net := { t.net with receipts := t.net.receipts.filter (fun x =>
      !(x.src == r.src && x.dst == r.dst && seqs.contains x.seq)) } }

/-- The kinds of R276. -/
def packetKinds : List Byte := [0x01, 0x02, 0x03, 0x04, 0x05, 0x08, 0x10, 0x11, 0x12, 0x13, 0x14, 0x15, 0x18]

/-- UNKNOWN_KIND_PACKET (R276): discarded, and a module fault is reported. -/
def execUnknownKindPacket (packet : Nat) (s : State) : Host.Outcome State Fault Refusal :=
  match mget s.net.packets packet with
  | some q =>
    if s.here q.dst && !packetKinds.contains q.kind then .next ((s.dropPacket packet).report (.moduleFault q.kind.toNat)) else .next s
  | none => .next s

/-! ### Migration (R47 to R49, R294) -/

/-- MIGRATION_DEPART (R47 steps 1 and 2): nothing is outstanding, and no deferred trap waits to be taken. -/
def execMigrationDepart (p : Nat) (s : State) : Host.Outcome State Fault Refusal :=
  match s.pip p with
  | none => .next s
  | some x =>
    match x.cond with
    | .parked (.migrate a) =>
      let job := s.jobOfLaunch x.launch
      if !x.ops.isEmpty || x.deferredTrap.isSome || x.held then .next s
      else match s.resolve job a with
        | none => .next s
        | some dst =>
          let src := s.clusterAddr (p / 256)
          let body := x.pack
          if !s.mayInject src dst body.length 1 then .next s
          else
            .next ((s.inject (.migrant p) (s.packet 0x05 src dst a body.length body false .plain job x.launch)).setPip p
              { x with cond := .inTransit })
    | _ => .next s

/-- A launch runs on a cluster and is not being pre-empted (R48). -/
def State.takesMigrants (s : State) (cl : Nat) (l : BitVec 32) : Bool :=
  s.holdsLaunch cl l && (match s.launch l with
    | some x => x.phase == .resident
    | none => false)

/-- The pip in transit from this module that a packet carries. -/
def State.departed (s : State) (l : BitVec 32) (pipid : Word) : Option (Nat × Pip) :=
  s.pips.find? (fun e => e.2.launch == l && e.2.pipid == pipid && e.2.cond == .inTransit)

/-- MIG (R48): accepted into the lowest free of 64 inbox entries, or refused. -/
def execMigReq (packet : Nat) (s : State) : Host.Outcome State Fault Refusal :=
  match s.takeRequest packet [0x05] with
  | .none => .next s
  | .over t => .next t
  | .act t q =>
    let cl := clusterNamed q.dst
    let c := t.cluster cl
    let m : Migrant := { bytes := q.body }
    match (if t.takesMigrants cl m.launch then (List.range 64).find? (fun e => (mget c.inbox e).isNone) else none) with
    | none => .next (t.answer q 0x14 [] 0)
    | some e =>
      let (t, m) := match t.departed m.launch m.pipid with
        | some (k, p) =>
          (t.setPip k { p with messages := [] },
           { m with messages := p.messages, refusedVal := p.refusedVal, engerrVal := p.engerrVal, rejectVal := p.rejectVal,
                    notBefore := t.timeAt (k / 256) })
        | none =>
          ({ t with fresh := t.fresh + 3 },
           { m with notBefore := t.timeAt cl + 20, refusedVal := Config.freeWord t.fresh, engerrVal := Config.freeWord (t.fresh + 1), rejectVal := Config.freeWord (t.fresh + 2) })
      .next ((t.setCluster cl { c with inbox := mset c.inbox e m }).answer q 0x13 [] 0)

/-- The messages that still wait in the origin slot of a migrant that another module has accepted pass to it (R314), and so does what
engines have told it meanwhile (R89, R243). -/
def State.passMessages (s : State) (k : Nat) : State :=
  match s.pip k with
  | some p =>
    p.news.foldl (fun (s : State) x => s.report (.passedOn p.launch p.pipid x))
      (if p.messages.isEmpty then s else s.report (.messagesPassed p.launch p.pipid p.messages))
  | none => s

/-- MACK (R294): the origin slot becomes free. -/
def execMackResp (packet : Nat) (s : State) : Host.Outcome State Fault Refusal :=
  .next (s.respond packet [0x13] (fun s o _ => match o.origin with
    | .migrant k => { s.passMessages k with pips := merase s.pips k }
    | _ => s))

/-- MREF (R47 step 4): the pip resumes in its origin slot, and the load will execute as a remote read. -/
def execMrefResp (packet : Nat) (s : State) : Host.Outcome State Fault Refusal :=
  .next (s.respond packet [0x14] (fun s o _ => match o.origin with
    | .migrant k => s.modPip k (fun p => { p with cond := .ready, stay := some p.pc, news := [] })
    | _ => s))

/-- MIGRANT_RESUME (R47 step 3, R49): in the lowest free slot, with an acquire at job scope (R122), once the cluster's reading of global
time has come to what it may have read where it departed from, so that no two readings of the pip decrease (R20, R395; log entry 58). -/
def execMigrantResume (cl entry : Nat) (s : State) : Host.Outcome State Fault Refusal :=
  let c := s.cluster cl
  match mget c.inbox entry, (List.range 256).find? (fun n => (s.pip (256 * cl + n)).isNone) with
  | some m, some n =>
    if !s.takesMigrants cl m.launch || decide (s.timeAt cl < m.notBefore) then .next s
    else
      let k := 256 * cl + n
      let p : Pip := { m.pip with extent := s.extentOf m.launch }
      .next (((s.setCluster cl { c with inbox := merase c.inbox entry }).setPip k p).discardLines (k / 16))
  | _, _ => .next s

end Sys2Proof.Machine
end

