-- ==== Sys2Proof/Machine/Fabric.lean ====
section
/-! DEFINITION. The events of routing versions, global time, STAGGER and rank tables (10 R285 to R291, R295 to R297). A die stands
for its routers and its endpoints as one node (log entry 37). -/

namespace Sys2Proof

/-! ### Control packets (R276, R286) -/

/-- It brings the table of a version; it is FLIP to one; it is a time packet. -/
def Control.isTables (v : Byte) : Control → Bool
  | .tables w _ => w == v
  | _ => false
def Control.isFlip (v : Byte) : Control → Bool
  | .flip w => w == v
  | _ => false
def Control.isTime : Control → Bool
  | .time _ => true
  | _ => false

end Sys2Proof

namespace Sys2Proof.Machine

/-- The die controller of a node of the domain, by its number. -/
def nodeAddr (r : Nat) : Word := word (2 * 2 ^ 8 + r % 64 * 2 ^ 12 + r / 64 * 2 ^ 18)

/-- A control packet that has reached a die controller. -/
def State.controlAt (s : State) (die : Nat) (f : Control → Bool) : Option (Nat × Packet) :=
  s.net.packets.find? (fun e => e.2.kind == 0x18 && e.2.dst == s.controllerAddr die && s.standsAt e.1 e.2.dst && (match e.2.work with
    | .control c => f c
    | _ => false))

/-- The change of version replaced. -/
def State.setChange (s : State) (c : Option RouteChange) : State := { s with net := { s.net with change := c } }

/-- Send a control packet to each node of a plan. -/
def State.tell (s : State) (plan : Tables) (f : DieTable → Control) : State :=
  plan.foldl (fun (s : State) e => s.sendControl 0 (nodeAddr e.1) (f e.2)) s

/-- An element joins a list once. -/
def joinOnce {α : Type} [BEq α] (xs : List α) (x : α) : List α := if xs.contains x then xs else xs ++ [x]

/-! ### Routing versions (R285 to R289) -/

/-- The tables of a plan that are for a module, by die. -/
def planFor (plan : Tables) (m : Nat) : Tables := (plan.filter (fun e => e.1 / 64 == m)).map (fun e => (e.1 % 64, e.2))

/-- A plan has a table for each die of this module, names no link that is known to be dead (R286 step 2), and in no module do its escape
routes form a cycle of channel dependencies (R277; what lies between modules, log entry 56). -/
def State.planOk (s : State) (plan : Tables) : Bool :=
  (plan.map (fun e => e.1 / 64)).eraseDups.all (fun m => escapesOk (planFor plan m)) &&
  (List.range 64).all (fun d => (mget plan (s.nodeNumber d)).isSome) &&
  plan.all (fun e => (e.2.dies ++ e.2.modules).all (fun r => (r.2.escape :: r.2.adaptive).all (fun l =>
    !s.net.reportedDead.contains (e.1 / 64, l) && !(e.1 / 64 == s.host.modid.toNat && (s.link l).dead))))

/-- ROUTE_CHANGE_START (R286 step 2): at the route master, one change at a time. The new tables, without the dead links, go to
every router of the domain. -/
def execRouteChangeStart (plan : Tables) (unreachable : List (Nat × Nat)) (s : State) : Host.Outcome State Fault Refusal :=
  if s.net.change.isSome || s.net.routeMaster != s.host.modid.toNat || !s.planOk plan then .next s
  else
    let v := s.net.version + 1
    .next ((s.setChange (some { version := v, plan := plan, unreachable := unreachable })).tell plan (.tables v))

/-- ROUTE_TABLES_INSTALL (R286 step 3): a die's routers install the table that has reached them beside the present one, and
acknowledge it. -/
def execRouteTablesInstall (router : Nat) (s : State) : Host.Outcome State Fault Refusal :=
  match (if router < 64 then s.controlAt router (Control.isTables (s.net.version + 1)) else none) with
  | some (n, { work := .control (.tables v t), src, .. }) =>
    let c := s.net.change.getD { version := v }
    .next (((s.setChange (some { c with tables := mset c.tables router t })).dropPacket n).sendControl router src
      (.installed v (s.nodeNumber router)))
  | _ => .next s

/-- FLIP_BROADCAST (R286 step 4): once every router has acknowledged. -/
def execFlipBroadcast (s : State) : Host.Outcome State Fault Refusal :=
  match s.net.change with
  | some c =>
    if c.plan.isEmpty || c.broadcast || !c.plan.all (fun e => c.ackInstalled.contains e.1) then .next s
    else .next ((s.setChange (some { c with broadcast := true })).tell c.plan (fun _ => .flip c.version))
  | none => .next s

/-- FLIP (R286 step 5, R287): FLIP arrives at a node. -/
def execFlip (node : Nat) (s : State) : Host.Outcome State Fault Refusal :=
  match s.net.change with
  | none => .next s
  | some c => match (if node < 64 then s.controlAt node (Control.isFlip c.version) else none) with
    | some (n, _) => .next ((s.dropPacket n).flipNode node)
    | none => .next s

/-- The version before is free: the change is over in this module. -/
def State.freeVersion (s : State) (c : RouteChange) : State :=
  { s with net := { s.net with version := c.version, tables := c.tables, unreachable := c.unreachable, change := none } }

/-- ROUTE_VERSION_FREE (R286 step 6, R289): once every flip is acknowledged, every router is told to free the version before, the
change is complete, and the pairs that the tables leave unconnected are reported. -/
def execRouteVersionFree (s : State) : Host.Outcome State Fault Refusal :=
  match s.net.change with
  | some c =>
    if c.plan.isEmpty || !c.plan.all (fun e => c.ackFlipped.contains e.1) then .next s
    else .next (c.unreachable.foldl (fun s e => s.report (.unreachable e.1 e.2))
      ((s.freeVersion c).tell c.plan (fun _ => .free c.version)))
  | none => .next s

/-- A control packet is taken up at its die controller: a death reaches the route master, an acknowledgement its change; a router
frees the version before. -/
def State.control (s : State) (n : Nat) : State :=
  match s.takeUp n [0x18] with
  | .act t q =>
    match q.work, t.net.change with
    | .control (.linkDead l), _ => { t with net := { t.net with reportedDead := joinOnce t.net.reportedDead (modidOf q.src, l) } }
    | .control (.installed v r), some c =>
      if v = c.version then t.setChange (some { c with ackInstalled := joinOnce c.ackInstalled r }) else t
    | .control (.flipped v r), some c =>
      if v = c.version then t.setChange (some { c with ackFlipped := joinOnce c.ackFlipped r }) else t
    | .control (.free v), some c =>
      if v = c.version ∧ (List.range 64).all c.flipped.contains then t.freeVersion c else t
    | .control (.installed _ _), none | .control (.flipped _ _), none | .control (.free _), none => t
    | _, _ => s
  | .over t => t
  | .none => s

/-! ### Global time (R20, R295) -/

/-- A control packet of this kind at die controller 0 is used up. -/
def State.useControl (s : State) (f : Control → Bool) : State :=
  match s.controlAt 0 f with
  | some (n, _) => s.dropPacket n
  | none => s

/-- Time packets go to each neighbour at least once every 1 ms (R295). -/
def State.sendTimes (s : State) : State :=
  if s.host.ready && s.host.power != .p4 && decide (s.host.lastTimeSent + 1000000 ≤ s.time) then
    s.net.neighbours.foldl (fun (s : State) e => s.sendControl 0 (nodeAddr (64 * e.2)) (.time s.time))
      { s with host := { s.host with lastTimeSent := s.time } }
  else s

/-- The count steps forward at once: what lies between two of its values at the links, and between time packets, does not change. -/
def State.stepTime (s : State) (t : Nat) : State :=
  let d := t - s.time
  let links := s.net.links.map (fun (e : Nat × Link) => (e.1, { e.2 with
    lastArrival := e.2.lastArrival + d, lastSend := if e.1 < 32 then e.2.lastSend + d else e.2.lastSend }))
  { s with time := t, net := { s.net with links := links }, host := { s.host with lastTimeSent := s.host.lastTimeSent + d } }

/-- TIME_SYNC_EXCHANGE (R295): an exchange with a neighbour measures the domain's reference, to within so many ns. While
synchronisation is held the count is steered as it advances, which is no act of its own (log entry 56); after a loss it steps forward
at once to the reference if it is behind, and the recovery is reported once it surely lies within the bound of R20, 20 ns. -/
def execTimeSyncExchange (reference within : Nat) (s : State) : Host.Outcome State Fault Refusal :=
  if !s.host.ready then .next s
  else
    let s := s.useControl Control.isTime
    if s.host.synced then .next { s with host := { s.host with lastExchange := s.time } }
    else
      let t := max s.time reference
      let s := s.stepTime t
      let s := { s with host := { s.host with lastExchange := t } }
      if t + within ≤ reference + 20 then .next ({ s with host := { s.host with synced := true } }.report .syncRecovered) else .next s

/-- TIME_SYNC_LOSS (R295): no exchange within the last 10 ms. -/
def execTimeSyncLoss (s : State) : Host.Outcome State Fault Refusal :=
  if s.host.synced && decide (s.host.lastExchange + 10000000 ≤ s.time) then
    .next ({ s with host := { s.host with synced := false } }.report .syncLost)
  else .next s

/-! ### STAGGER (R296, R297) -/

/-- A job's record replaced. -/
def State.setJob (s : State) (job : Nat) (j : Job) : State := { s with jobs := mset s.jobs job j }

/-- A gate that opens at a time: one whose time has passed is open. -/
def State.gateAt (s : State) (t : Nat) : Option Nat := if t ≤ s.time then none else some t

/-- A STAGGER reaches the module: it acts only on an epoch above the last it accepted (R297). -/
def State.takeStagger (s : State) (job epoch t0 interval : Nat) : State :=
  let j := s.jobOf job
  if j.epoch.any (fun e => decide (epoch ≤ e)) then s
  else s.setJob job { j with epoch := some epoch, gate := s.gateAt (t0 + j.ownRank * interval) }

/-- STAGGER (R296, R297): the broadcast reaches the module, in a control packet or from a module outside the model. -/
def execStagger (job epoch t0 interval : Nat) (s : State) : Host.Outcome State Fault Refusal :=
  if 2 ^ 32 ≤ epoch ∨ 2 ^ 32 ≤ interval then .next s
  else .next ((s.useControl (· == .stagger job epoch t0 interval)).takeStagger job epoch t0 interval)

/-- STAGGER_SUBMIT (R296): through a port that works, the module sends the broadcast to every module of the job, itself among
them. -/
def execStaggerSubmit (job epoch t0 interval : Nat) (s : State) : Host.Outcome State Fault Refusal :=
  if 2 ^ 32 ≤ epoch ∨ 2 ^ 32 ≤ interval ∨ !s.managed then .next s
  else
    let t := (s.otherModules job).foldl (fun (s : State) m => s.sendControl 0 (nodeAddr (64 * m)) (.stagger job epoch t0 interval)) s
    .next ((t.report (.stagger job epoch t0 interval)).takeStagger job epoch t0 interval)

/-- START_GATE_OPEN (R296). -/
def execStartGateOpen (job : Nat) (s : State) : Host.Outcome State Fault Refusal :=
  let j := s.jobOf job
  match j.gate with
  | some t => if t ≤ s.time then .next (s.setJob job { j with gate := none }) else .next s
  | none => .next s

/-! ### Rank tables (R290, R291) -/

/-- An entry of a rank table, its zero field zero (R290). -/
def rankEntry (e : Word) : Word := e &&& 0x3FFFFF

/-- RANK_TABLE_INSTALL (R290): the job's table and the module's own rank, through a port that works. -/
def execRankTableInstall (job ownRank : Nat) (entries : List (Nat × Word)) (s : State) : Host.Outcome State Fault Refusal :=
  if !s.managed then .next s
  else
  let ranks := (entries.filter (fun e => decide (e.1 ≤ 65534))).foldl (fun m e => mset m e.1 (rankEntry e.2)) ([] : Map Word)
  .next ((s.setJob job { s.jobOf job with ranks := ranks, ownRank := ownRank }).report (.rankTable job))

/-- A packet of a job goes to a rank: that of its local address, where 0xFFFF is the module's own (R73). A request to a home L2 slice, a
recall, a control packet and a response name none. -/
def State.toRank (s : State) (job rank : Nat) (q : Packet) : Bool :=
  q.job == job && endType q.dst != 1 && q.work != .recall && decide (q.kind.toNat < 0x10) &&
    (if rankOf q.addr = 0xFFFF then (s.jobOf job).ownRank else rankOf q.addr) == rank

/-- An outstanding packet of a job goes to a rank that the tables do not connect with its origin (R289). -/
def State.cutOff (s : State) (job rank : Nat) (q : Packet) : Bool :=
  s.toRank job rank q && s.net.unreachable.contains (q.src.toNat, q.dst.toNat)

/-- No packet of a job to a rank is unconfirmed (R291 step 2), but for those that wait for the rank's relocation itself, since the
tables do not connect them (R289; log entry 56). -/
def State.rankQuiet (s : State) (job rank : Nat) : Bool :=
  !s.net.outstanding.any (fun o => s.toRank job rank o.packet && !s.cutOff job rank o.packet)

/-- The packets that a relocation of their rank connects again go to the new module (R289, R291). -/
def State.retarget (s : State) (job rank : Nat) (modid : BitVec 20) : State :=
  let waiting := s.net.outstanding.filter (fun o => s.cutOff job rank o.packet && !o.completed)
  let s := { s with net := { s.net with outstanding := s.net.outstanding.filter (fun o => !s.cutOff job rank o.packet)
                                        packets := s.net.packets.filter (fun e => !s.cutOff job rank e.2) } }
  waiting.foldl (fun (s : State) o =>
    let dst := setField o.packet.dst 18 20 modid.toNat
    s.inject o.origin { o.packet with dst := dst, seq := s.freeSeq o.packet.src dst, crossesDie := crosses o.packet.src dst }) s

/-- The moving ranks of a job that have fallen quiet and have not been reported. -/
def State.newlyQuiet (s : State) (job : Nat) (j : Job) : List Nat :=
  (j.ranks.filter (fun e => e.2.getLsbD 21 && !j.drained.contains e.1 && s.rankQuiet job e.1)).map Prod.fst

/-- Report the moving ranks to which no packet is unconfirmed, each once (R291 step 2). -/
def State.reportDrained (s : State) : State :=
  s.jobs.foldl (fun s e =>
    let rs := s.newlyQuiet e.1 e.2
    if rs.isEmpty then s
    else rs.foldl (fun s r => s.report (.rankDrained e.1 r)) (s.setJob e.1 { e.2 with drained := e.2.drained ++ rs })) s

/-- RANK_RELOCATION (R291 steps 1, 3 and 4, R297): with `moving` the entry is marked. Without it the entry names the new
module: a rank that came here brings its epoch and gate, and this module's own rank, gone, takes its saved contexts with it. -/
def execRankRelocation (job rank : Nat) (modid : BitVec 20) (moving : Bool) (epoch gate : Option Nat) (s : State) :
    Host.Outcome State Fault Refusal :=
  let j := s.jobOf job
  match mget j.ranks rank with
  | none => .next s
  | some e =>
    if !e.getLsbD 20 then .next s
    else
      let entry := word ((if moving then fieldOf e 0 20 else modid.toNat) + 2 ^ 20 + (if moving then 2 ^ 21 else 0))
      let j := { j with ranks := mset j.ranks rank entry, drained := j.drained.filter (· != rank) }
      if moving then .next (s.setJob job j).reportDrained
      else if modid = s.host.modid then
        .next ((s.setJob job { j with ownRank := rank, epoch := epoch, gate := gate.bind s.gateAt }).retarget job rank modid)
      else if rank = j.ownRank then
        .next ({ s with
          saved := s.saved.filter (fun x => x.job != job)
          launches := s.launches.filter (fun x => !(x.2.job == job && x.2.phase == LaunchPhase.saved)) }.setJob job j)
      else .next ((s.setJob job j).retarget job rank modid)

end Sys2Proof.Machine
end

