-- ==== Sys2Proof/Machine/Hash.lean ====
section
/-! DEFINITION. SHA-256 and the verification of HSS/LMS signatures, as the rule of signatures names them (12 R325; FIPS 180-4,
RFC 8554, whose text the spec does not repeat: PRESUMED, log entry 51). Numbers are big-endian there. -/

namespace Sys2Proof.Machine

/-- A number in `n` bytes, most significant first, and back. -/
def beBytes (n x : Nat) : List Byte := (natBytes n x).reverse
def beNat (bs : List Byte) : Nat := leNat bs.reverse

/-! ### SHA-256 -/

/-- The primes below a bound. -/
def primesBelow (n : Nat) : List Nat :=
  (List.range n).filter (fun x => decide (2 ≤ x) && (List.range x).all (fun d => decide (d < 2) || x % d != 0))

/-- The integer `k`-th root of `n`, by binary digits from the top, `fuel` of them. -/
def rootDigits (k n : Nat) : Nat → Nat → Nat
  | 0, x => x
  | fuel + 1, x => rootDigits k n fuel (if (x + 2 ^ fuel) ^ k ≤ n then x + 2 ^ fuel else x)

/-- The first 32 bits of the fraction of a number's `k`-th root: how FIPS 180-4 makes its constants. -/
def rootFraction (k n : Nat) : BitVec 32 := BitVec.ofNat 32 (rootDigits k (n * 2 ^ (32 * k)) 40 0)

/-- The exclusive or of a word turned right by each of some amounts. -/
def turned (x : BitVec 32) (amounts : List Nat) : BitVec 32 := amounts.foldl (fun y n => y ^^^ x.rotateRight n) 0

/-- The eight words of a hash value, or the working variables of a round, in two fours. -/
structure ShaWords where
  p : Vector (BitVec 32) 4
  q : Vector (BitVec 32) 4
  deriving DecidableEq, Repr

/-- A word before the others of a four, and the last one that it pushes out. -/
def pushed (v : Vector (BitVec 32) 4) (x : BitVec 32) : Vector (BitVec 32) 4 := #v[x, v[0], v[1], v[2]]

/-- One round with its constant and its word of the schedule. -/
def ShaWords.round (s : ShaWords) (kw : BitVec 32) : ShaWords :=
  let choice := s.q[2] ^^^ (s.q[0] &&& (s.q[1] ^^^ s.q[2]))
  let most := (s.p[0] &&& (s.p[1] ||| s.p[2])) ||| (s.p[1] &&& s.p[2])
  let x := s.q[3] + turned s.q[0] [6, 11, 25] + choice + kw
  ⟨pushed s.p (x + turned s.p[0] [2, 13, 22] + most), pushed s.q (s.p[3] + x)⟩

/-- The words of the schedule: from the sixteen of a block, newest first, on to `n` more. -/
def schedule256 : Nat → List (BitVec 32) → List (BitVec 32)
  | 0, ws => ws
  | n + 1, ws =>
    let back := fun (i : Nat) => ws.getD (i - 1) 0
    let near := turned (back 2) [17, 19] ^^^ back 2 >>> 10
    let far := turned (back 15) [7, 18] ^^^ back 15 >>> 3
    schedule256 n ((near + back 7 + far + back 16) :: ws)

/-- The hash value after a block of 64 bytes. -/
def ShaWords.block (s : ShaWords) (bs : List Byte) : ShaWords :=
  let first := (List.range 16).map (fun i => BitVec.ofNat 32 (beNat ((bs.drop (4 * i)).take 4)))
  let words := (schedule256 48 first.reverse).reverse
  let t := (List.zipWith (· + ·) ((primesBelow 312).map (rootFraction 3)) words).foldl ShaWords.round s
  ⟨s.p.zipWith (· + ·) t.p, s.q.zipWith (· + ·) t.q⟩

/-- The blocks of a message, one after another. -/
def ShaWords.blocks : Nat → List Byte → ShaWords → ShaWords
  | 0, _, s => s
  | n + 1, bs, s => ShaWords.blocks n (bs.drop 64) (s.block (bs.take 64))

/-- The hash value before the first block. -/
def shaStart : ShaWords :=
  let root := rootFraction 2
  ⟨#v[root 2, root 3, root 5, root 7], #v[root 11, root 13, root 17, root 19]⟩

/-- The SHA-256 digest. -/
def sha256 (bs : List Byte) : List Byte :=
  let padded := bs ++ [0x80] ++ List.replicate ((119 - bs.length % 64) % 64) 0 ++ beBytes 8 (8 * bs.length)
  let s := ShaWords.blocks (padded.length / 64) padded shaStart
  (s.p.toList ++ s.q.toList).flatMap (fun w => beBytes 4 w.toNat)

/-! ### LM-OTS and LMS -/

/-- w, p and ls of the LM-OTS types with SHA-256 and n = 32: typecodes 1 to 4. -/
def otsParams : Nat → Option (Nat × Nat × Nat)
  | 1 => some (1, 265, 7)
  | 2 => some (2, 133, 6)
  | 3 => some (4, 67, 4)
  | 4 => some (8, 34, 0)
  | _ => none

/-- The height of the LMS types with SHA-256 and m = 32: typecodes 5 to 9. -/
def lmsHeight (type : Nat) : Option Nat := if 5 ≤ type ∧ type ≤ 9 then some (5 * (type - 4)) else none

/-- The i-th digit of w bits of a string. -/
def otsDigit (bs : List Byte) (w i : Nat) : Nat := (bs.getD (i * w / 8) 0).toNat / 2 ^ (8 - (w * (i % (8 / w)) + w)) % 2 ^ w

/-- `n` steps of the chain of the i-th digit from its a-th place. `head` is the identifier of the tree and the leaf's number. -/
def otsChain (head : List Byte) (i a n : Nat) (x : List Byte) : List Byte :=
  (List.range n).foldl (fun x j => sha256 (head ++ beBytes 2 i ++ beBytes 1 (a + j) ++ x)) x

/-- The digits of a message with their checksum. -/
def otsDigits (head : List Byte) (w ls : Nat) (c msg : List Byte) : List Byte :=
  let d := sha256 (head ++ beBytes 2 0x8181 ++ c ++ msg)
  d ++ beBytes 2 (((List.range (256 / w)).map (fun i => 2 ^ w - 1 - otsDigit d w i)).sum * 2 ^ ls)

/-- The public key of a leaf, from the ends of its chains. -/
def otsPublic (head : List Byte) (p : Nat) (f : Nat → List Byte) : List Byte :=
  sha256 (head ++ beBytes 2 0x8080 ++ (List.range p).flatMap f)

/-- The public key that a signature of a message leads to. `y` is the signature's strings. -/
def otsKey (id : List Byte) (q w p ls : Nat) (c : List Byte) (y msg : List Byte) : List Byte :=
  let head := id ++ beBytes 4 q
  let digits := otsDigits head w ls c msg
  otsPublic head p (fun i =>
    otsChain head i (otsDigit digits w i) (2 ^ w - 1 - otsDigit digits w i) ((y.drop (32 * i)).take 32))

/-- The hash of a leaf, and of an inner node. -/
def lmsLeaf (id : List Byte) (node : Nat) (k : List Byte) : List Byte := sha256 (id ++ beBytes 4 node ++ beBytes 2 0x8282 ++ k)
def lmsInner (id : List Byte) (node : Nat) (left right : List Byte) : List Byte :=
  sha256 (id ++ beBytes 4 node ++ beBytes 2 0x8383 ++ left ++ right)

/-- Climb from a node to the root. -/
def lmsRoot (id : List Byte) : Nat → Nat → List Byte → List Byte → List Byte
  | 0, _, _, x => x
  | h + 1, node, path, x =>
    let sib := path.take 32
    lmsRoot id h (node / 2) (path.drop 32) (if node % 2 = 1 then lmsInner id (node / 2) sib x else lmsInner id (node / 2) x sib)

/-- Four bytes of a string as a number. -/
def word32 (bs : List Byte) (o : Nat) : Nat := beNat ((bs.drop o).take 4)

/-- The length of the LMS signature that a string begins with. -/
def lmsLength (sig : List Byte) : Option Nat :=
  match otsParams (word32 sig 4) with
  | none => none
  | some (_, p, _) => (lmsHeight (word32 sig (40 + 32 * p))).map (fun h => 44 + 32 * p + 32 * h)

/-- An LMS signature verifies. A public key is its type, its LM-OTS type, 16 bytes of identifier and the root. -/
def lmsVerify (key msg sig : List Byte) : Bool :=
  match otsParams (word32 sig 4), lmsLength sig with
  | some (w, p, ls), some n =>
    let type := word32 sig (40 + 32 * p)
    let h := (lmsHeight type).getD 0
    let q := word32 sig 0
    let id := (key.drop 8).take 16
    sig.length == n && key.length == 56 && word32 key 0 == type && word32 key 4 == word32 sig 4 && decide (q < 2 ^ h) &&
      (let k := otsKey id q w p ls ((sig.drop 8).take 32) ((sig.drop 40).take (32 * p)) msg
       lmsRoot id h (2 ^ h + q) (sig.drop (44 + 32 * p)) (lmsLeaf id (2 ^ h + q) k) == key.drop 24)
  | _, _ => false

/-! ### HSS -/

/-- The levels of an HSS signature: each but the last signs the next public key. -/
def hssLevels (msg : List Byte) : Nat → List Byte → List Byte → Bool
  | 0, key, sig => lmsVerify key msg sig
  | n + 1, key, sig =>
    match lmsLength sig with
    | none => false
    | some k =>
      let next := (sig.drop k).take 56
      lmsVerify key next (sig.take k) && hssLevels msg n next (sig.drop (k + 56))

/-- An HSS signature verifies, with L = 1 to 3. -/
def hssVerify (key msg sig : List Byte) : Bool :=
  let l := word32 key 0
  decide (1 ≤ l) && decide (l ≤ 3) && word32 sig 0 + 1 == l && hssLevels msg (l - 1) (key.drop 4) (sig.drop 4)

/-! ### The identity key (R325): two levels, both of LMS type 7 (height 15) with LM-OTS type 3 (w = 4, p = 67, ls = 4) -/

/-- The secret string of a chain of a leaf of a tree. -/
def identitySecret (tree q i : Nat) : List Byte := (Config.otsSecret tree q i).toList

/-- A node of a tree of the identity key, `h` levels above the leaves. -/
def identityNode (tree : Nat) : Nat → Nat → List Byte
  | 0, node =>
    let id := (Config.treeId tree).toList
    let q := node - 2 ^ 15
    let head := id ++ beBytes 4 q
    lmsLeaf id node (otsPublic head 67 (fun i => otsChain head i 0 15 (identitySecret tree q i)))
  | h + 1, node => lmsInner (Config.treeId tree).toList node (identityNode tree h (2 * node)) (identityNode tree h (2 * node + 1))

/-- The public key of a tree of the identity key. -/
def identityPublic (tree : Nat) : List Byte :=
  beBytes 4 7 ++ beBytes 4 3 ++ (Config.treeId tree).toList ++ identityNode tree 15 1

/-- A tree of the identity key signs with its leaf q. -/
def identityLms (tree q : Nat) (msg : List Byte) : List Byte :=
  let head := (Config.treeId tree).toList ++ beBytes 4 q
  let c := (Config.otsRandom tree q).toList
  let digits := otsDigits head 4 4 c msg
  beBytes 4 q ++ beBytes 4 3 ++ c ++
    (List.range 67).flatMap (fun i => otsChain head i 0 (otsDigit digits 4 i) (identitySecret tree q i)) ++
    beBytes 4 7 ++ (List.range 15).flatMap (fun h => identityNode tree h (Nat.xor ((2 ^ 15 + q) / 2 ^ h) 1))

/-- The public key of two levels with a top tree: that of tree 0 is the public identity key. -/
def identityKey (tree : Nat) : List Byte := beBytes 4 2 ++ identityPublic tree

/-- The identity key's signature with the one-time index n: leaf n div 2^15 of the top tree signs the tree below it, whose leaf n mod
2^15 signs the message. -/
def identitySign (n : Nat) (msg : List Byte) : List Byte :=
  let low := n / 2 ^ 15 + 1
  beBytes 4 1 ++ identityLms 0 (n / 2 ^ 15) (identityPublic low) ++ identityPublic low ++ identityLms low (n % 2 ^ 15) msg

/-- The signature of a lifecycle move verifies (R323 to R325). -/
def moveSigned (from_ to_ : Lifecycle) (signature : List Byte) : Bool :=
  hssVerify (Config.moveKey from_) (Config.moveMessage from_ to_) signature

end Sys2Proof.Machine
end

