-- ==== Sys2Proof/Machine/Tile.lean ====
section
/-! DEFINITION. The values of the matrix unit: operand registers, tile loads' contents, the multiply (R138 to R149, R194, R208 to
R213), the VEC operations (R147, R214, R331 to R346) and quantisation (R150 to R153, R412, R414). -/

namespace Sys2Proof.Machine

/-! ### Formats (R82, R139, R141) -/

/-- The floating-point type of a format code. -/
def formatType : Nat → FType
  | 0 => .e4m3 | 1 => .e5m2 | 4 => .f16 | 5 => .bf16 | _ => .f32

/-- q8 and q4. -/
def grouped (fmt : Nat) : Bool := fmt == 2 || fmt == 3

/-- Group size of a GRP code (R81). -/
def groupSize (grp : Nat) : Nat := 32 * 2 ^ grp

/-- The bytes of `n` elements of a format. -/
def formatBytes (fmt n : Nat) : Nat := if fmt = 3 then n / 2 else if fmt = 4 ∨ fmt = 5 then 2 * n else if fmt = 6 ∨ fmt = 7 then 4 * n else n

/-- The elements that stand in so many bytes. -/
def formatCount (fmt bytes : Nat) : Nat := if fmt = 3 then 2 * bytes else if fmt = 4 ∨ fmt = 5 then bytes / 2 else if fmt = 6 ∨ fmt = 7 then bytes / 4 else bytes

/-- Kt (R15). -/
def kt (fmt : Nat) : Nat := formatCount fmt 64

/-- An escape code (R141). -/
def isEscape (fmt code : Nat) : Bool :=
  match fmt with
  | 0 | 1 => code % 128 == 127
  | 2 => code == 255
  | 3 => code == 15
  | _ => false

/-- The codes that stand in bytes. -/
def unpackCodes (fmt : Nat) (bs : List Byte) : List Nat :=
  match fmt with
  | 3 => bs.flatMap (fun b => [b.toNat % 16, b.toNat / 16])
  | 4 | 5 => (List.range (bs.length / 2)).map (fun j => fieldAt bs (2 * j) 2)
  | _ => bs.map BitVec.toNat

/-- The bytes of codes. -/
def packCodes (fmt : Nat) (cs : List Nat) : List Byte :=
  match fmt with
  | 3 => (List.range ((cs.length + 1) / 2)).map (fun j => BitVec.ofNat 8 (cs.getD (2 * j) 0 + 16 * cs.getD (2 * j + 1) 0))
  | 4 | 5 => cs.flatMap (natBytes 2)
  | _ => cs.map (BitVec.ofNat 8)

/-- A list made up to a length. -/
def padTo {α : Type} (n : Nat) (x : α) (xs : List α) : List α := xs.take n ++ List.replicate (n - xs.length) x

/-- Groups in a row of a pod (R139), and elements per row (R142). -/
def Pod.groupBytes (d : Pod) : Nat := formatBytes d.fmt (groupSize d.grp)
def Pod.groupCount (d : Pod) : Nat := d.rowBytes / (d.groupBytes + 4)
def Pod.perRow (d : Pod) : Nat := if grouped d.fmt then d.groupCount * groupSize d.grp else formatCount d.fmt d.rowBytes

/-- The code of element (row, position) of a pod. -/
def Cluster.podCode (c : Cluster) (d : Pod) (row pos : Nat) : Nat :=
  let at_ := fun (n : Nat) => c.read (d.base + row * d.rowBytes + formatBytes d.fmt pos) n
  if d.fmt = 3 then bitsOf (leNat (at_ 1)) (4 * (pos % 2)) 4 else leNat (at_ (formatBytes d.fmt 1))

/-! ### Group parameters (R138, R139) -/

/-- SCALE and ZERO of a parameter word. -/
def groupScale (w : BitVec 32) : Val := decodeF .f16 (bitsOf w.toNat 0 16)
def groupZero (fmt : Nat) (w : BitVec 32) : Nat := bitsOf w.toNat 16 (if fmt = 3 then 4 else 8)

/-- An integer as a value. -/
def intVal (k : Int) : Val := .fin (decide (k < 0)) k.natAbs 0

/-- The value of a grouped element (R138). -/
def groupedVal (fmt : Nat) (w : BitVec 32) (code : Nat) : Val := prodVal (intVal ((code : Int) - groupZero fmt w)) (groupScale w)

/-! ### Elements of operand registers (R145) -/

/-- The class of an element. -/
inductive Elem where
  | absent
  | escaped (value : Val)
  | plain (code : Nat)
  deriving DecidableEq, Repr

/-- The bytes of a line, and its parameter words. -/
def Tile.lineBytes (t : Tile) (i : Nat) : List Byte := padTo 64 0 ((t.data.drop (64 * i)).take 64)
def Tile.words (t : Tile) (i : Nat) : List (BitVec 32) := t.params.getD i []

/-- The first buffer entry of an element (R143). -/
def Tile.entry (t : Tile) (i k : Nat) : Option Val :=
  (t.buffer.find? (fun e => e.line == i && e.pos == k)).map (fun e => decodeF .bf16 e.value.toNat)

/-- An escape: with a value when an entry names it. -/
def Tile.escape (t : Tile) (i k : Nat) : Elem :=
  match t.entry i k with
  | some v => .escaped v
  | none => .absent

/-- The elements of a line along K: Kt of them, or the 128 of a pruned line. -/
def Tile.elems (t : Tile) (i : Nat) : List Elem :=
  let codes := unpackCodes t.type.fmt (t.lineBytes i)
  if t.type.pruned ≠ 0 then
    let kept := t.masks.getD i []
    (List.range 128).map (fun k =>
      if t.absentLines.contains i then .absent
      else match kept.idxOf? k with
        | some m => .plain (codes.getD m 0)
        | none => t.escape i k)
  else
    codes.zipIdx.map (fun e =>
      if t.absentLines.contains i || t.absentK.contains e.2 then .absent
      else if t.type.escapes && isEscape t.type.fmt e.1 then t.escape i e.2
      else .plain e.1)

/-- The value of a plain element at K position k of line i. -/
def Tile.plainVal (t : Tile) (i k code : Nat) : Val :=
  if grouped t.type.fmt then groupedVal t.type.fmt ((t.words i).getD (k / groupSize t.type.grp) 0) code
  else decodeF (formatType t.type.fmt) code

/-- val of R146: the outlier value, or the decoded one; an absent element has none. -/
def Tile.valOf (t : Tile) (i k : Nat) : Elem → Option Val
  | .absent => none
  | .escaped v => some v
  | .plain code => some (t.plainVal i k code)

/-! ### MMA (R146, R213, R397) -/

/-- A column of B over the registers that an MMA takes: its elements with register and position. -/
def columnElems (bs : List Tile) (j : Nat) : List (Tile × Nat × Elem) :=
  bs.flatMap (fun b => (b.elems j).zipIdx.map (fun e => (b, e.2, e.1)))

/-- A product, negated for MMAS. -/
def signed (minus : Bool) (v : Val) : Val := if minus then v.negate else v

/-- The products of one element: whether it goes to the sparse list, and the addend. -/
def pairTerm (a : Tile) (i j : Nat) (minus : Bool) (x : (Elem × Nat) × (Tile × Nat × Elem)) : Option (Bool × Val) :=
  let ((ea, ka), (b, kb, eb)) := x
  match a.valOf i ka ea, b.valOf j kb eb with
  | some u, some v =>
    let esc := (match ea, eb with
      | .plain _, .plain _ => false
      | _, _ => true)
    if !esc && grouped a.type.fmt then none else some (esc, signed minus (prodVal u v))
  | _, _ => none

/-- The group term of R146 over a run of positions that share their parameter words. -/
def groupTerm (a : Tile) (i j : Nat) (minus : Bool) (xs : List ((Elem × Nat) × (Tile × Nat × Elem))) : Option Val :=
  match xs.head? with
  | none => none
  | some ((_, ka), (b, kb, _)) =>
    let wa := (a.words i).getD (ka / groupSize a.type.grp) 0
    let wb := (b.words j).getD (kb / groupSize b.type.grp) 0
    let term := fun (x : (Elem × Nat) × (Tile × Nat × Elem)) => match x.1.1, x.2.2.2 with
      | .plain ca, .plain cb => ((ca : Int) - groupZero a.type.fmt wa) * ((cb : Int) - groupZero b.type.fmt wb)
      | _, _ => 0
    let n : Int := (xs.map term).foldl (· + ·) 0
    let v := prodVal (prodVal (groupScale wa) (groupScale wb)) (intVal n)
    some (signed minus (if n = 0 ∧ v.isZero then .fin false 0 0 else v))

/-- A list in runs of n. -/
def runsOf {α : Type} (n : Nat) (xs : List α) : List (List α) :=
  (List.range ((xs.length + n - 1) / n)).map (fun r => (xs.drop (n * r)).take n)

/-- The parameter word of B at a position. -/
def wordB (j : Nat) (x : (Elem × Nat) × (Tile × Nat × Elem)) : BitVec 32 :=
  (x.2.1.words j).getD (x.2.2.1 / groupSize x.2.1.type.grp) 0

/-- The addends of one group (R146): one, but where two B registers hold parts of it under different words, one for each part
(R209, log entry 16). -/
def groupTerms (a : Tile) (i j : Nat) (minus : Bool) (xs : List ((Elem × Nat) × (Tile × Nat × Elem))) : List Val :=
  if xs.all (fun x => wordB j x == (xs.head?.map (wordB j)).getD 0) then (groupTerm a i j minus xs).toList
  else (runsOf (kt a.type.fmt) xs).filterMap (groupTerm a i j minus)

/-- One accumulator element after an MMA (R146): `first` is the dense list's first addend. -/
def mmaElement (a : Tile) (row : List (Elem × Nat)) (i j : Nat) (col : List (Tile × Nat × Elem)) (minus : Bool) (first : Val) : Nat :=
  let pairs := row.zip col
  let terms := pairs.filterMap (pairTerm a i j minus)
  let groups := if grouped a.type.fmt then
      (runsOf (groupSize a.type.grp) pairs).flatMap (groupTerms a i j minus)
    else []
  let dense := first :: (terms.filterMap (fun x => if x.1 then none else some x.2)) ++ groups
  let sparse := terms.filterMap (fun x => if x.1 then some x.2 else none)
  let r := alignedSum dense
  if sparse.isEmpty then r else alignedSum (val32 r :: sparse)

/-- The rows of a block, made up to 64 by 64 entries. -/
def Block.full (b : Block) : Block := padTo 4096 0 b
def Block.rows (b : Block) : List (List (BitVec 32)) := (List.range 64).map (fun i => (b.full.drop (64 * i)).take 64)

/-- An MMA on a block: `old` is the accumulator, or nothing for MMAZ. -/
def mmaBlock (a : Tile) (bs : List Tile) (minus : Bool) (old : Option Block) : Block :=
  let cols := (List.range 64).map (columnElems bs)
  let rows : List (List Val) := match old with
    | some b => b.rows.map (fun r => r.map (fun x => val32 x.toNat))
    | none => List.replicate 64 (List.replicate 64 (.fin false 0 0))
  rows.zipIdx.flatMap (fun r =>
    let row := (a.elems r.2).zipIdx
    (r.1.zip cols).zipIdx.map (fun x => BitVec.ofNat 32 (mmaElement a row r.2 x.2 x.1.2 minus x.1.1)))

/-! ### The VEC slot (R214, R331 to R346) -/

/-- Two blocks combined element by element. -/
def map2Block (f : Val → Val → Nat) (x y : Block) : Block :=
  (x.full.zip y.full).map (fun e => BitVec.ofNat 32 (f (val32 e.1.toNat) (val32 e.2.toNat)))

/-- AADD's sum (R332): an exact zero is −0 only from two negative zeros, in every mode. -/
def vecAdd (rm : Nat) (x y : Val) : Nat := ((addVal x y 0).round .f32 rm).1

/-- A rounded product (R340). -/
def vecMul (rm : Nat) (x y : Val) : Nat := ((mulVal x y).round .f32 rm).1

/-- The larger of two f32 values (R337): +0 is larger than −0. -/
def vecMax (x y : Val) : Val :=
  if x = .nan ∨ y = .nan then .nan
  else match compareVal x y with
    | .lt => y
    | .gt => x
    | .eq => if x.neg then y else x

/-- An f32 encoding of a value that has one. -/
def encode32 : Val → Nat
  | .nan => FType.f32.nan
  | .inf s => (if s then 2 ^ 31 else 0) + FType.f32.infinity
  | .fin s m e => (Exact.round ⟨s, m, e, false⟩ .f32 0).1

/-- The maximum of a list. -/
def maxList : List Val → Val
  | [] => .inf true
  | [x] => x
  | x :: xs => vecMax x (maxList xs)

/-- The block numbers of a group (R214). -/
def groupBlocks (arr n : Nat) : List Nat := (List.range (2 ^ arr)).map (fun j => n / 2 ^ arr * 2 ^ arr + j)

/-- The rows of a group of blocks: row i of every block, in ascending block number. -/
def groupRows (blocks : List Block) : List (List Val) :=
  (List.range 64).map (fun i => blocks.flatMap (fun b => ((b.full.drop (64 * i)).take 64).map (fun x => val32 x.toNat)))

/-- A block whose every row holds one value. -/
def rowBlock (xs : List Nat) : Block := xs.flatMap (fun x => List.replicate 64 (BitVec.ofNat 32 x))

/-- The vector of 64 f32 values in bytes 0 to 255 of an operand register (R333). -/
def Tile.vector (t : Tile) : List (BitVec 32) := (List.range 64).map (fun j => BitVec.ofNat 32 (fieldAt t.data (4 * j) 4))

/-- ABIAS's second operand as a block: one value per column, or per row. -/
def biasBlock (v : List (BitVec 32)) (byRow : Bool) : Block :=
  if byRow then v.flatMap (fun x => List.replicate 64 x) else (List.replicate 64 v).flatten

/-! ### Quantisation (R150 to R153) -/

/-- The order key of an f32 magnitude: NaN is largest (R151). -/
def magKey (x : BitVec 32) : Nat := if 0x7F800000 < x.toNat % 2 ^ 31 then 2 ^ 31 else x.toNat % 2 ^ 31

/-- The list without its first largest elements. -/
def dropLargest : Nat → List Nat → List Nat
  | 0, xs => xs
  | n + 1, xs => dropLargest n (xs.erase (xs.foldl max 0))

/-- Tmax of a target type (R151). -/
def tmax : Nat → Nat
  | 0 => 448 | 1 => 57344 | _ => 1

/-- SL as QMAX computes it (R150, R151). -/
def scaleLatch (xs : List (BitVec 32)) (t k : Nat) : BitVec 32 :=
  let rest := dropLargest k (xs.map magKey)
  let m := (rest.filter (fun x => decide (x < 0x7F800000))).foldl max 0
  let q := (divVal (val32 m) (.fin false (tmax t) 0)).round .f16 3
  let sat := decide (0x7BFF < q.1)
  BitVec.ofNat 32 ((if sat then 0x7BFF else q.1) + 2 ^ 16 + (if sat then 2 ^ 17 else 0) +
    (if rest.any (fun x => decide (0x7F800000 ≤ x)) then 2 ^ 18 else 0))

/-- A converted line: its codes, its parameter words, and the elected entries as (position, bf16). -/
structure Converted where
  codes : List Nat
  words : List (BitVec 32) := []
  entries : List (Nat × Nat)
  deriving DecidableEq, Repr

/-- |x| exceeds a finite bound m × 2^e, or x is infinite. -/
def Val.above (x bound : Val) : Bool :=
  match x with
  | .nan => false
  | .inf _ => true
  | .fin _ _ _ => compareVal x.abs bound == .gt

/-- One value to e4m3 or e5m2 (R152): the code, and the elected value. Where the scale and the value are both zero y is 0; that it
has the sign of the value is the model's choice (log entry 55). -/
def quantFloat (t : Nat) (s : Val) (elect : Bool) (rm : Nat) (x : Val) : Nat × Option Nat :=
  let y := if s.isZero then (if x.isZero then Res.ex ⟨x.neg, 0, 0, false⟩ else if x = .nan then .nan false else .inf x.neg false) else divVal x s
  if elect && (x == .nan || x.above (prodVal s (intVal (tmax t)))) then (0x7F, some (y.rne .bf16))
  else
    let ty := formatType t
    match y with
    | .nan _ => (ty.nan, none)
    | .inf n _ => ((if n then 128 else 0) + ty.largest, none)
    | .ex e => ((e.round ty rm true).1, none)

/-- A line to e4m3 or e5m2. -/
def quantLine (t : Nat) (s : Val) (elect : Bool) (rm : Nat) (xs : List Val) : Converted :=
  let ys := xs.map (quantFloat t s elect rm)
  { codes := ys.map Prod.fst, entries := ys.zipIdx.filterMap (fun e => e.1.2.map (fun v => (e.2, v))) }

/-- The least and the greatest of 0 and some finite values. -/
def leastVal (xs : List Val) : Val := xs.foldl (fun m x => if compareVal x m = .lt then x else m) (.fin false 0 0)
def greatestVal (xs : List Val) : Val := xs.foldl (fun m x => if compareVal x m = .gt then x else m) (.fin false 0 0)

/-- An outcome rounded to an integer (R131, R136). -/
def Res.toInt (r : Res) (mode : Nat) : Int :=
  match r with
  | .ex e => (e.toInt mode).1
  | _ => 0

/-- A group to q8 or q4 (R153). -/
def quantGroup (t : Nat) (s : Val) (escapes : Bool) (rm : Nat) (first : Nat) (xs : List Val) : Converted :=
  let top : Nat := (if t = 2 then 255 else 15) - escapes.toNat
  let elected := fun (x : Val) => escapes && (x == .nan || x.above s)
  let finite := xs.filter (fun x => !elected x && (match x with
    | .fin _ _ _ => true
    | _ => false))
  let lo := leastVal finite
  let hi := greatestVal finite
  let (f, z) := if compareVal lo hi = .eq then (0, 0)
    else
      let span := match addVal hi lo.negate 0 with
        | .ex e => e
        | _ => ⟨false, 0, 0, false⟩
      let f := min 0x7BFF (((divVal (.fin span.neg span.m span.e) (intVal top)).round .f16 3).1)
      (f, (satInt false 64 (min (top : Int) ((divVal lo.negate (decodeF .f16 f)).toInt 0))).toNat)
  let code := fun (x : Val) =>
    if elected x then (if t = 2 then 255 else 15)
    else match x with
      | .nan => z
      | .inf n => if n then 0 else top
      | .fin _ _ _ => if f = 0 then z else (max 0 (min (top : Int) ((divVal x (decodeF .f16 f)).toInt rm + z))).toNat
  { codes := xs.map code, words := [BitVec.ofNat 32 (f + z * 2 ^ 16)]
    entries := xs.zipIdx.filterMap (fun e => if elected e.1 then
      some (first + e.2, (convertF e.1 .bf16 0 false).1) else none) }

/-- A line to q8 or q4, group by group. -/
def quantGroups (t g : Nat) (s : Val) (escapes : Bool) (rm : Nat) (xs : List Val) : Converted :=
  let gs := (runsOf g xs).zipIdx.map (fun e => quantGroup t s escapes rm (g * e.2) e.1)
  { codes := gs.flatMap Converted.codes, words := gs.flatMap Converted.words, entries := gs.flatMap Converted.entries }

/-- QCVT's result (R412): the register. -/
def quantTile (b : Block) (sl : BitVec 32) (t grp : Nat) (escapes : Bool) (rm : Nat) : Tile :=
  let s := decodeF .f16 (bitsOf sl.toNat 0 16)
  let lines := b.rows.map (fun r =>
    let xs := r.map (fun x => val32 x.toNat)
    if grouped t then quantGroups t (groupSize grp) s escapes rm xs else quantLine t s escapes rm xs)
  { data := lines.flatMap (fun l => padTo 64 0 (packCodes t l.codes))
    buffer := lines.zipIdx.flatMap (fun l => l.1.entries.map (fun e => ⟨l.2, e.1, BitVec.ofNat 16 e.2⟩))
    params := lines.map Converted.words
    type := { fmt := t, escapes := escapes, grp := grp, pruned := 0 } }

end Sys2Proof.Machine
end

