-- ==== Sys2Proof/Machine/TilePort.lean ====
section
/-! DEFINITION. What tile loads read and what TST and TSTX write (R203, R204, R208 to R212, R217, R430, R431, R433, R434). A
code of R220 stands for the fault that the operation's own checks find. -/

namespace Sys2Proof.Machine

/-! ### Codes of R220, handles, banks -/

def codeStall : Nat := 1
def codeOutlier : Nat := 2
def codeBound : Nat := 3
def codeGeometry : Nat := 4
def codeBundle : Nat := 5

/-- The number of the handle register that a slot operation names (R178, R181). -/
def handleNumber (lc : List Nat) (x h hx lcs : Nat) : Nat :=
  if bitsOf x hx 1 = 1 then (bitsOf x h 4 + lc.getD (bitsOf x lcs 2) 0) % 16 else bitsOf x h 4

/-- The descriptor of a bound handle register. -/
def Cluster.bound (c : Cluster) (r : Run) (h : Nat) : Option Nat := ((r.h[h]?).join).bind (fun x => c.live (x.setWidth 64))

/-- The bank-line parts of a run of bytes: (offset, length). -/
def lineParts (off n : Nat) : List (Nat × Nat) :=
  if n = 0 then []
  else (List.range ((off + n - 1) / 64 - off / 64 + 1)).map (fun i =>
    let lo := max off (off / 64 * 64 + 64 * i)
    (lo, min (off + n) (off / 64 * 64 + 64 * i + 64) - lo))

/-- The largest number of accesses that fall in one bank (R203, R204). -/
def bankLoad (parts : List (Nat × Nat)) : Nat :=
  ((List.range 16).map (fun b => parts.countP (fun p => bankOf p.1 == b))).foldl max 0

/-! ### The pod as a load sees it -/

/-- A pod with its mask and the leading entries of its outlier list (R92, R143). -/
structure PodView where
  pod : Pod
  mask : Nat
  entries : List (BitVec 32)
  deriving DecidableEq, Repr

/-- The mask and the first OCOUNT entries of a sealed pod. -/
def Cluster.maskOf (d : Pod) : Nat := d.w2.toNat + d.w3.toNat * 2 ^ 64
def Cluster.entriesOf (c : Cluster) (d : Pod) : List (BitVec 32) :=
  (List.range d.ocount).map (fun j => BitVec.ofNat 32 (leNat (c.read (d.base + d.dataBytes + 4 * j) 4)))

/-- What a load sees of a descriptor: an input as read at dispatch, an output sealed early as it stands (R199, R430). -/
def Cluster.view (c : Cluster) (r : Run) (j : Nat) : PodView :=
  let d := c.pod j
  match r.stores.find? (fun e => e.1 == j) with
  | some (_, m, es) => ⟨d, m, es⟩
  | none => ⟨d, Cluster.maskOf d, c.entriesOf d⟩

/-- Row i of the pod is present. -/
def PodView.row (v : PodView) (i : Nat) : Bool := v.mask.testBit i

/-- Every entry obeys R92: bits [31:30] zero, the element within the data. -/
def PodView.listOk (v : PodView) : Bool :=
  v.entries.all (fun e => bitsOf e.toNat 30 2 == 0 && decide (bitsOf e.toNat 0 14 < v.pod.rows * v.pod.perRow))

/-- The entries that resolve an element, in list order (R143): (row, position, bf16). -/
def Cluster.resolved (c : Cluster) (v : PodView) : List (Nat × Nat × Nat) :=
  let step := fun (acc : List (Nat × Nat × Nat)) (e : BitVec 32) =>
    let n := bitsOf e.toNat 0 14
    let (i, j) := (n / v.pod.perRow, n % v.pod.perRow)
    if v.row i && isEscape v.pod.fmt (c.podCode v.pod i j) && !acc.any (fun x => x.1 == i && x.2.1 == j) then
      acc ++ [(i, j, bitsOf e.toNat 14 16)]
    else acc
  v.entries.foldl step []

/-! ### Pruning (R149, R210) -/

/-- The rank of a magnitude: NaN, then infinity, then the value. -/
def smaller (x y : Val) : Bool :=
  match x, y with
  | .nan, _ => false
  | _, .nan => true
  | _, _ => compareVal x.abs y.abs == .lt

/-- Insert a candidate before the first that is smaller. -/
def insertRank (x : Nat × Val) : List (Nat × Val) → List (Nat × Val)
  | [] => [x]
  | y :: ys => if smaller y.2 x.2 then x :: y :: ys else y :: insertRank x ys

/-- The positions kept of a line's candidates, ascending. -/
def keepLargest (n : Nat) (cands : List (Nat × Val)) : List Nat :=
  let kept := ((cands.foldl (fun acc x => insertRank x acc) []).take n).map Prod.fst
  (List.range 128).filter kept.contains

/-! ### Tile loads (R208 to R211, R430) -/

/-- A load that has passed its geometry: its accesses, what it writes, and the entries it would copy. -/
structure Loaded where
  parts : List (Nat × Nat)
  act : MuAct
  entries : Nat := 0
  least : Nat
  deriving DecidableEq, Repr

/-- Parameter words of a pod row from group q on (R139); a masked row has none. -/
def Cluster.paramWords (c : Cluster) (v : PodView) (i q n : Nat) : List (BitVec 32) :=
  (List.range n).map (fun j =>
    if v.row i then
      BitVec.ofNat 32 (leNat (c.read (v.pod.base + i * v.pod.rowBytes + v.pod.groupCount * v.pod.groupBytes + 4 * (q + j)) 4))
    else 0)

/-- TLDA or TLDB (side true) by R208 to R211. -/
def Cluster.loadTile (c : Cluster) (v : PodView) (side : Bool) (x : Nat) : Except Nat Loaded :=
  let d := v.pod
  let fmt := d.fmt
  let row := bitsOf x 14 7
  let col := bitsOf x 21 9
  let pr := bitsOf x 31 3
  let byLine := (bitsOf x 30 1 == 1) == side
  let n := 16 * pr
  let nrows := if byLine then 64 else kt fmt
  let nbytes := if pr ≠ 0 then formatBytes fmt 128 else if byLine then 64 else formatBytes fmt 64
  let g := groupSize d.grp
  if 5 < fmt ∨ col % 16 ≠ 0 ∨ (pr ≠ 0 ∧ (side ∨ !byLine)) then .error codeGeometry
  else if pr ≠ 0 ∧ (col % formatBytes fmt 128 ≠ 0 ∨ (if fmt = 3 then 128 else formatCount fmt 64) < n) then .error codeGeometry
  else if d.rows < row + nrows ∨ d.rowBytes < col + nbytes then .error codeGeometry
  else if grouped fmt && (!byLine || d.groupCount == 0 || decide (d.groupCount * d.groupBytes < col + nbytes) ||
      col % min d.groupBytes 64 != 0) then .error codeGeometry
  else if !v.listOk then .error codeGeometry
  else
    let first := formatCount fmt col
    let width := formatCount fmt nbytes
    let rowCodes := fun (i : Nat) => if v.row i then unpackCodes fmt (c.read (d.base + i * d.rowBytes + col) nbytes) else List.replicate width 0
    let q := first / g
    let words := fun (i : Nat) => if grouped fmt then c.paramWords v i q (max 1 (width / g)) else []
    let res := (c.resolved v).filter (fun e => decide (row ≤ e.1) && decide (e.1 < row + nrows) && decide (first ≤ e.2.1) &&
      decide (e.2.1 < first + width))
    let buffer := res.map (fun e =>
      let (a, b) := (e.1 - row, e.2.1 - first)
      (if byLine then ⟨a, b, BitVec.ofNat 16 e.2.2⟩ else ⟨b, a, BitVec.ofNat 16 e.2.2⟩ : Outlier))
    let masked := (List.range nrows).filter (fun i => !v.row (row + i))
    let type : TileType := { fmt := fmt, escapes := d.capacity != 0, grp := d.grp, pruned := n }
    let rows := (List.range nrows).map (fun i => rowCodes (row + i))
    let params := if grouped fmt then (List.range 64).map (fun i => words (row + i)) else []
    let spans := (List.range nrows).flatMap (fun i =>
      let a := d.base + (row + i) * d.rowBytes
      lineParts (a + col) nbytes ++
      (if grouped fmt then lineParts (a + d.groupCount * d.groupBytes + 4 * q) (4 * max 1 (width / g)) else []))
    let tile : Tile :=
      if pr ≠ 0 then
        let keep := rows.zipIdx.map (fun r =>
          let ws := words (row + r.2)
          keepLargest n ((r.1.zipIdx.filter (fun e => !(d.capacity != 0 && isEscape fmt e.1))).map (fun e =>
            (e.2, if !v.row (row + r.2) then .fin false 0 0
              else if grouped fmt then groupedVal fmt (ws.getD (e.2 / g) 0) e.1 else decodeF (formatType fmt) e.1))))
        { data := (rows.zip keep).flatMap (fun r => padTo 64 0 (packCodes fmt (r.2.map (fun k => r.1.getD k 0))))
          buffer := buffer, params := params, masks := keep, absentLines := masked, type := type }
      else if byLine then
        { data := rows.flatMap (fun r => padTo 64 0 (packCodes fmt r)), buffer := buffer, params := params, absentLines := masked, type := type }
      else
        { data := (List.range 64).flatMap (fun i => padTo 64 0 (packCodes fmt (rows.map (fun r => r.getD i 0))))
          buffer := buffer, absentK := masked, type := type }
    .ok { parts := spans, act := .tile side (bitsOf x 8 2) tile, entries := buffer.length, least := 4 }

/-- TLDV (R212, R431). -/
def Cluster.loadVector (c : Cluster) (v : PodView) (side : Bool) (x : Nat) : Except Nat Loaded :=
  let d := v.pod
  let row := bitsOf x 14 7
  let col := bitsOf x 21 9
  let es := if d.fmt = 6 then 4 else 2
  if !(d.fmt == 4 || d.fmt == 5 || d.fmt == 6) || decide (d.rows ≤ row) || decide (d.rowBytes < col + 64 * es) then .error codeGeometry
  else
    let off := d.base + row * d.rowBytes + col
    let values := (List.range 64).map (fun j =>
      if !v.row row then 0
      else
        let e := leNat (c.read (off + es * j) es)
        if d.fmt = 6 then e else (convertF (decodeF (formatType d.fmt) e) .f32 0 false).1)
    .ok { parts := lineParts off (64 * es), act := .tileValues side (bitsOf x 8 2) (values.flatMap (natBytes 4)), least := 2 }

/-- A tile load at its issue: its handle's pod is sealed, its seal complete (R208), then its own checks. -/
def Cluster.load (c : Cluster) (r : Run) (lc : List Nat) (side : Bool) (x : Nat) : Except Nat Loaded :=
  match c.bound r (handleNumber lc x 10 34 35) with
  | none => .error codeGeometry
  | some j =>
    if (c.pod j).state ≠ 2 || c.sealing j then .error codeGeometry
    else if opOf x = 2 then c.loadVector (c.view r j) side x
    else c.loadTile (c.view r j) side x

/-! ### Stores (R217, R433, R434) -/

/-- A store that has passed its checks: its writes as runs of bytes, and the entries it appends. -/
structure Saved64 where
  runs : List (Nat × List Byte)
  handle : Nat
  entries : Nat := 0
  deriving DecidableEq, Repr

/-- One accumulator value in a store's format (R217). -/
def storeValue (fmt rm : Nat) (x : BitVec 32) : List Byte :=
  match fmt with
  | 4 => natBytes 2 (convertF (val32 x.toNat) .f16 rm false).1
  | 5 => natBytes 2 (convertF (val32 x.toNat) .bf16 rm false).1
  | 6 => natBytes 4 x.toNat
  | _ => natBytes 4 (convertToInt (val32 x.toNat) true 32 rm false).1

/-- TST (R217, R433). -/
def Cluster.storeBlock (c : Cluster) (r : Run) (lc : List Nat) (rm : Nat) (b : Block) (x : Nat) : Except Nat Saved64 :=
  let h := handleNumber lc x 11 35 36
  let f := bitsOf x 31 4
  let row := bitsOf x 15 7
  let col := bitsOf x 22 9
  let n := formatBytes f 64
  match (if h < 8 then none else c.bound r h) with
  | none => .error codeGeometry
  | some j =>
    let d := c.pod j
    if d.fmt ≠ f ∨ col % 16 ≠ 0 ∨ d.rows < row + 64 ∨ d.rowBytes < col + n then .error codeGeometry
    else .ok { handle := h, runs := b.rows.zipIdx.map (fun e =>
        (d.base + (row + e.2) * d.rowBytes + col, e.1.flatMap (storeValue f rm))) }

/-- TSTX (R217, R434). -/
def Cluster.storeTile (c : Cluster) (r : Run) (lc : List Nat) (t : Tile) (x : Nat) : Except Nat Saved64 :=
  let h := handleNumber lc x 11 35 36
  let row := bitsOf x 15 7
  let col := bitsOf x 22 9
  let fmt := t.type.fmt
  let n := if fmt = 3 then 32 else 64
  let first := formatCount fmt col
  match (if h < 8 then none else c.bound r h) with
  | none => .error codeGeometry
  | some j =>
    let d := c.pod j
    let g := groupSize t.type.grp
    let index := fun (e : Outlier) => (row + e.line) * d.perRow + first + e.pos
    let have_ := mgetD r.appended h 0
    if d.fmt ≠ fmt ∨ (grouped fmt ∧ d.grp ≠ t.type.grp) ∨ t.type.pruned ≠ 0 ∨ col % 16 ≠ 0 ∨ (grouped fmt ∧ first % g ≠ 0) ∨
        d.rows < row + 64 ∨ d.rowBytes < col + n ∨ (grouped fmt ∧ d.groupCount * d.groupBytes < col + n) ∨
        t.buffer.any (fun e => decide (16384 ≤ index e)) then .error codeGeometry
    else if d.capacity < have_ + t.buffer.length then .error codeOutlier
    else
      let list := d.base + d.dataBytes
      let lines := (List.range 64).flatMap (fun i =>
        let a := d.base + (row + i) * d.rowBytes
        let words := (t.words i).take (max 1 (64 / g))
        (a + col, (t.lineBytes i).take n) ::
          (if grouped fmt then [(a + d.groupCount * d.groupBytes + 4 * (first / g), words.flatMap (fun w => natBytes 4 w.toNat))] else []))
      let entries := t.buffer.flatMap (fun e => natBytes 4 (index e + e.value.toNat * 2 ^ 14))
      .ok { handle := h, runs := lines ++ [(list + 4 * have_, entries)], entries := t.buffer.length }

/-- The cycles of a bank's matrix write slots from a cycle on (R77, R204): the i-th. -/
def writeSlot (b start i : Nat) : Nat :=
  let slots := (List.range (8 * (i + 2))).filter (fun j => slotClass (start + j) b == .matrixWrite)
  start + slots.getD i 0

/-- The writes of a store by bank line, each with its slot's cycle: in each bank in the order of the runs (R204). -/
def schedule (start : Nat) (runs : List (Nat × List Byte)) : List (Nat × Nat × List Byte) :=
  let pieces := runs.flatMap (fun r => (lineParts r.1 r.2.length).map (fun p => (p.1, (r.2.drop (p.1 - r.1)).take p.2)))
  (List.range 16).flatMap (fun b =>
    (pieces.filter (fun p => bankOf p.1 == b)).zipIdx.map (fun p => (writeSlot b start p.2, p.1.1, p.1.2)))

end Sys2Proof.Machine
end

