-- ==== Sys2Proof/Machine/Matrix.lean ====
section
/-! DEFINITION. The matrix unit (R194 to R223): dispatch, bundle issue, delayed writes, ports, signals, task end, fillers. -/

namespace Sys2Proof.Machine

/-! ### The unit and its running task -/

/-- The state with a cluster's matrix unit replaced. -/
def State.setMu (s : State) (cl : Nat) (m : MatrixUnit) : State := s.setCluster cl { s.cluster cl with mu := m }

/-- The state with a cluster's running task replaced. -/
def State.setRun (s : State) (cl : Nat) (r : Run) : State := s.setMu cl { (s.cluster cl).mu with run := some r }

/-- The running task of a cluster. -/
def State.run? (s : State) (cl : Nat) : Option Run := (s.cluster cl).mu.run

/-- An accumulator, and an operand register (side true: tb). -/
def MatrixUnit.block (m : MatrixUnit) (n : Nat) : Block := mgetD m.acc n []
def MatrixUnit.tile (m : MatrixUnit) (side : Bool) (n : Nat) : Tile := mgetD (if side then m.tb else m.ta) n {}
def MatrixUnit.setTile (m : MatrixUnit) (side : Bool) (n : Nat) (t : Tile) : MatrixUnit :=
  if side then { m with tb := mset m.tb n t } else { m with ta := mset m.ta n t }

/-- Nothing of the task is in flight (R222): what falls in the present cycle has been applied. -/
def Run.quiet (r : Run) : Bool := r.writes.isEmpty && r.saves.isEmpty && r.tsigs.isEmpty

/-- The bundle at the task's position, and the position after it. -/
def MatrixUnit.bundle (m : MatrixUnit) (r : Run) : BitVec 384 × Nat := ((mget m.programs r.task.prog).getD ⟨[], []⟩).at_ r.pos

/-- The unit stands at a stop point (R222): before a bundle with P = 1 from the cycle on in which that bundle would issue. A gang issuer
whose own part is over, and whose step 6 waits for other members, counts as one that runs no task (the model's choice, log entry 58). -/
def MatrixUnit.atStop (m : MatrixUnit) (cycle : Nat) : Bool :=
  match m.run with
  | none => true
  | some r => r.stage == .passing || (r.stage == .running && (!r.started || (decide (r.due ≤ cycle) && stopOf (m.bundle r).1 && r.quiet)))

/-! ### Dispatch (R198, R199) -/

/-- The seal of a handle's pod has completed. A pod that has been freed, as by another task's CONSUME, has no live handle, so a task
that still names it is not ready (DEDUCED from R84 and R198; log entry 55). -/
def Cluster.sealedPod (c : Cluster) (h : BitVec 16) : Bool :=
  match c.live (h.setWidth 64) with
  | some j => (c.pod j).state == 2 && !c.sealing j
  | none => false

/-- The ready task of highest PRIORITY, and among equals the one with the lowest identifier. -/
def Cluster.nextTask (c : Cluster) : Option MTask :=
  (c.mu.table.filter (fun t => t.ins.all c.sealedPod)).foldl (fun b t => match b with
    | none => some t
    | some u => if u.prio < t.prio || (u.prio == t.prio && decide (t.id < u.id)) then some t else b) none

/-- TASK_DISPATCH (R198, R199). -/
def execTaskDispatch (cl : Nat) (s : State) : Host.Outcome State Fault Refusal :=
  let c := s.cluster cl
  match c.mu.run, c.nextTask with
  | none, some t =>
    if s.stopping cl || c.mu.halted || decide (s.cycle < max c.mu.fillerEnd c.mu.freeAt) then .next s
    else
      let bind := fun (hs : List (BitVec 16)) => padTo 8 none (hs.map some)
      let stores := t.ins.filterMap (fun h => (c.live (h.setWidth 64)).map (fun j =>
        (j, Cluster.maskOf (c.pod j), c.entriesOf (c.pod j))))
      let r : Run := { task := t, h := bind t.ins ++ bind t.outs, stores := stores, check := c.muCheck.getLsbD 0
                       bound := fieldOf c.pBound 0 24 }
      let r := if (mget c.mu.programs t.prog).isSome then r else { r with fault := some (codeBundle, 0, 0), stage := .over }
      .next (s.setMu cl { c.mu with table := c.mu.table.filter (fun u => u.id != t.id), run := some r, lc := [0, 0, 0, 0]
                                    sl := 0, rm := 0, arr := 0 })
  | _, _ => .next s

/-! ### Hazards (R205, R206) -/

/-- With checking on, an operation that reads and writes registers at these cycles meets a hazard. -/
def Run.hazard (r : Run) (t : Nat) (reads writes : List (MuReg × Nat)) : Bool :=
  r.check && r.uses.any (fun u =>
    writes.any (fun w => w.1 == u.reg && decide (w.2 ≤ u.cycle)) ||
    (u.isWrite && reads.any (fun x => x.1 == u.reg && decide (x.2 < u.cycle) && !(u.bundle == t && x.2 == t))))

/-- The operation's reads and writes are remembered for later ones. -/
def Run.note (r : Run) (t : Nat) (reads writes : List (MuReg × Nat)) : Run :=
  { r with uses := r.uses ++ reads.map (fun x => ⟨x.1, false, x.2, t⟩) ++ writes.map (fun x => ⟨x.1, true, x.2, t⟩) }

/-- A result is written at a cycle. -/
def Run.later (r : Run) (cycle order : Nat) (act : MuAct) (port : Bool := false) : Run :=
  { r with writes := r.writes ++ [(⟨cycle, order, act, port⟩ : MuWrite)] }

/-! ### The slots at issue (R201, R202, R221) -/

/-- LD-A and LD-B: geometry first, then hazards, then the outlier budget (R221). -/
def Cluster.issueLoad (c : Cluster) (r : Run) (t : Nat) (side : Bool) (x : Nat) : Except Nat Run :=
  if opOf x = 0 then .ok r
  else match c.load r c.mu.lc side x with
  | .error e => .error e
  | .ok l =>
    let ends := max t r.readEnd + 4 * max l.least (bankLoad l.parts)
    let ws := [(MuReg.tile side (bitsOf x 8 2), ends)]
    if r.hazard t [] ws then .error codeStall
    else if 64 < l.entries then .error codeOutlier
    else .ok ((({ r with readEnd := ends }).later ends (r.order + side.toNat) l.act true).note t [] ws)

/-- The tb registers that an MMA takes (R210). -/
def mmaRegisters (a : Tile) (tb b : Nat) : List Nat := if a.type.pruned = 0 then [b] else (List.range (128 / kt tb)).map (b + ·)

/-- MMA, MMAS, MMAZ (R397, R398). -/
def Cluster.issueMma (c : Cluster) (r : Run) (t : Nat) (x : Nat) : Except Nat Run :=
  if opOf x = 0 then .ok r
  else
    let n := bitsOf x 8 3
    let a := c.mu.tile false (bitsOf x 11 2)
    let (b, ta, tb) := (bitsOf x 13 2, bitsOf x 15 3, bitsOf x 18 3)
    let regs := mmaRegisters a tb b
    let bs := regs.map (c.mu.tile true)
    let zero_ := opOf x == 0x12
    let reads := (MuReg.tile false (bitsOf x 11 2), t) :: regs.map (fun m => (MuReg.tile true m, t)) ++
      (if zero_ then [] else [(MuReg.acc n, t + 64)])
    let ws := [(MuReg.acc n, t + 72)]
    if t < r.arrayEnd || r.hazard t reads ws then .error codeStall
    else if a.type.fmt != ta || bs.any (fun y => y.type.fmt != tb || y.type.pruned != 0 || (grouped tb && y.type.grp != a.type.grp)) ||
        b % regs.length != 0 then .error codeGeometry
    else if 64 < a.buffer.length + (bs.map (fun y => y.buffer.length)).sum then .error codeOutlier
    else
      let r := { r with arrayEnd := t + 64 }
      let r := if zero_ then r.later (t + 72) (r.order + 2) (.acc n (mmaBlock a bs false none))
        else r.later (t + 64) (r.order + 2) (.mma n (opOf x == 0x11) a bs)
      .ok (r.note t reads ws)

/-- A VEC operation that reads registers now and writes accumulators later. -/
def Run.vec (r : Run) (t : Nat) (reads : List MuReg) (after : Nat) (ws : List (Nat × Block)) : Except Nat Run :=
  let rs := reads.map (fun x => (x, t))
  let us := ws.map (fun w => (MuReg.acc w.1, t + after))
  if r.hazard t rs us then .error codeStall
  else .ok ((ws.foldl (fun r w => r.later (t + after) (r.order + 3) (.acc w.1 w.2)) r).note t rs us)

/-- The VEC slot (R214, R215, R331 to R346, R393, R412 to R414). -/
def Cluster.issueVec (c : Cluster) (r : Run) (t : Nat) (x : Nat) : Except Nat Run :=
  let m := c.mu
  let (d, n) := (bitsOf x 8 3, bitsOf x 11 3)
  let (x0, y0) := (m.block d, m.block n)
  let both := [MuReg.acc d, MuReg.acc n]
  let dGroup := groupBlocks m.arr d
  let sGroup := groupBlocks m.arr n
  let sRows := groupRows (sGroup.map m.block)
  let rowOp := fun (xs : List Nat) => r.vec t (sGroup.map .acc) 16 (dGroup.map (fun k => (k, rowBlock xs)))
  let elementwise := fun (f : Val → Val → Nat) => r.vec t both 8 [(d, map2Block f x0 y0)]
  let (side, reg) := (bitsOf x 16 1 == 1, bitsOf x 14 2)
  match opOf x with
  | 0x20 => r.vec t [] 4 [(d, [])]
  | 0x21 => elementwise (fun u v => vecAdd m.rm u (if bitsOf x 14 1 = 1 then v.negate else v))
  | 0x22 => elementwise (vecMul m.rm)
  | 0x23 => r.vec t [.acc d] 8 [(d, map2Block (vecMul m.rm) x0 (List.replicate 4096 (BitVec.ofNat 32 (bitsOf x 16 32))))]
  | 0x24 =>
    r.vec t [.acc d, .tile side reg] 8 [(d, map2Block (vecAdd m.rm) x0 (biasBlock (m.tile side reg).vector (bitsOf x 17 1 == 1)))]
  | 0x25 =>
    if bitsOf x 17 1 = 1 then rowOp (sRows.map (fun vs => encode32 (maxList vs)))
    else elementwise (fun u v => encode32 (vecMax u v))
  | 0x26 => r.vec t [.acc n] 16 [(d, map2Block (fun _ v => ((exp2Val v).round .f32 m.rm).1) x0 y0)]
  | 0x27 => rowOp (sRows.map (fun vs => ((alignedSumRes vs).round .f32 m.rm).1))
  | 0x28 =>
    let rs := sGroup.map (fun k => (MuReg.acc k, t))
    let rows := sGroup.map (fun k => if bitsOf x 25 1 = 1 then ((m.block k).rows.getD (bitsOf x 26 6) []) else (m.block k).full)
    if r.hazard t rs [] then .error codeStall
    else .ok ((({ r with qmaxes := r.qmaxes + 1 }).later (t + 3) (r.order + 3)
      (.sl (scaleLatch rows.flatten (bitsOf x 15 3) (bitsOf x 18 7)))).note t rs [])
  | 0x29 =>
    let y := quantTile y0 m.sl (bitsOf x 17 3) (bitsOf x 20 2) (bitsOf x 22 1 == 1) m.rm
    let ws := [(MuReg.tile side reg, t + 8)]
    if r.hazard t [(.acc n, t)] ws then .error codeStall
    else if 2 ≤ bitsOf x 17 3 ∧ bitsOf x 20 2 = 2 then .error codeGeometry
    else if 64 < y.buffer.length then .error codeOutlier
    else .ok ((r.later (t + 8) (r.order + 3) (.tile side reg y)).note t [(.acc n, t)] ws)
  | 0x2A => .ok (r.later (t + 1) (r.order + 3) (.config (bitsOf x 8 2) (bitsOf x 10 2)))
  | _ => .ok r

/-- A store enters the write port (R204). -/
def Run.save (r : Run) (t : Nat) (y : Saved64) : Run :=
  let start := max t r.writeEnd
  let ws := schedule start y.runs
  let ends := start + 8 * max 2 (bankLoad (ws.map (fun w => (w.2.1, w.2.2.length))))
  { r with writeEnd := ends, saves := r.saves ++ [⟨ends, ws⟩], savedBy := (ws.map Prod.fst).foldl max r.savedBy
           appended := if y.entries = 0 then r.appended else mset r.appended y.handle (mgetD r.appended y.handle 0 + y.entries) }

/-- The ST slot (R217, R218, R433, R434). -/
def Cluster.issueSt (c : Cluster) (r : Run) (t : Nat) (x : Nat) : Except Nat Run :=
  let m := c.mu
  match opOf x with
  | 0x30 =>
    let rs := [(MuReg.acc (bitsOf x 8 3), t)]
    if r.hazard t rs [] then .error codeStall
    else match c.storeBlock r m.lc m.rm (m.block (bitsOf x 8 3)) x with
      | .error e => .error e
      | .ok y => .ok ((r.save t y).note t rs [])
  | 0x31 =>
    let (side, reg) := (bitsOf x 10 1 == 1, bitsOf x 8 2)
    let rs := [(MuReg.tile side reg, t)]
    if r.hazard t rs [] then .error codeStall
    else match c.storeTile r m.lc (m.tile side reg) x with
      | .error e => .error e
      | .ok y => .ok ((r.save t y).note t rs [])
  | 0x32 =>
    let wants := bitsOf x 15 1 == 1
    let h := handleNumber m.lc x 11 35 36
    let output := if wants && decide (8 ≤ h) then (r.h[h]?).join else none
    if wants && output.isNone then .error codeGeometry
    else .ok { r with tsigs := r.tsigs ++ [⟨max (t + 1) (r.savedBy + 1), output, bitsOf x 16 1 == 1⟩] }
  | _ => .ok r

/-- The five slots in program order (R201), with the slot's number in a fault (R220). -/
def Cluster.issueSlots (c : Cluster) (r : Run) (t : Nat) (b : BitVec 384) : Except (Nat × Nat) Run := do
  let at_ := fun (n : Nat) (x : Except Nat Run) => x.mapError (fun e => (e, n))
  let r ← at_ 1 (c.issueLoad r t false (part b 1))
  let r ← at_ 2 (c.issueLoad r t true (part b 2))
  let r ← at_ 3 (c.issueMma r t (part b 3))
  let r ← at_ 4 (c.issueVec r t (part b 4))
  at_ 5 (c.issueSt r t (part b 5))

/-- The header operation (R176, R219). -/
def MatrixUnit.header (m : MatrixUnit) (r : Run) (t : Nat) (b : BitVec 384) (following : Nat) : Run :=
  let n := m.lc.getD (counterOf b) 0
  match hopOf b with
  | 1 => { r.later (t + 1) (r.order + 5) (.lc (counterOf b) (argOf b)) with pos := following }
  | 2 =>
    if 1 < n then { r.later (t + 1) (r.order + 5) (.lc (counterOf b) (n - 1)) with pos := argOf b }
    else { r.later (t + 1) (r.order + 5) (.lc (counterOf b) 0) with pos := following }
  | 3 => { r with stage := .over }
  | _ => { r with pos := following }

/-! ### Bundle issue (R201, R221 to R223) -/

/-- A register write or a store's bank write is due (R202 to R204). -/
def Run.writeDue (r : Run) (cycle : Nat) : Bool := r.writes.any (fun w => decide (w.cycle ≤ cycle))
def Run.saveDue (r : Run) (cycle : Nat) : Bool :=
  r.saves.any (fun x => decide (x.ends ≤ cycle) || x.writes.any (fun w => decide (w.1 ≤ cycle)))

/-- The next bundle issues in this cycle. -/
def State.bundleDue (s : State) (cl : Nat) : Bool :=
  let m := (s.cluster cl).mu
  match m.run with
  | none => false
  | some r => r.stage == .running && (!m.halted || m.stepping) && (!r.started || decide (r.due ≤ s.cycle)) && !(s.stopping cl && m.atStop s.cycle)

/-- Issue the bundle at the task's position. -/
def Cluster.issueBundle (c : Cluster) (r : Run) (t : Nat) : Run :=
  let (b, following) := c.mu.bundle r
  let point := !r.started || (stopOf b && r.quiet)
  let fault := fun (e n : Nat) => { r with fault := some (e, r.pos, n), stage := EndStage.over }
  if !point && r.bound != 0 && decide (r.bound < t - r.lastPoint) then fault codeBound 0
  else match c.issueSlots { r with uses := r.uses.filter (fun u => decide (t ≤ u.cycle)) } t b with
    | .error (e, n) => fault e n
    | .ok q =>
      let q := { q with started := true, due := t + stallOf b + 1, lastPoint := if point then t else r.lastPoint }
      { c.mu.header q t b following with order := r.order + 8 }

/-! ### Delayed writes and ports (R202 to R205) -/

/-- An MMA's read of its accumulator, which follows every write of its cycle (R205). -/
def MuWrite.reads (w : MuWrite) : Bool := match w.act with
  | .mma _ _ _ _ => true
  | _ => false

/-- The order in which writes are made: by cycle, an MMA's read last, then by program order. -/
def MuWrite.before (a b : MuWrite) : Bool :=
  decide (a.cycle < b.cycle) || (a.cycle == b.cycle && ((!a.reads && b.reads) || (a.reads == b.reads && decide (a.order < b.order))))

/-- The next write that is due. -/
def Run.nextWrite (r : Run) (cycle : Nat) : Option MuWrite :=
  (r.writes.filter (fun w => decide (w.cycle ≤ cycle))).foldl (fun b w => match b with
    | none => some w
    | some x => if w.before x then some w else b) none

/-- A write is made. -/
def MatrixUnit.apply (m : MatrixUnit) (r : Run) (w : MuWrite) : MatrixUnit :=
  let r := { r with writes := r.writes.erase w }
  let m := { m with run := some r }
  match w.act with
  | .acc n b => { m with acc := mset m.acc n b }
  | .mma n minus a bs => { m with run := some (r.later (w.cycle + 8) w.order (.acc n (mmaBlock a bs minus (some (m.block n))))) }
  | .tile side n t => m.setTile side n t
  | .tileValues side n bs =>
    let t := m.tile side n
    m.setTile side n { t with data := bs ++ (padTo 4096 0 t.data).drop bs.length }
  | .sl v => { m with sl := v, run := some { r with log := if r.log.length < 64 then r.log ++ [v] else r.log } }
  | .lc n v => { m with lc := m.lc.set n v }
  | .config rm arr => { m with rm := rm, arr := arr }

/-- Make the next write that is due, if it is, or is not, a tile load's. -/
def State.muWrite (s : State) (cl : Nat) (port : Bool) : State :=
  match s.run? cl with
  | none => s
  | some r =>
    match r.nextWrite s.cycle with
    | none => s
    | some w => if w.port = port then s.setMu cl ((s.cluster cl).mu.apply r w) else s

/-- MU_DELAYED_WRITE (R202). -/
def execMuDelayedWrite (cl : Nat) (s : State) : Host.Outcome State Fault Refusal := .next (s.muWrite cl false)

/-- TILE_LOAD_SERVICE_END (R203, R430). -/
def execTileLoadServiceEnd (cl : Nat) (s : State) : Host.Outcome State Fault Refusal := .next (s.muWrite cl true)

/-- One write of a store in its bank's slot (R79, R88, R217): with set-full, or refused as a whole. -/
def Cluster.saveWrite (x : Cluster × Nat) (w : Nat × Nat × List Byte) : Cluster × Nat :=
  let (c, n) := x
  match c.refusalInSlot (word w.2.1) w.2.1 w.2.2.length true with
  | some (_, g) => (c.markRefused g, n + 1)
  | none => ((c.write w.2.1 w.2.2).fill (granulesOf w.2.1 w.2.2.length), n)

/-- TILE_STORE_SERVICE_END (R204): the writes whose slots have come are performed; the service ends at its bound. -/
def execTileStoreServiceEnd (cl : Nat) (s : State) : Host.Outcome State Fault Refusal :=
  match s.run? cl with
  | none => .next s
  | some r =>
    let due := r.saves.flatMap (fun x => x.writes.filter (fun w => decide (w.1 ≤ s.cycle)))
    let saves := (r.saves.map (fun x => { x with writes := x.writes.filter (fun w => decide (s.cycle < w.1)) })).filter
      (fun x => decide (s.cycle < x.ends))
    let (c, n) := due.foldl Cluster.saveWrite (s.cluster cl, 0)
    .next (s.setCluster cl { c with mu := { c.mu with run := some { r with saves := saves, refused := r.refused + n } } })

/-! ### Signals (R218, R432) -/

/-- The task's arrival at its barrier: in this module at once, refused where no barrier can be; none while its packet cannot
be sent. -/
def State.taskArrives (s : State) (cl : Nat) (r : Run) : Option State :=
  let a := r.task.barrier
  let i := r.task.issuer
  let refused := (s.setRun cl { r with refused := r.refused + 1 }).refuseIssuer i a
  if a = 0 then some s
  else if (s.checkLocal i.job (s.cluster cl).spres a 16).isSome then some refused
  else if s.rankHere i.job (rankOf a) then
    if (s.barrierPlace i.job (clusterOf a) a).isSome then some (s.barrierChange i.job (clusterOf a) a Barrier.arrive)
    else some refused
  else match s.resolve i.job a with
    | none => none
    | some dst =>
      let src := s.clusterAddr cl
      let body := PacketWork.arrive.body none (some 6)
      if !s.mayInject src dst body.length 1 then none
      else
        let q := s.packet 0x02 src dst a body.length body false .arrive i.job i.launch
        some ((s.inject (.engine (.matrix cl) r.task.id 0) q).setRun cl { r with unanswered := r.unanswered + 1 })

/-- TSIG_SIGNAL (R218): the oldest TSIG whose signal cycle has come seals its output, and arrives. An arrival whose packet
cannot be sent yet stays. -/
def execTsigSignal (cl : Nat) (s : State) : Host.Outcome State Fault Refusal :=
  match s.run? cl with
  | none => .next s
  | some r =>
    match r.tsigs.find? (fun x => decide (x.cycle ≤ s.cycle)) with
    | none => .next s
    | some x =>
      let rest := { r with tsigs := r.tsigs.erase x }
      let t := s.setRun cl rest
      let t := match x.output.bind (fun h => (t.cluster cl).live (h.setWidth 64)) with
        | some j => if ((t.cluster cl).pod j).state = 1 then t.beginSeal cl j false none else t
        | none => t
      if !x.arrive then .next t
      else match t.taskArrives cl rest with
        | some u => .next u
        | none => .next (t.setRun cl { rest with tsigs := rest.tsigs ++ [{ x with output := none }] })

/-- A TSIG's effects are due and can be had in this cycle. -/
def State.tsigDue (s : State) (cl : Nat) : Bool :=
  match s.run? cl with
  | none => false
  | some r => r.tsigs.any (fun x => decide (x.cycle ≤ s.cycle) && (x.output.isSome || !x.arrive || (s.taskArrives cl r).isSome))

/-- A seal's completion falls in the present cycle and has not been taken (R92): a load of the cycle finds it (R208, R430). -/
def Cluster.sealEnds (c : Cluster) (cycle : Nat) : Bool := c.seals.any (fun x => x.over cycle)

/-- MATRIX_BUNDLE_ISSUE (R201). -/
def execMatrixBundleIssue (cl : Nat) (s : State) : Host.Outcome State Fault Refusal :=
  match s.run? cl with
  | none => .next s
  | some r =>
    if s.bundleDue cl && !r.writeDue s.cycle && !r.saveDue s.cycle && !s.tsigDue cl && !(s.cluster cl).sealEnds s.cycle then
      let t := s.setRun cl ((s.cluster cl).issueBundle r s.cycle)
      let m := (t.cluster cl).mu
      .next (if m.stepping then t.setMu cl { m with stepping := false } else t)
    else .next s

/-! ### Task end (R216, R219, R220) -/

/-- An address names `n` bytes of the plain region of this cluster, aligned (R216, R220), whatever its CHECK and GEN: the rules name
alignment and region alone (the model's choice, log entry 58). -/
def State.taskPlace (s : State) (cl : Nat) (job : Nat) (a : Word) (align n : Nat) : Bool :=
  a.toNat / 2 ^ 61 == 0 && s.namesCluster job cl a && offsetOf a % align == 0 && (s.cluster cl).inPlain (offsetOf a) n

/-- Step 2: the scale log. -/
def State.writeLog (s : State) (cl : Nat) (r : Run) : State :=
  let a := r.task.scaleLog
  if a = 0 then s
  else if s.taskPlace cl r.task.issuer.job a 16 256 then
    s.setCluster cl ((s.cluster cl).write (offsetOf a) (padTo 256 0 (r.log.flatMap (fun w => natBytes 4 w.toNat))))
  else s.setRun cl { r with badLog := true }

/-- The result word (R220). -/
def Run.resultWord (r : Run) : Word :=
  let (code, pos, slot) := r.fault.getD (if r.badLog then codeGeometry else 0, 0, 0)
  word (code + pos * 2 ^ 8 + slot * 2 ^ 24 + min r.refused 65535 * 2 ^ 32 + min r.qmaxes 255 * 2 ^ 48 + 2 ^ 63)

/-- Free a pod as PFREE does (R95). -/
def Cluster.freePod (c : Cluster) (j : Nat) : Cluster :=
  let d := c.pod j
  (granulesOf d.base d.footprint).foldl (fun c g => c.setGran g .closed) (c.setPod j (d.setState 0))

/-- The consumed inputs, each once (R197). -/
def MTask.consumed (t : MTask) : List (BitVec 16) :=
  (t.ins.zipIdx.filter (fun e => t.consume.toNat.testBit e.2)).foldl (fun acc e => if acc.contains e.1 then acc else acc ++ [e.1]) []

/-- A part of a gang task stands in a cluster's table or runs there. -/
def Cluster.holdsPart (c : Cluster) (id cl : Nat) : Bool :=
  let part_ := fun (t : MTask) => t.gang && t.gangId == id && t.gangCl == cl
  c.mu.table.any part_ || c.mu.run.any (fun r => part_ r.task)

/-- The timeline of a cluster's unit passes a task. -/
def State.passTask (s : State) (cl : Nat) (t : MTask) : State := s.setContext (.matrix cl) ((s.context (.matrix cl)).complete t.id)

/-- The issuer's step 6 waits: another member's part of its gang task is not over (R200, R219). -/
def State.gangWaits (s : State) (cl : Nat) (t : MTask) : Bool :=
  t.gang && t.gangCl == cl && (gangMembers cl).any (fun m => m != cl && (s.cluster m).holdsPart t.gangId cl)

/-- Steps 6 and 7: the timeline passes the task, the unit is free from the next cycle on, and a fault is raised. -/
def State.endTask (s : State) (cl : Nat) (r : Run) : State :=
  let t := r.task
  let s := (s.setMu cl { (s.cluster cl).mu with run := none, freeAt := s.cycle + 1 }).passTask cl t
  match r.fault with
  | some (code, _, _) => s.engineError t.issuer 3 5 code t.gangId 0
  | none => s

/-- Steps 4 and 5, and what follows when no member is waited for. -/
def State.closeTask (s : State) (cl : Nat) (r : Run) : State :=
  let t := r.task
  let c := s.cluster cl
  let c := if r.fault.isSome then c
    else (t.consumed.filterMap (fun h => c.live (h.setWidth 64))).foldl Cluster.freePod c
  let s := s.setCluster cl c
  let s := if t.resultAt ≠ 0 && s.taskPlace cl t.issuer.job t.resultAt 8 8 then
      s.setCluster cl (((s.cluster cl).write (offsetOf t.resultAt) (natBytes 8 r.resultWord.toNat)).fill (granulesOf (offsetOf t.resultAt) 8))
    else s
  if s.gangWaits cl t then s.setRun cl { r with stage := .passing } else s.endTask cl r

/-- The seals of the task's outputs are over: an output that has been freed since, as by another task's CONSUME, had its seal
complete before. -/
def Cluster.outputsSealed (c : Cluster) (t : MTask) : Bool := t.outs.all (fun h => c.sealedPod h || (c.live (h.setWidth 64)).isNone)

/-- A step of task end is due (R219). -/
def State.taskEndDue (s : State) (cl : Nat) : Bool :=
  match s.run? cl with
  | none => false
  | some r => match r.stage with
    | .running => false
    | .over => r.quiet && r.unanswered == 0
    | .sealing n => decide (n ≤ s.cycle)
    | .closing => (s.cluster cl).outputsSealed r.task
    | .passing => !s.gangWaits cl r.task

/-- TASK_END (R219): the step of the task's end that is due. -/
def execTaskEnd (cl : Nat) (s : State) : Host.Outcome State Fault Refusal :=
  match s.run? cl with
  | none => .next s
  | some r =>
    if !s.taskEndDue cl then .next s
    else match r.stage with
      | .running => .next s
      | .over =>
        let s := s.writeLog cl r
        .next (s.setRun cl { (s.run? cl).getD r with stage := .sealing (s.cycle + 1) })
      | .sealing _ =>
        let s := s.setRun cl { r with stage := .closing }
        .next (r.task.outs.foldl (fun (s : State) h => match (s.cluster cl).live (h.setWidth 64) with
          | some j => if ((s.cluster cl).pod j).state = 1 then s.beginSeal cl j false none else s
          | none => s) s)
      | .closing => .next (s.closeTask cl r)
      | .passing => .next (s.endTask cl r)

/-! ### Fillers (R198, R329) -/

/-- The cluster's clock runs (R19, R328): not in P3 and P4, nor in P2 where the cluster holds no launch context. -/
def State.clusterClocked (s : State) (cl : Nat) : Bool :=
  match s.host.power with
  | .p0 | .p1 => true
  | .p2 => (s.cluster cl).launch.isSome
  | .p3 | .p4 => false

/-- FILLER_MMA (R329): an idle matrix unit whose clock runs does one; SR_RAMPDOWN.RATE 0 allows none. -/
def execFillerMma (cl : Nat) (s : State) : Host.Outcome State Fault Refusal :=
  let m := (s.cluster cl).mu
  if s.clusterClocked cl && m.run.isNone && !m.halted && decide (m.fillerEnd ≤ s.cycle) && fieldOf s.rampDown 0 16 != 0 then
    .next { s.setMu cl { m with fillerEnd := s.cycle + 64 } with fillers := s.fillers + 1 }
  else .next s

end Sys2Proof.Machine
end

