-- ==== Sys2Proof/Machine/Sched.lean ====
section
/-! DEFINITION. Launches: submission, queues, aging, placement, pre-emption, saving, resumption and completion (R50 to R59,
R298 to R310, R322). -/

namespace Sys2Proof.Machine

/-! ### Submission (R57, R298, R322) -/

/-- The module runs launches: it has reported ready, and it is not off (R326, R328). -/
def State.running (s : State) : Bool := s.host.ready && s.host.power != .p4

/-- A submission that no pip makes: `top` is the greatest priority open to it. The value of R321's result. -/
def State.hostSubmit (s : State) (top controller job : Nat) (record : List Byte) : State × Word :=
  let r := LaunchRecord.of record
  match launchCode record ⟨none, top⟩ (s.ranksOf job).length with
  | 0 =>
    if 512 ≤ s.entriesUsed (queuingDie r controller) false then (s, statusWord 0x09)
    else if 63 < controller then (s, statusWord 0x0A)
    else
      let (s, id) := s.submit job r false controller
      (s, id.setWidth 64)
  | c => (s, statusWord c)

/-- HOST_LAUNCH_SUBMIT (R321, R322). -/
def execHostLaunchSubmit (controller job : Nat) (record : List Byte) (s : State) : Host.Outcome State Fault Refusal :=
  if !s.running || record.length != 192 then .next s
  else
    let (t, x) := s.hostSubmit 46 controller job record
    .next ((if x.getLsbD 63 then t else t.deliver (x.setWidth 32)).report (.submitted x))

/-- FIRMWARE_LAUNCH (R57): the firmware of a die controller may use priority 47. -/
def execFirmwareLaunch (controller job : Nat) (record : List Byte) (s : State) : Host.Outcome State Fault Refusal :=
  if !s.running || record.length != 192 then .next s
  else
    let (t, x) := s.hostSubmit 47 controller job record
    .next (if x.getLsbD 63 then t else t.deliver (x.setWidth 32))

/-- LAUNCH_RECORD_DELIVERY (R303): the record of a launch with a fabric level arrives from its home module. Identifiers are the submitting
module's own (log entry 8), so one that is known here is that of a record which has arrived before. -/
def execLaunchRecordDelivery (launch : BitVec 32) (job home issuerMode : Nat) (record : List Byte) (s : State) :
    Host.Outcome State Fault Refusal :=
  if !s.running || record.length != 192 || (s.launch launch).isSome || home == s.host.modid.toNat || launch == 0 then .next s
  else .next (s.setLaunch (s.newLaunch launch job (LaunchRecord.of record) (issuerMode == 1) 0 home))

/-! ### Units (R302, R303) -/

/-- A unit of a domain; a pip stands for its slot. -/
inductive LUnit where
  | module | die (d : Nat) | gang (g : Nat) | cluster (cl : Nat) | core (k : Nat) | slot (n : Nat)
  deriving DecidableEq, Repr

/-- The cluster at position i of gang g of the module (R11, R235). -/
def gangCluster (g i : Nat) : Nat := gangMember (256 * (g / 4) + 128 * (g / 2 % 2) + 8 * (g % 2)) i

/-- Cluster number u of a unit (R302). -/
def LUnit.clusterAt (p : LUnit) (u : Nat) : Option Nat :=
  match p with
  | .module => if u < 16384 then some u else none
  | .die d => if u < 256 then some (256 * d + u) else none
  | .gang g => if u < 64 then some (gangCluster g u) else none
  | .cluster cl => if u = 0 then some cl else none
  | .core k => if u = 0 then some (k / 16) else none
  | .slot n => if u = 0 then some (n / 256) else none

/-- Unit number u of a domain in its parent (R302, R303). -/
def LUnit.unitAt (p : LUnit) (domain u : Nat) : Option LUnit :=
  match domain, p with
  | 4, .module => if u < 64 then some (.die u) else none
  | 3, .module => if u < 256 then some (.gang u) else none
  | 3, .die d => if u < 4 then some (.gang (4 * d + u)) else none
  | 2, p => (p.clusterAt u).map .cluster
  | 1, p => (p.clusterAt (u / 16)).map (fun cl => .core (16 * cl + u % 16))
  | 0, .core k => if u < 16 then some (.slot (16 * k + u)) else none
  | 0, p => (p.clusterAt (u / 256)).map (fun cl => .slot (256 * cl + u % 256))
  | _, _ => none

/-- The clusters that a unit includes or lies in. -/
def LUnit.clusters : LUnit → List Nat
  | .module => List.range 16384
  | .die d => (List.range 256).map (256 * d + ·)
  | .gang g => (List.range 64).map (gangCluster g)
  | .cluster cl => [cl]
  | .core k => [k / 16]
  | .slot n => [n / 256]

/-- A level is spread over clusters: its parent is wider than its next natural domain (R303); how many of its units a
cluster takes. -/
def LUnit.spreads (p : LUnit) (domain : Nat) : Option Nat :=
  match domain, p with
  | 1, .module | 1, .die _ | 1, .gang _ => some 16
  | 0, .module | 0, .die _ | 0, .gang _ => some 256
  | _, _ => none

/-- Units of a domain in a parent. -/
def LUnit.count (p : LUnit) (domain : Nat) : Nat :=
  match domain, p with
  | 4, _ => 64
  | 3, .module => 256
  | 3, _ => 4
  | 2, .module => 16384
  | 2, .die _ => 256
  | 2, .gang _ => 64
  | 1, _ => 16
  | _, _ => 1

/-- The first n numbers below `count` that a test admits. -/
def firstFree (ok : Nat → Bool) : Nat → Nat → Nat → List Nat
  | 0, _, _ => []
  | fuel + 1, n, u => if n = 0 then [] else if ok u then u :: firstFree ok fuel (n - 1) (u + 1) else firstFree ok fuel n (u + 1)

/-- n free units of a domain in a parent: the controller's choice, or the lowest ones where it is not given; and the
choices left. -/
def takeUnits (free : Nat → Bool) (p : LUnit) (domain n : Nat) (choices : List Nat) : Option (List Nat × List Nat) :=
  let ok := fun (u : Nat) => match p.unitAt domain u with
    | some x => x.clusters.all free
    | none => false
  let us := if choices.isEmpty then firstFree ok (p.count domain) n 0
    else (List.range (p.count domain)).filter (choices.take n).contains
  if us.length = n ∧ us.all ok then some (us, choices.drop n) else none

/-- The units that a level takes in one parent, coordinate after coordinate (R303), and the choices left. -/
def Level.units (l : Level) (free : Nat → Bool) (p : LUnit) (choices : List Nat) : Option (List LUnit × List Nat) :=
  let fixed := (List.range l.extent).map (fun i => p.unitAt l.domain (l.origin + i))
  if l.origin ≠ 0xFFFFFFFF ∧ fixed.all Option.isSome then
    let us := fixed.filterMap (fun x => x)
    if us.all (fun x => x.clusters.all free) then some (us, choices) else none
  else match p.spreads l.domain with
  | some per =>
    (takeUnits free p 2 ((l.extent + per - 1) / per) choices).map (fun (cs, rest) =>
      ((List.range l.extent).filterMap (fun n => (cs[n / per]?).bind (fun u => p.unitAt l.domain (per * u + n % per))), rest))
  | none =>
    if l.domain = 0 then some (((List.range l.extent).filterMap (p.unitAt 0)), choices)
    else (takeUnits free p l.domain l.extent choices).map (fun (us, rest) => (us.filterMap (p.unitAt l.domain), rest))

/-- One level over every parent unit; units carry their coordinates, outermost first. -/
def Level.expand (l : Level) (free : Nat → Bool) : List (List Nat × LUnit) → List Nat → Option (List (List Nat × LUnit) × List Nat)
  | [], choices => some ([], choices)
  | (cs, p) :: ps, choices =>
    match l.units free p choices with
    | none => none
    | some (us, rest) =>
      match l.expand free ps rest with
      | none => none
      | some (xs, rest) => some ((us.zipIdx.map (fun e => (cs ++ [e.2], e.1))) ++ xs, rest)

/-- Resolve levels from the outermost (R302): the innermost units with their coordinates, and the clusters of the gangs that
gang levels take (R304). -/
def resolveLevels (free : Nat → Bool) : List Level → List (List Nat × LUnit) → List Nat → List Nat →
    Option (List (List Nat × LUnit) × List Nat)
  | [], us, held, _ => some (us, held)
  | l :: ls, us, held, choices =>
    if 5 ≤ l.domain then resolveLevels free ls us held choices
    else match l.expand free us choices with
      | none => none
      | some (vs, rest) => resolveLevels free ls vs (if l.domain = 3 then vs.flatMap (fun v => v.2.clusters) else held) rest

/-- Where a launch would be placed: its pips as (coordinates, slot), and the clusters that it would hold. -/
def Launch.resolve (l : Launch) (free : Nat → Bool) (choices : List Nat) : Option (List (List Nat × Nat) × List Nat) :=
  let root := if l.record.isModule then LUnit.module else .die l.die
  let outer := (l.record.levels.filter (fun x => decide (5 ≤ x.domain))).map (fun x => if x.domain = 6 then l.fabricCoord.getD 0 else 0)
  (resolveLevels free l.record.levels [(outer, root)] [] choices).map (fun (us, held) =>
    let pips := us.filterMap (fun u => match u.2 with
      | .slot n => some (u.1, n)
      | _ => none)
    (pips, (pips.map (fun p => p.2 / 256)).foldl (fun acc c => if acc.contains c then acc else acc ++ [c]) held))

/-- A cluster is free: it holds no context of a running launch (R304). -/
def State.clusterFree (s : State) (cl : Nat) : Bool := (s.cluster cl).launch.isNone

/-! ### Order (R299) -/

/-- The dies whose clusters a launch needs. -/
def Launch.dies (l : Launch) : List Nat :=
  if !l.record.isModule then [l.die]
  else match l.record.levels.find? (fun x => decide (x.domain < 5)) with
    | some x =>
      let us := (List.range x.extent).map (fun i => LUnit.module.unitAt x.domain (x.origin + i))
      if x.origin ≠ 0xFFFFFFFF ∧ us.all Option.isSome then
        ((us.filterMap (fun x => x)).filterMap (fun u => u.clusters.head?.map (· / 256))).foldl
          (fun acc d => if acc.contains d then acc else acc ++ [d]) []
      else List.range 64
    | none => List.range 64

/-- Cycles since its entry into its present queue. -/
def Launch.queuedFor (l : Launch) (cycle : Nat) : Nat := ((cycle : Int) - l.entered).toNat

/-- Waiting in its queue. -/
def Launch.waiting (l : Launch) : Bool := l.phase == .queued || l.phase == .saved

/-- The order of R299: `a` goes before `b`. A pre-empted launch re-entered at the head of its queue (R300). Where priority, kind and entry
are equal the spec fixes no order, and the lower identifier goes first (the model's choice, log entry 58). -/
def Launch.precedes (a b : Launch) : Bool :=
  if a.prio ≠ b.prio then decide (b.prio < a.prio)
  else if a.atHead ≠ b.atHead then a.atHead
  else if a.entered ≠ b.entered then (if a.atHead then decide (b.entered < a.entered) else decide (a.entered < b.entered))
  else if a.record.isModule ≠ b.record.isModule then a.record.isModule
  else decide (a.id.toNat < b.id.toNat)

/-- Every launch before it, among those that need a cluster of a die that it needs, has been placed. -/
def State.firstInOrder (s : State) (l : Launch) : Bool :=
  l.waiting && !s.launches.any (fun e => e.2.waiting && e.2.id != l.id && e.2.precedes l && e.2.dies.any l.dies.contains)

/-- It is the first not yet placed in some controller's order (R306). -/
def State.firstSomewhere (s : State) (l : Launch) : Bool :=
  l.waiting && l.dies.any (fun d =>
    !s.launches.any (fun e => e.2.waiting && e.2.id != l.id && e.2.precedes l && e.2.dies.contains d))

/-- The start gate of a launch's job is open (R296), and the module is not in P3 (R328). -/
def State.mayDispatch (s : State) (l : Launch) : Bool :=
  s.running && s.host.power != .p3 && (s.jobOf l.job).gate.isNone

/-! ### Placement (R304, R54) -/

/-- A cluster as a launch's context starts on it (R75, R195, R225, R304). -/
def Cluster.start (c : Cluster) (l : Launch) : Cluster :=
  let r := l.record
  { c with
    launch := some l.id
    spres := r.spres
    podBytes := r.podBytes
    podDesc := r.podDesc
    lvlInt := 2048
    muCheck := 0
    pBound := 262144
    sp := c.sp.filter (fun e => decide (r.spres ≤ e.1))
    grans := []
    pods := c.pods.map (fun e => if e.1 < r.podDesc then (e.1, e.2.setState 0) else e)
    opened := []
    freeing := []
    seals := []
    copies := [{}, {}, {}, {}]
    gather := {}
    merge := {}
    matrix := {}
    mu := { fillerEnd := c.mu.fillerEnd, halted := c.mu.halted }
    inbox := []
    lastLevel := none }

/-- SR_STATUS at the start of a launch (R54): the flags PRIV, IE, AE, MG and VL. -/
def LaunchRecord.status (r : LaunchRecord) : Word := word (r.flags % 32)

/-- A pip as it starts (R54). -/
def Launch.newPip (l : Launch) (coords : List Nat) : Pip :=
  let r := l.record
  let p : Pip :=
    { launch := l.id, pc := r.entry, status := r.status, asid := r.asid, pipid := word (pipIndex r.levels coords)
      coord := word (packCoords r.levels coords), extent := r.extentWord }
  p.setG 3 r.args

/-- The start of a launch on a core: its deque is empty; clean lines go when the pips' acquire reaches cluster scope (R58,
R69), and instructions (R124). -/
def Core.start (c : Core) : Core := { c with deque := [], lines := [], code := [], awaited := [] }

/-- A context comes onto clusters: what it will use of their scratchpads is saved for the contexts that are saved there (R309). -/
def State.saveBeyond (s : State) (spres : Nat) (held : List Nat) : State :=
  let grow := fun (x : Saved) (m : Map Nat) (e : Nat × Cluster) =>
    if held.contains e.1 then mset m e.1 (max (mgetD x.copied e.1 0) (min e.2.spres spres)) else m
  { s with
    saved := s.saved.map (fun x => { x with copied := x.clusters.foldl (grow x) x.copied })
    host := { s.host with saveWritten := [] } }

/-- Put a launch's context on clusters and its pips in slots. -/
def State.placeOn (s : State) (l : Launch) (pips : List (List Nat × Nat)) (held : List Nat) : State :=
  let s := held.foldl (fun (s : State) cl => s.setCluster cl ((s.cluster cl).start l)) s
  let s := (held.flatMap (fun cl => (List.range 16).map (16 * cl + ·))).foldl
    (fun (s : State) k => if (mget s.cores k).isSome then s.setCore k (s.core k).start else s) s
  let s := (pips.foldl (fun (s : State) p => s.setPip p.2 (l.newPip p.1)) s).saveBeyond l.record.spres held
  s.setLaunch { l with
    phase := .resident, entryHeld := false, clusters := held, placedAt := s.cycle, residentSince := s.cycle
    waited := l.waited + l.queuedFor s.cycle }

/-- LAUNCH_PLACEMENT (R299, R302 to R304): all at once or not at all. `units` are the free units that the controller takes
where no ORIGIN says which; the lowest ones where it is empty. -/
def execLaunchPlacement (die : Nat) (launch : BitVec 32) (units : List Nat) (s : State) : Host.Outcome State Fault Refusal :=
  match s.launch launch with
  | none => .next s
  | some l =>
    if l.die ≠ die ∨ l.phase ≠ .queued ∨ !s.mayDispatch l ∨ !s.firstInOrder l then .next s
    else match l.resolve s.clusterFree units with
      | some (pips, held) => .next (s.placeOn l pips held)
      | none => .next s

/-! ### Aging (R300, R301) -/

/-- SR_AGE.CYCLES, SR_PREEMPTWAIT.WAIT and MINRES as a die's controller applies them (R301). -/
def State.ageCycles (s : State) (die : Nat) : Nat := fieldOf (s.schedOf die).1 0 32
def State.waitCycles (s : State) (die : Nat) : Nat := fieldOf (s.schedOf die).2 0 32
def State.minResidence (s : State) (die : Nat) : Nat := fieldOf (s.schedOf die).2 32 32

/-- A waiting launch has waited long enough at its priority. -/
def State.ages (s : State) (die : Nat) (l : Launch) : Bool :=
  l.waiting && l.die == die && s.ageCycles die != 0 && decide (l.prio < 46) && decide (s.ageCycles die ≤ l.queuedFor s.cycle)

/-- AGING (R300): to the tail of the next higher queue. -/
def execAging (die : Nat) (launch : BitVec 32) (s : State) : Host.Outcome State Fault Refusal :=
  match s.launch launch with
  | none => .next s
  | some l =>
    if s.ages die l then
      .next (s.setLaunch { l with prio := l.prio + 1, waited := l.waited + l.queuedFor s.cycle, entered := s.cycle, atHead := false })
    else .next s

/-! ### Pre-emption (R305 to R310) -/

/-- The clusters that a launch could use once some launches have left. -/
def State.freeWithout (s : State) (gone : List (BitVec 32)) (cl : Nat) : Bool :=
  match (s.cluster cl).launch with
  | none => true
  | some l => gone.contains l

/-- A waiting launch could be placed, or resumed, on the clusters that a test calls free. -/
def Launch.fits (l : Launch) (free : Nat → Bool) : Bool :=
  if l.phase = .saved then l.clusters.all free else (l.resolve free []).isSome

/-- The launch needs one of these clusters (R299, R306). -/
def Launch.needs (l : Launch) (cls : List Nat) : Bool :=
  if l.phase = .saved then cls.any l.clusters.contains
  else
    let first := l.record.levels.find? (fun x => decide (x.domain < 5))
    let root := if l.record.isModule then LUnit.module else .die l.die
    match first with
    | some x =>
      let us := (List.range x.extent).map (fun i => root.unitAt x.domain (x.origin + i))
      if x.origin ≠ 0xFFFFFFFF ∧ us.all Option.isSome then (us.filterMap (fun x => x)).any (fun u => u.clusters.any cls.contains)
      else cls.any (fun c => root == .module || c / 256 == l.die)
    | none => true

/-- A launch has less claim to stay than another: lower current priority first, then the most recently placed (R306). Of
two placed in one cycle the spec fixes no order, and the higher identifier yields first (the model's choice, log entry 58). -/
def Launch.yieldsBefore (a b : Launch) : Bool :=
  if a.prio ≠ b.prio then decide (a.prio < b.prio)
  else if a.placedAt ≠ b.placedAt then decide (b.placedAt < a.placedAt)
  else decide (b.id.toNat < a.id.toNat)

/-- Insert in the order of victims. -/
def insertVictim (l : Launch) : List Launch → List Launch
  | [] => [l]
  | x :: xs => if l.yieldsBefore x then l :: x :: xs else x :: insertVictim l xs

/-- Saved contexts that a cluster holds (R306). -/
def State.savedOn (s : State) (cl : Nat) : Nat := s.saved.countP (fun x => (mget x.clusters cl).isSome)

/-- The launches that may be victims of `l`, in the order in which they are taken. -/
def State.eligible (s : State) (die : Nat) (l : Launch) : List Launch :=
  (s.launches.filter (fun e =>
    let v := e.2
    (v.phase == .resident || v.phase == .partDone) && decide (v.prio < l.prio) && l.needs v.clusters &&
    (l.prio == 47 || decide (v.residentSince + s.minResidence die ≤ s.cycle)) &&
    v.clusters.all (fun c => decide (s.savedOn c < 4)))).foldl (fun acc e => insertVictim e.2 acc) []

/-- Victims until the launch fits. -/
def State.victims (s : State) (l : Launch) : List Launch → List (BitVec 32) → Option (List (BitVec 32))
  | vs, gone =>
    if l.fits (s.freeWithout gone) then some gone
    else match vs with
      | [] => none
      | v :: vs => s.victims l vs (gone ++ [v.id])

/-- The launch has waited long enough to pre-empt, or has priority 47 (R301, R306). -/
def State.mayPreempt (s : State) (die : Nat) (l : Launch) : Bool :=
  l.prio == 47 ||
  (s.waitCycles die != 0xFFFFFFFF && decide (s.waitCycles die ≤ l.waited + l.queuedFor s.cycle))

/-- Stop a launch context (R307 step 1): every pip is held. -/
def State.stopLaunch (s : State) (id : BitVec 32) : State :=
  match s.launch id with
  | some l =>
    if l.phase = .resident ∨ l.phase = .partDone then
      { s.setLaunch { l with phase := .stopping } with
        pips := s.pips.map (fun e => if e.2.launch = id then (e.1, { e.2 with heldPreempt := true }) else e) }
    else s
  | none => s

/-- PREEMPTION_START (R306, R307): launches already stopping count as leaving. -/
def execPreemptionStart (die : Nat) (launch : BitVec 32) (s : State) : Host.Outcome State Fault Refusal :=
  match s.launch launch with
  | none => .next s
  | some l =>
    if l.die ≠ die ∨ !s.mayDispatch l ∨ !s.firstSomewhere l ∨ !s.mayPreempt die l then .next s
    else
      let leaving := (s.launches.filter (fun e => e.2.phase == .stopping)).map (fun e => e.2.id)
      match s.victims l (s.eligible die l) leaving with
      | some gone => .next (gone.foldl State.stopLaunch s)
      | none => .next s

/-- A waiting operation (R308), not yet finished: its read, its phase or its value is still to come. -/
def State.waitingOp (s : State) (o : Op) : Bool :=
  (o.phase == .waiting || o.phase == .sent) && (match o.kind with
    | .loadL _ _ q => q == 1 || q == 2
    | .barwL _ _ => true
    | .waitge e v => decide ((s.context e).timeline < v.toNat)
    | _ => false)

/-- The packets in flight that carry an outstanding request, or its forwarding. -/
def State.requestsOf (s : State) (o : Outstanding) : List (Nat × Packet) :=
  s.net.packets.filter (fun e => e.2.origin == o.packet.origin && e.2.seq == o.packet.seq && e.2.job == o.packet.job &&
    (e.2.dst == o.packet.dst || (e.2.kind == 0x08 && e.2.src == o.packet.dst)) && decide (e.2.kind.toNat < 0x10))

/-- The outstanding request of a pip's operation. -/
def State.requestOf (s : State) (k n : Nat) : Option Outstanding := s.net.outstanding.find? (fun o => o.origin == .pip k n)

/-- A waiting operation can be withdrawn: near, or its packet waits in this module for its target (R308). -/
def State.withdrawable (s : State) (k : Nat) (o : Op) : Bool :=
  o.phase == .waiting || (match s.requestOf k o.id with
    | some q => !q.completed && (s.requestsOf q).any (fun e => match e.2.work with
        | .barrierDone _ => false
        | _ => true)
    | none => false)

/-- The operations of a stopped pip may stand as they are in its save: waiting operations, replay entries (R316), and what
these hold back. -/
def State.opSettled (s : State) (k : Nat) (p : Pip) (o : Op) : Bool :=
  match o.phase with
  | .deferred _ _ => true
  | .waiting => s.waitingOp o || !s.canPerform k p o || o.kind == .mark || (match o.kind with
      | .fence _ => true
      | _ => false)
  | .sent => s.waitingOp o && s.withdrawable k o
  | _ => false

/-- The drain of a stopped launch context is over (R307 step 2). -/
def State.drained (s : State) (l : Launch) : Bool :=
  l.clusters.all (fun cl =>
    let c := s.cluster cl
    c.mu.atStop s.cycle && c.mu.run.all (fun r => r.unanswered == 0) && c.seals.isEmpty &&
    c.copies.all (fun x => x.queue.isEmpty) && c.gather.queue.isEmpty && c.merge.queue.isEmpty && c.matrix.queue.isEmpty) &&
  s.nmas.all (fun e => e.2.queue.all (fun c => c.issuer.launch != l.id)) &&
  s.pips.all (fun e => e.2.launch != l.id || (e.2.cond != .inTransit && e.2.ops.all (s.opSettled e.1 e.2)))

/-- Withdraw a sent waiting operation at its target (R308): nothing of it stays, and a BARW keeps the phase it found. -/
def State.withdraw (s : State) (k : Nat) (o : Op) : State :=
  match s.requestOf k o.id with
  | none => s
  | some q =>
    let es := s.requestsOf q
    let found := es.findSome? (fun e => match e.2.work with
      | .barrierHeld x => some x
      | _ => none)
    let kind := match o.kind, found with
      | .barwL a _, some x => .barwL a (some x)
      | x, _ => x
    let s := { s with net := { s.net with outstanding := s.net.outstanding.filter (fun x => x != q) } }
    (es.foldl (fun (s : State) e => s.dropPacket e.1) s).modPip k (fun p => p.modOp o.id (fun o => { o with phase := .waiting, kind := kind }))

/-- A cluster when its context has left it. -/
def Cluster.release (c : Cluster) : Cluster :=
  { c with launch := none, spres := 0, podBytes := 0, podDesc := 0, inbox := [], seals := [], opened := [], freeing := []
           mu := { fillerEnd := c.mu.fillerEnd, halted := c.mu.halted } }

/-- The cores of clusters. -/
def coresOf (cls : List Nat) : List Nat := cls.flatMap (fun cl => (List.range 16).map (16 * cl + ·))

/-- An agent belongs to a launch: what it has asked of home L2s is dropped when the launch leaves its clusters. -/
def State.askerOf (s : State) (l : BitVec 32) (who : Asker) : Bool :=
  let runs := fun (cl : Nat) => (s.cluster cl).launch == some l
  match who with
  | .op k _ | .fetch k _ => (s.pip k).any (fun p => p.launch == l)
  | .engine e _ _ => (engineCluster e).any runs
  | .mload cl _ => runs cl
  | .pref core _ _ _ _ => runs (core / 16)
  | .launch id => id == l
  | .host _ | .gone => false

/-- CONTEXT_SAVE (R307 steps 3 and 4, R309): the context is saved, the launch re-enters the head of its queue, and its
clusters are free. -/
def execContextSave (launch : BitVec 32) (s : State) : Host.Outcome State Fault Refusal :=
  match s.launch launch with
  | none => .next s
  | some l =>
    if l.phase ≠ .stopping ∨ !s.drained l then .next s
    else
      let sent := s.pips.flatMap (fun e => if e.2.launch = l.id then (e.2.ops.filter (fun o => o.phase == .sent)).map (fun o => (e.1, o)) else [])
      let s := sent.foldl (fun (s : State) e => s.withdraw e.1 e.2) s
      let image : Saved :=
        { launch := l.id, job := l.job, savedAt := s.cycle
          clusters := s.clusters.filter (fun e => l.clusters.contains e.1)
          deques := (s.cores.filter (fun e => l.clusters.contains (e.1 / 16))).map (fun e => (e.1, e.2.deque))
          pips := s.pips.filter (fun e => e.2.launch == l.id) }
      let s := { s.forgetAsks (s.askerOf l.id) with
        saved := s.saved ++ [image]
        host := { s.host with saveWritten := [] }
        pips := s.pips.filter (fun e => e.2.launch != l.id)
        clusters := s.clusters.map (fun (e : Nat × Cluster) => if l.clusters.contains e.1 then (e.1, e.2.release) else e)
        cores := s.cores.map (fun (e : Nat × Core) => if l.clusters.contains (e.1 / 16) then (e.1, { e.2 with deque := [] }) else e) }
      .next (s.setLaunch { l with phase := .saved, entered := s.cycle, atHead := true, entryHeld := false })

/-- A running task at its stop point, where nothing is in flight, goes on as if no time had passed (R222). -/
def Run.resume (r : Run) (cycle : Nat) : Run :=
  { r with due := cycle, lastPoint := cycle, readEnd := 0, writeEnd := 0, arrayEnd := 0, savedBy := 0, uses := [] }

/-- A pip as resumption leaves it (R310): one parked in PAUSE is ready. -/
def Pip.resume (p : Pip) (cycle : Nat) : Pip :=
  { p with heldPreempt := false, lastIssue := none, ops := p.ops.map (fun o => { o with born := cycle }), cond := (match p.cond with
      | .parked (.pause _) => .ready
      | c => c) }

/-- A near BARW that is issued again (R310, R350): where the barrier has left the phase that it found, it writes rd at once. -/
def State.reissue (s : State) (k : Nat) (p : Pip) (o : Op) : Op :=
  match o.kind with
  | .barwL a (some x) =>
    let phase := ((s.cluster (k / 256)).barrier (offsetOf a)).phase
    if o.phase = .waiting ∧ s.namesCluster (s.jobOfLaunch p.launch) (k / 256) a ∧ phase ≠ x then
      { o with phase := .done, result := BitVec.ofNat 512 phase }
    else o
  | _ => o

/-- CONTEXT_RESUME (R310): on the same clusters and slots. A deadline that has passed has its seal point after the present cycle: R97
says "in the first cycle after resumption", which the model reads as the cycle after this one, not this one (log entry 55). -/
def execContextResume (launch : BitVec 32) (s : State) : Host.Outcome State Fault Refusal :=
  match s.launch launch, s.saved.find? (fun x => x.launch == launch) with
  | some l, some x =>
    if l.phase ≠ .saved ∨ !s.mayDispatch l ∨ !s.firstInOrder l ∨ !l.clusters.all s.clusterFree then .next s
    else
      let s := { s with saved := s.saved.filter (fun y => y.launch != launch) }.saveBeyond l.record.spres l.clusters
      let s := x.clusters.foldl (fun (s : State) e =>
        let c := s.cluster e.1
        s.setCluster e.1 { e.2 with
          banks := c.banks
          opened := e.2.pods.map (fun d => (d.1, s.cycle))
          lastLevel := none
          mu := { e.2.mu with run := e.2.mu.run.map (fun r => r.resume s.cycle), fillerEnd := c.mu.fillerEnd, freeAt := 0, halted := c.mu.halted } }) s
      let s := (coresOf l.clusters).foldl (fun (s : State) k =>
        if (mget s.cores k).isSome || (mget x.deques k).isSome then
          s.setCore k { s.core k with deque := mgetD x.deques k [], lines := [], code := [], awaited := [] }
        else s) s
      let s := { s with tlbs := s.tlbs.map (fun e =>
        if l.clusters.any (fun c => c / 256 == e.1) then (e.1, e.2.filter (s.keptByTinv e.1)) else e) }
      let s := x.pips.foldl (fun (s : State) e =>
        let p := e.2.resume s.cycle
        s.setPip e.1 { p with ops := p.ops.map (s.reissue e.1 p) }) s
      .next (s.setLaunch { l with phase := if l.partOver then .partDone else .resident, residentSince := s.cycle, waited := l.waited + l.queuedFor s.cycle, atHead := false })
  | _, _ => .next s

/-! ### Completion (R59, R97, R121) -/

/-- A task that stands in a table waits on an OPEN, untimed input that no seal has reached, or on one that has been freed (R59). -/
def Cluster.stranded (c : Cluster) (t : MTask) : Bool :=
  t.ins.any (fun h => match c.live (h.setWidth 64) with
    | some j => (c.pod j).state == 1 && !(c.pod j).timed && !c.sealing j
    | none => true)

/-- The part of a launch on this module is complete (R59). -/
def State.partComplete (s : State) (l : Launch) : Bool :=
  s.pips.all (fun e => e.2.launch != l.id || (e.2.cond == .idle && e.2.ops.isEmpty)) &&
  s.net.packets.all (fun e => !(e.2.kind == 0x05 && e.2.launch == l.id)) &&
  s.nmas.all (fun e => e.2.queue.all (fun c => c.issuer.launch != l.id)) &&
  l.clusters.all (fun cl =>
    let c := s.cluster cl
    (List.range 16).all (fun k => (s.core (16 * cl + k)).deque.isEmpty) && c.inbox.isEmpty &&
    c.copies.all (fun x => x.queue.isEmpty) && c.gather.queue.isEmpty && c.merge.queue.isEmpty && c.matrix.queue.isEmpty &&
    c.mu.run.all (fun r => r.stage == .passing) && c.mu.table.all c.stranded)

/-- The tasks that are discarded: a gang task once. -/
def State.tasksLeft (s : State) (l : Launch) : Nat :=
  let ts := l.clusters.flatMap (fun cl => (s.cluster cl).mu.table.map (fun t => (cl, t)))
  let gangs := (ts.filter (fun e => e.2.gang)).map (fun e => (e.2.gangCl, e.2.gangId))
  ts.countP (fun e => !e.2.gang) + (gangs.foldl (fun acc g => if acc.contains g then acc else acc ++ [g]) []).length

/-- The cluster when its launch is over: descriptors FREE and pod granules CLOSED, generations kept (R97); the plain region stays as
it is. -/
def Cluster.finish (c : Cluster) : Cluster :=
  { c with
    launch := none, inbox := [], seals := [], opened := [], freeing := []
    pods := c.pods.map (fun e => (e.1, e.2.setState 0)), grans := c.grans.filter (fun e => decide (16 * e.1 < c.plainEnd))
    mu := { fillerEnd := c.mu.fillerEnd, halted := c.mu.halted } }

/-- Free everything that a launch holds here: slots, pods, pins, clusters (R59, R71, R97). -/
def State.freeLaunch (s : State) (l : Launch) : State :=
  { s.forgetAsks (s.askerOf l.id) with
    pips := s.pips.filter (fun e => e.2.launch != l.id)
    pins := s.pins.filter (fun e => e.2 != l.id)
    saved := s.saved.filter (fun x => x.launch != l.id)
    clusters := s.clusters.map (fun (e : Nat × Cluster) => if e.2.launch = some l.id then (e.1, e.2.finish) else e)
    cores := s.cores.map (fun (e : Nat × Core) =>
      if (s.cluster (e.1 / 16)).launch = some l.id then (e.1, { e.2 with deque := [] }) else e)
    launches := merase s.launches l.id.toNat }

/-- A launch is over: DONEVAL is stored, the completion, or the store's failure, is reported, and what the launch holds is freed (R59,
R383). The die controller that answers for it, die 0's, makes the store; one on another die is performed first. -/
def State.announce (s : State) (l : Launch) (discarded : Nat) : State :=
  let a := l.record.doneAddr
  let ended := fun (s : State) => (s.report (.launchComplete l.id discarded)).freeLaunch l
  let fault := fun (c : Cause) (s : State) => (s.report (.launchFault l.id 0 c.code a)).freeLaunch l
  if a = 0 then ended s
  else if a.toNat % 8 ≠ 0 then fault .misaligned s
  else s.reaching (.launch l.id) (s.controllerAddr 0) (fun s =>
    match s.translate 0 l.record.asid (l.record.flags.testBit 0) .store a with
    | (s, .ok (pa, _)) => (s.writeFrom pa (natBytes 8 l.record.doneVal.toNat), ended)
    | (s, .error c) => (s, fault c)) ended

/-- Discard the tasks that remain: the timelines pass them, and that of a gang's issuer whose step 6 waited for one. -/
def State.discardTasks (s : State) (l : Launch) : State :=
  l.clusters.foldl (fun s cl => (s.cluster cl).mu.table.foldl (fun (s : State) t =>
    let c := s.cluster cl
    (s.setCluster cl { c with mu := { c.mu with table := c.mu.table.filter (fun u => u != t) } }).passTask cl t)
    (match s.run? cl with
      | some r => s.endTask cl r
      | none => s)) s

/-- LAUNCH_COMPLETE (R59): this module's part, which is reported to the home module; at the home module, once every part is
complete, the launch itself. What it holds in another module is freed once the home module has completed it. -/
def execLaunchComplete (launch : BitVec 32) (s : State) : Host.Outcome State Fault Refusal :=
  match s.launch launch with
  | none => .next s
  | some l =>
    let own := (s.jobOf l.job).ownRank
    let atHome := l.home == s.host.modid.toNat
    match l.phase with
    | .resident =>
      if !s.partComplete l then .next s
      else
        let l' := { l with phase := LaunchPhase.partDone, partOver := true, discarded := l.discarded + s.tasksLeft l, partsLeft := l.partsLeft.filter (· != own) }
        let s := s.discardTasks l
        if !atHome then .next ((s.setLaunch l').report (.partComplete l.id own l'.discarded))
        else if l'.partsLeft.isEmpty then .next ((s.setLaunch l').announce l' l'.discarded)
        else .next (s.setLaunch l')
    | .partDone | .saved =>
      if !l.partOver then .next s
      else if !atHome then .next (if l.ended then s.freeLaunch l else s)
      else if l.partsLeft.isEmpty then .next (s.announce l l.discarded)
      else .next s
    | _ => .next s

/-- The home module of a launch has completed it. -/
def State.launchOver (s : State) (launch : BitVec 32) : State :=
  match s.launch launch with
  | some l => if l.home == s.host.modid.toNat then s else s.setLaunch { l with ended := true }
  | none => s

/-- PART_COMPLETE_REPORT (R59): a module's part, reported to the home module. -/
def execPartCompleteReport (launch : BitVec 32) (rank discarded : Nat) (s : State) : Host.Outcome State Fault Refusal :=
  match s.launch launch with
  | none => .next s
  | some l =>
    if l.home == s.host.modid.toNat && l.partsLeft.contains rank && rank != (s.jobOf l.job).ownRank then
      .next (s.setLaunch { l with partsLeft := l.partsLeft.filter (· != rank), discarded := l.discarded + discarded })
    else .next s

/-- A launch ends without completing (R289, R324): what it holds is freed, and what its pips and commands have outstanding
is dropped. Its commands in the channels of attention units leave their queues as commands that complete do, so that the timelines pass
their identifiers: the spec does not say what becomes of them (the model's choice, log entry 58). -/
def State.endLaunch (s : State) (l : Launch) : State :=
  let mine := fun (o : Outstanding) => match o.origin with
    | .pip k _ | .part k _ _ | .migrant k => (s.pip k).any (fun p => p.launch == l.id)
    | .engine e id _ => (s.command? e id).any (fun c => c.issuer.launch == l.id) || (match e with
        | .matrix cl => (s.cluster cl).launch == some l.id
        | _ => false)
    | .merge k _ => (s.cluster (k / 16)).launch == some l.id
    | .recall _ _ | .ask _ _ | .firmware => false
  let gone := (s.net.outstanding.filter mine).flatMap s.requestsOf
  let s := gone.foldl (fun (s : State) e => s.dropPacket e.1) { s with
    net := { s.net with outstanding := s.net.outstanding.filter (fun o => !mine o) } }
  let s := { s with
    nmas := s.nmas.map (fun (e : Nat × Ctx) =>
      (e.1, (e.2.queue.filter (fun c => c.issuer.launch == l.id)).foldl (fun (x : Ctx) c => x.complete c.id) e.2))
    saved := s.saved.filter (fun x => x.launch != l.id)
    cores := s.cores.map (fun (e : Nat × Core) => if (s.cluster (e.1 / 16)).launch = some l.id then (e.1, { e.2 with reds := [] }) else e) }
  let s := l.clusters.foldl (fun (s : State) cl =>
    if (s.cluster cl).launch = some l.id then
      s.setCluster cl { s.cluster cl with copies := [{}, {}, {}, {}], gather := {}, merge := {}, matrix := {} }
    else s) s
  s.freeLaunch l

end Sys2Proof.Machine
end

