-- ==== Sys2Proof/Machine/HostPort.lean ====
section
/-! DEFINITION. The Milcy port, power, security, debug and start-up (12 R321 to R330). A management command that its rule
refuses changes nothing and is reported as refused. -/

namespace Sys2Proof.Machine

/-- A management command has been carried out, or refused. -/
def State.carried (s : State) (name : String) : State := s.report (.done name)
def State.rejected (s : State) (name reason : String) : State := s.report (.refused name reason)

/-! ### Memory windows (R321, R322) -/

/-- WINDOW_OPEN (R321): up to 16. -/
def execWindowOpen (window : WindowSpec) (s : State) : Host.Outcome State Fault Refusal :=
  if !s.managed then .next s
  else if 16 ≤ s.host.windows.length then .next (s.rejected "WINDOW_OPEN" "16 windows are open")
  else
    .next ({ s with host := { s.host with windows := s.host.windows ++ [window] } }.report (.windowOpened s.host.windows.length))

/-- Bytes split at the boundaries of lines: (first, length). -/
def lineRuns : Nat → Nat → Nat → List (Nat × Nat)
  | 0, _, _ => []
  | fuel + 1, a, n =>
    if n = 0 then []
    else
      let k := min n (128 - a % 128)
      (a, k) :: lineRuns fuel (a + k) (n - k)

/-- A run of bytes within one line has one in a range. -/
def runsOver (a n base size : Nat) : Bool := decide (a < base + size) && decide (base < a + n)

/-- Bytes within one line that a physical window reaches: of R62's addresses, outside the save areas and the firmware's own memory
(R321). -/
def State.windowReaches (s : State) (a n : Nat) : Bool :=
  physical a && physical (a + n - 1) && !runsOver a n s.host.saveBase s.host.saveSize && !runsOver a n s.host.firmwareBase s.host.firmwareSize

/-- The physical runs of an access through a window; none when it fails (R322). -/
def State.windowRuns (s : State) (w : Window) (need : Need) : List (Nat × Nat) → State × Option (List (Nat × Nat))
  | [] => (s, some [])
  | (off, n) :: rs =>
    let a := w.base.toNat + off
    if w.physical then
      if s.windowReaches a n then
        match s.windowRuns w need rs with
        | (s, some xs) => (s, some ((a, n) :: xs))
        | (s, none) => (s, none)
      else (s, none)
    else match s.translate 0 w.asid true need (word a) with
      | (s, .error _) => (s, none)
      | (s, .ok (pa, _)) =>
        match s.windowRuns w need rs with
        | (s, some xs) => (s, some ((pa, n) :: xs))
        | (s, none) => (s, none)

/-- The window of an access that lies within it and that it allows (R322). -/
def State.windowFor (s : State) (window offset count : Nat) (write : Bool) : Option Window :=
  (s.host.windows[window]?).filter (fun w => decide (count ≠ 0) && decide (offset + count ≤ 65536 * w.pages) &&
    (if write then w.writable else w.readable) && decide (w.base.toNat + offset + count ≤ 2 ^ 64))

/-- Resolve an access through a window; its runs end where lines of its address space do. -/
def State.windowAccess (s : State) (w : Window) (offset count : Nat) (write : Bool) : State × Option (List (Nat × Nat)) :=
  s.windowRuns w (if write then .store else .load)
    ((lineRuns count (w.base.toNat + offset) count).map (fun r => (r.1 - w.base.toNat, r.2)))

/-- Read runs of bytes for the die controller by whose port they are asked for, line by line. -/
def State.readRuns (s : State) (read : State → Word → Nat → Nat → State × List Byte) (runs : List (Nat × Nat)) : State × List Byte :=
  runs.foldl (fun (x : State × List Byte) r =>
    let (t, bs) := read x.1 x.1.asker r.1 r.2
    (t, x.2 ++ bs)) (s, [])

/-- Write bytes to runs of memory, line by line. -/
def State.writeRunsOf (s : State) (write : State → Nat → List Byte → State) (runs : List (Nat × Nat)) (data : List Byte) : State :=
  (runs.foldl (fun (x : State × List Byte) r => (write x.1 r.1 (x.2.take r.2), x.2.drop r.2)) (s, data)).1

/-- WINDOW_READ (R322). A line whose home L2 is on another die than the port's is read there (the port is taken to belong to die 0, log
entry 58). In P3, where HBM4E refreshes itself (R328), a window is answered as in P0: the spec says nothing else (the
model's choice, log entry 58). -/
def execWindowRead (window offset count : Nat) (s : State) : Host.Outcome State Fault Refusal :=
  if !s.managed then .next s
  else match s.windowFor window offset count false with
  | none => .next (s.report (.windowError window))
  | some w => .next (s.reaching (.host (.windowRead window offset count)) (s.controllerAddr 0) (fun s =>
    match s.windowAccess w offset count false with
    | (t, none) => (t, fun t => t.report (.windowError window))
    | (t, some runs) =>
      let (t, bs) := t.readRuns State.readLine runs
      (t, fun t => t.report (.windowData window bs))) id)

/-- WINDOW_WRITE (R322). -/
def execWindowWrite (window offset : Nat) (data : List Byte) (s : State) : Host.Outcome State Fault Refusal :=
  let done := fun (t : State) => t.report (.windowDone window)
  if !s.managed then .next s
  else match s.windowFor window offset data.length true with
  | none => .next (s.report (.windowError window))
  | some w => .next (s.reaching (.host (.windowWrite window offset data)) (s.controllerAddr 0) (fun s =>
    match s.windowAccess w offset data.length true with
    | (t, none) => (t, fun t => t.report (.windowError window))
    | (t, some runs) => (t.writeRunsOf State.writeFrom runs data, done)) done)

/-! ### What the management channel reads (R63, R285, R327) -/

/-- READ_STEP_RECORD (R327). -/
def execReadStepRecord (s : State) : Host.Outcome State Fault Refusal :=
  if s.managed then .next (s.report (.stepRecord s.host.steps.toList)) else .next s

/-- CLEAR_STEP_ENTRY (R327): the entry of a step gets its reset value. -/
def execClearStepEntry (entry : Nat) (s : State) : Host.Outcome State Fault Refusal :=
  if !s.managed then .next s
  else if h : 1 ≤ entry ∧ entry ≤ 16 then
    .next ({ s with host := { s.host with steps := s.host.steps.set (entry - 1) 0 (by omega) } }.carried "CLEAR_STEP_ENTRY")
  else .next (s.rejected "CLEAR_STEP_ENTRY" "no such step")

/-- READ_AST_BASE (R63). -/
def execReadAstBase (s : State) : Host.Outcome State Fault Refusal :=
  if s.managed then .next (s.report (.astBase s.host.astBase)) else .next s

/-- READ_ROUTING_TABLES (R285): those of the current version. -/
def execReadRoutingTables (s : State) : Host.Outcome State Fault Refusal :=
  if s.managed then .next (s.report (.routingTables s.net.tables)) else .next s

/-! ### Power (R19, R328 to R330) -/

/-- A launch holds a context on clusters: running, stopping, or with its part complete (R59). -/
def Launch.isResident (l : Launch) : Bool :=
  l.phase == .resident || l.phase == .stopping || (l.phase == .partDone && !l.clusters.isEmpty)

/-- A launch context is resident. -/
def State.anyResident (s : State) : Bool := s.launches.any (fun e => e.2.isResident)

/-- The global cycle restarts from 0 on leaving P3 (R19): what the model keeps as cycles moves with it. -/
def State.restartCycle (s : State) : State :=
  { s with
    cycle := 0
    adoptBy := s.adoptBy.map (fun n => n - s.cycle)
    launches := s.launches.map (fun (e : Nat × Launch) =>
      (e.1, { e.2 with entered := e.2.entered - s.cycle, placedAt := e.2.placedAt - s.cycle }))
    saved := s.saved.map (fun (x : Saved) => { x with savedAt := x.savedAt - s.cycle })
    clusters := s.clusters.map (fun (e : Nat × Cluster) =>
      (e.1, { e.2 with banks := [], lastLevel := none, mu := { e.2.mu with fillerEnd := 0, freeAt := 0 } }))
    cores := s.cores.map (fun (e : Nat × Core) => (e.1, { e.2 with lastCycle := none }))
    net := { s.net with links := s.net.links.map (fun (e : Nat × Link) =>
      (e.1, if e.1 < 32 then e.2 else { e.2 with lastSend := 0, lastArrival := s.time })) } }

/-- What outlives power: the step record, the lifecycle, the keys and their index, the nonces; and what was reported. -/
def HostSide.kept (h : HostSide) : HostSide :=
  { lifecycle := h.lifecycle, identityKey := h.identityKey, ownerKey := h.ownerKey, signIndex := h.signIndex
    noncesIssued := h.noncesIssued, noncesUsed := h.noncesUsed, steps := h.steps, reports := h.reports }

/-- The module enters P4 (R328): only what outlives power stays. The model's own fields go on. -/
def State.powerOff (s : State) : State :=
  { State.reset with host := { s.host.kept with power := .p4 }, agenda := s.agenda, fresh := s.fresh }

/-- SET_POWER_STATE (R324, R328): P3 only with no resident launch context and not under INTRUSIVE. -/
def execSetPowerState (state : PowerState) (s : State) : Host.Outcome State Fault Refusal :=
  if !s.managed then .next s
  else match state with
    | .p4 => .next (s.powerOff.carried "SET_POWER_STATE")
    | .p3 =>
      if s.anyResident then .next (s.rejected "SET_POWER_STATE" "a launch context is resident")
      else if s.host.debug = .intrusive then .next (s.rejected "SET_POWER_STATE" "debug is INTRUSIVE")
      else if s.host.power = .p3 then .next (s.carried "SET_POWER_STATE")
      else .next ({ s with host := { s.host with power := .p3, frozen := s.fresh }, fresh := s.fresh + 1 }.carried "SET_POWER_STATE")
    | p =>
      let t := if s.host.power = .p3 then s.restartCycle else s
      .next ({ t with host := { t.host with power := p } }.carried "SET_POWER_STATE")

/-- SET_POWER_CAP (R328). -/
def execSetPowerCap (watts : Nat) (s : State) : Host.Outcome State Fault Refusal :=
  if s.managed then .next ({ s with host := { s.host with cap := some watts } }.carried "SET_POWER_CAP") else .next s

/-- SET_RAMP_REGISTERS (R321, R329): the two RATE fields. -/
def execSetRampRegisters (up down : BitVec 16) (s : State) : Host.Outcome State Fault Refusal :=
  if s.managed then
    .next ({ s with rampUp := up.setWidth 64, rampDown := down.setWidth 64 }.carried "SET_RAMP_REGISTERS")
  else .next s

/-- A reading within the limits of R330. -/
def withinLimits (r : LimitReading) : Bool :=
  decide (44000 ≤ r.busbarVoltage) && decide (r.busbarVoltage ≤ 54000) && decide (r.busbarCurrent ≤ 800000) &&
  decide (17000 ≤ r.inletTemperature) && decide (r.inletTemperature ≤ 40000) && decide (60000 ≤ r.coolantFlow) &&
  decide (r.pressureDrop ≤ 1500)

/-- POWER_LIMIT_TRIP (R330): P4, and a report through SMBus. -/
def execPowerLimitTrip (reading : LimitReading) (s : State) : Host.Outcome State Fault Refusal :=
  if s.host.power = .p4 || withinLimits reading then .next s else .next (s.powerOff.report (.smbus reading))

/-! ### Lifecycle and debug (R323 to R325) -/

/-- The lifecycle state after another (R323). -/
def nextLifecycle : Lifecycle → Option Lifecycle
  | .manufacture => some .provisioned
  | .provisioned => some .secured
  | .secured => some .returned
  | .returned => none

/-- LIFECYCLE_MOVE (R323, R324): forward, signed, and not under INTRUSIVE. The debug level stays as it is, OBSERVE that was entered without
a token too: the spec ends it nowhere (the model's choice, log entry 58). -/
def execLifecycleMove (target : Lifecycle) (signature : List Byte) (s : State) : Host.Outcome State Fault Refusal :=
  if !s.managed then .next s
  else if nextLifecycle s.host.lifecycle ≠ some target then .next (s.rejected "LIFECYCLE_MOVE" "not the next state")
  else if s.host.debug = .intrusive then .next (s.rejected "LIFECYCLE_MOVE" "debug is INTRUSIVE")
  else if !moveSigned s.host.lifecycle target signature then .next (s.rejected "LIFECYCLE_MOVE" "the signature does not verify")
  else
    let h := { s.host with lifecycle := target }
    let h := match target with
      | .provisioned => { h with identityKey := true, signIndex := 0 }
      | .secured => { h with ownerKey := true }
      | .returned => { h with identityKey := false, ownerKey := false }
      | .manufacture => h
    .next ({ s with host := h }.carried "LIFECYCLE_MOVE")

/-- Entering this level in this lifecycle state requires a token (R324). -/
def tokenNeeded : Lifecycle → DebugLevel → Bool
  | .provisioned, .intrusive | .secured, .observe | .secured, .intrusive => true
  | _, _ => false

end Sys2Proof.Machine

namespace Sys2Proof
open Machine

/-- Codes of the lifecycle states and the debug levels in what is signed. -/
def Lifecycle.code : Lifecycle → Nat
  | .manufacture => 0 | .provisioned => 1 | .secured => 2 | .returned => 3
def DebugLevel.code : DebugLevel → Nat
  | .off => 0 | .observe => 1 | .intrusive => 2

/-- The bytes that a debug token binds, in the order in which R325 names them; the spec gives them no layout (log entry 57). -/
def DebugToken.bound (t : DebugToken) : List Byte :=
  natBytes 8 t.serial ++ natBytes 1 t.lifecycle.code ++ natBytes 1 t.level.code ++ natBytes 8 t.expiry ++ t.nonce

end Sys2Proof

namespace Sys2Proof.Machine

/-- The key that signs debug tokens: the owner key, or the release key before SECURED (R325). -/
def tokenKey : Lifecycle → List Byte
  | .manufacture | .provisioned => Config.releaseKey
  | .secured | .returned => Config.ownerKey

/-- The token is good for the level (R325). -/
def State.tokenGood (s : State) (level : DebugLevel) (t : DebugToken) : Bool :=
  hssVerify (tokenKey s.host.lifecycle) t.bound t.signature && t.serial == Config.serial && t.lifecycle == s.host.lifecycle && t.level == level &&
  decide (s.time < t.expiry) && (List.range s.host.noncesIssued).any (fun n => t.nonce == (Config.tokenNonce n).toList) &&
  !s.host.noncesUsed.contains t.nonce

/-- INTRUSIVE ends: every halted pip and matrix unit goes on (R324). -/
def State.endIntrusive (s : State) : State :=
  let free := fun (e : Nat × Pip) => (e.1, { e.2 with heldDebug := false, stepping := false })
  let wake := fun (e : Nat × Cluster) => (e.1, { e.2 with mu := { e.2.mu with halted := false, stepping := false } })
  { s with
    pips := s.pips.map free
    clusters := s.clusters.map wake
    saved := s.saved.map (fun (x : Saved) => { x with pips := x.pips.map free }) }

/-- A resident launch context ends and is reported as a launch fault (R324); the manual gives the report no cause, pip or
address. -/
def State.faultLaunch (s : State) (l : Launch) : State :=
  let n := s.fresh
  ({ s with fresh := n + 3 }.report
    (.launchFault l.id (Config.freeWord n) ((Config.freeWord (n + 1)).toNat % 256) (Config.freeWord (n + 2)))).endLaunch l

/-- Entry to INTRUSIVE in SECURED: scratchpads and session keys are zeroised, resident launch contexts end (R324), with the copies,
receipts and inboxes that hardware keeps in the scratchpads (R14). Of a saved context what has not been copied out of a
scratchpad is zeroised with it (R309). -/
def State.zeroise (s : State) : State :=
  let ls := (s.launches.filter (fun e => e.2.isResident)).map Prod.snd
  let s := ls.foldl State.faultLaunch s
  let rest := fun (x : Saved) (e : Nat × Cluster) =>
    (e.1, { e.2 with sp := e.2.sp.filter (fun b => decide (b.1 < mgetD x.copied e.1 0)) })
  { s with
    host := { s.host with sessionKeys := [] }
    net := { s.net with
      outstanding := s.net.outstanding.map (fun o => if endType o.packet.src = 0 then { o with retained := false } else o)
      receipts := s.net.receipts.filter (fun r => endType r.dst != 0) }
    clusters := s.clusters.map (fun (e : Nat × Cluster) => (e.1, { e.2 with sp := [], inbox := [] }))
    saved := s.saved.map (fun (x : Saved) => { x with clusters := x.clusters.map (rest x) }) }

/-- DEBUG_LEVEL_ENTER (R324, R325). -/
def execDebugLevelEnter (level : DebugLevel) (token : Option DebugToken) (s : State) : Host.Outcome State Fault Refusal :=
  if !s.managed then .next s
  else
    let needed := tokenNeeded s.host.lifecycle level
    if needed && !token.any (s.tokenGood level) then .next (s.rejected "DEBUG_LEVEL_ENTER" "no good token")
    else if level == .intrusive && s.host.power == .p3 then .next (s.rejected "DEBUG_LEVEL_ENTER" "the module is in P3")
    else
      let t := if s.host.debug = .intrusive ∧ level ≠ .intrusive then s.endIntrusive else s
      let t := if s.host.lifecycle = .secured ∧ level = .intrusive ∧ s.host.debug ≠ .intrusive then t.zeroise else t
      let used := match (if needed then token else none) with
        | some k => [k.nonce]
        | none => []
      .next ({ t with host := { t.host with
        debug := level, tokenExpiry := (if needed then token else none).map DebugToken.expiry
        noncesUsed := t.host.noncesUsed ++ used } }.carried "DEBUG_LEVEL_ENTER")

/-- DEBUG_TOKEN_EXPIRY (R324): the level that the token opened ends. -/
def execDebugTokenExpiry (s : State) : Host.Outcome State Fault Refusal :=
  match s.host.tokenExpiry with
  | some e =>
    if e ≤ s.time then
      let t := if s.host.debug = .intrusive then s.endIntrusive else s
      .next { t with host := { t.host with debug := .off, tokenExpiry := none } }
    else .next s
  | none => .next s

/-- DEBUG_HALT (R324): halting, stepping by one instruction or one bundle, and letting run. A pip that a launch fault holds, as BRK
without a handler leaves it, is taken up so (R354). -/
def execDebugHalt (unit : DebugUnit) (action : DebugAction) (s : State) : Host.Outcome State Fault Refusal :=
  if !s.managed then .next s
  else if s.host.debug ≠ .intrusive then .next (s.rejected "DEBUG_HALT" "debug is not INTRUSIVE")
  else match unit with
    | .pip slot =>
      match s.pip slot with
      | none => .next (s.rejected "DEBUG_HALT" "no pip")
      | some p =>
        let q := match action with
          | .halt => { p with heldDebug := true, heldFault := false, stepping := false }
          | .step => if p.heldDebug || p.heldFault then { p with heldDebug := false, heldFault := false, stepping := true } else p
          | .resume => { p with heldDebug := false, heldFault := false, stepping := false }
        .next ((s.setPip slot q).carried "DEBUG_HALT")
    | .matrix cl =>
      if 16384 ≤ cl then .next (s.rejected "DEBUG_HALT" "no cluster")
      else
        let m := (s.cluster cl).mu
        let m := match action with
          | .halt => { m with halted := true, stepping := false }
          | .step => if m.halted then { m with stepping := true } else m
          | .resume => { m with halted := false, stepping := false }
        .next ((s.setMu cl m).carried "DEBUG_HALT")

/-! ### Debug access to memory (R324), the hardware's own range of a scratchpad included (R14, R49, R282, R283) -/

/-- The first offset of the range that hardware alone uses, of the receipts, and of the inbox: 64 slots of 1,536 bytes (R14, R49). -/
def reservedFrom : Nat := 0x3E0000
def receiptsFrom : Nat := 0x3E6000
def inboxFrom : Nat := 0x3E8000

/-- Bytes that lie from `at_` on, with those that `data` covers from `off` on replaced. -/
def laidOver (at_ : Nat) (old : List Byte) (off : Nat) (data : List Byte) : List Byte :=
  old.zipIdx.map (fun e => if off ≤ at_ + e.2 ∧ at_ + e.2 < off + data.length then data.getD (at_ + e.2 - off) 0 else e.1)

end Sys2Proof.Machine

namespace Sys2Proof
open Machine

/-- A packet with its bytes from `at_` on replaced. -/
def Packet.overlaid (q : Packet) (at_ off : Nat) (data : List Byte) : Packet :=
  let bs := laidOver at_ q.bytes off data
  if bs = q.bytes then q else packetOf bs q.tag

end Sys2Proof

namespace Sys2Proof.Machine

/-- A program as debug finds it in the code memory: its bundles, then its index entries, as in its image (R182; log entry 57). -/
def Program.bytes (x : Program) : List Byte :=
  x.dict.flatMap (fun b => natBytes 48 b.toNat) ++ x.stream.flatMap (fun e => natBytes 2 e.toNat)

/-- A program with bytes from `off` on replaced. -/
def Program.overlaid (x : Program) (off : Nat) (data : List Byte) : Program :=
  let bs := laidOver 0 x.bytes off data
  { dict := (List.range x.dict.length).map (fun i => BitVec.ofNat 384 (fieldAt bs (48 * i) 48))
    stream := (List.range x.stream.length).map (fun i => BitVec.ofNat 16 (fieldAt bs (48 * x.dict.length + 2 * i) 2)) }

/-- The copies of a cluster's retry buffer, one after another in the order in which they were made, and the receipts after the
same manner: the spec places the two and gives neither a layout (log entry 57). -/
def copiesWith (src : Word) (off : Nat) (data : List Byte) : Nat → List Outstanding → List Outstanding
  | _, [] => []
  | at_, o :: os =>
    if o.retained && o.packet.src == src then
      { o with packet := o.packet.overlaid at_ off data } :: copiesWith src off data (at_ + o.packet.bytes.length) os
    else o :: copiesWith src off data at_ os
def receiptsWith (dst : Word) (off : Nat) (data : List Byte) : Nat → List Receipt → List Receipt
  | _, [] => []
  | at_, r :: rs =>
    if r.dst == dst then
      { r with response := r.response.overlaid at_ off data } :: receiptsWith dst off data (at_ + r.response.bytes.length) rs
    else r :: receiptsWith dst off data at_ rs

/-- What hardware keeps in the reserved range of a cluster, by where it lies: copies, receipts, migrants. -/
def State.reservedBytes (s : State) (cl : Nat) : List (Nat × List Byte) :=
  let from_ := fun (o : Nat) (bs : List (List Byte)) => [(o, bs.flatten)]
  from_ reservedFrom ((s.net.outstanding.filter (fun o => o.retained && o.packet.src == s.clusterAddr cl)).map (fun o => o.packet.bytes)) ++
  from_ receiptsFrom ((s.net.receipts.filter (fun r => r.dst == s.clusterAddr cl)).map (fun r => r.response.bytes)) ++
  (s.cluster cl).inbox.map (fun e => (inboxFrom + 1536 * e.1, e.2.bytes))

/-- A byte of a cluster's scratchpad as debug reads it. -/
def State.debugByte (s : State) (cl off : Nat) : Byte :=
  match (if off < reservedFrom then none else (s.reservedBytes cl).find? (fun e => decide (e.1 ≤ off) && decide (off < e.1 + e.2.length))) with
  | some (o, bs) => bs.getD (off - o) 0
  | none => readByte (s.cluster cl).sp off

/-- Bytes written to a cluster's scratchpad by debug: what hardware keeps there changes with them. -/
def State.debugWrite (s : State) (cl off : Nat) (data : List Byte) : State :=
  let c := s.cluster cl
  let inbox := c.inbox.map (fun (e : Nat × Migrant) => (e.1, { e.2 with bytes := laidOver (inboxFrom + 1536 * e.1) e.2.bytes off data }))
  let s := s.setCluster cl { c with sp := writeBytes c.sp off data, inbox := inbox }
  { s with net := { s.net with
    outstanding := copiesWith (s.clusterAddr cl) off data reservedFrom s.net.outstanding
    receipts := receiptsWith (s.clusterAddr cl) off data receiptsFrom s.net.receipts } }

/-- A byte of the save areas of step 11 (R309, R326). -/
def State.inSaveArea (s : State) (a : Nat) : Bool := decide (s.host.saveBase ≤ a) && decide (a < s.host.saveBase + s.host.saveSize)

/-- Bytes of HBM as debug reads them: within the save areas, whose layout the spec does not give, free ones but for those that debug
has written since a context was last saved (log entry 26). -/
def State.debugRead (s : State) (src : Word) (a n : Nat) : State × List Byte :=
  if runsOver a n s.host.saveBase s.host.saveSize then
    let (t, bs) := s.readLine src a n
    ({ t with fresh := t.fresh + n }, bs.zipIdx.map (fun e =>
      if t.inSaveArea (a + e.2) && (mget t.host.saveWritten (a + e.2)).isNone then Config.freeByte (t.fresh + e.2) else e.1))
  else s.readLine src a n

/-- A write of debug, noted where it lies in the save areas. -/
def State.debugWriteHome (s : State) (a : Nat) (bs : List Byte) : State :=
  let t := s.writeFrom a bs
  let there := (List.range bs.length).filter (fun i => t.inSaveArea (a + i))
  { t with host := { t.host with saveWritten := there.foldl (fun m i => mset m (a + i) ()) t.host.saveWritten } }

/-- DEBUG_MEMORY_ACCESS (R324): any memory. -/
def execDebugMemoryAccess (access : DebugAccess) (s : State) : Host.Outcome State Fault Refusal :=
  let missing := s.rejected "DEBUG_MEMORY_ACCESS" "no such memory"
  if !s.managed then .next s
  else if s.host.debug ≠ .intrusive then .next (s.rejected "DEBUG_MEMORY_ACCESS" "debug is not INTRUSIVE")
  else match access with
    | .readPhysical addr count =>
      if count = 0 ∨ !physical addr ∨ !physical (addr + count - 1) then .next missing
      else .next (s.reaching (.host (.debugMemoryAccess access)) (s.controllerAddr 0) (fun s =>
        let (t, bs) := s.readRuns State.debugRead (lineRuns count addr count)
        (t, fun t => t.report (.debugData bs))) id)
    | .writePhysical addr data =>
      if data = [] ∨ !physical addr ∨ !physical (addr + data.length - 1) then .next missing
      else
        let done := fun (t : State) => t.carried "DEBUG_MEMORY_ACCESS"
        .next (s.reaching (.host (.debugMemoryAccess access)) (s.controllerAddr 0) (fun s =>
          (s.writeRunsOf State.debugWriteHome (lineRuns data.length addr data.length) data, done)) done)
    | .readScratch cl offset count =>
      if count = 0 ∨ 16384 ≤ cl ∨ 2 ^ 22 < offset + count then .next missing
      else .next (s.report (.debugData ((List.range count).map (fun i => s.debugByte cl (offset + i)))))
    | .writeScratch cl offset data =>
      if data = [] ∨ 16384 ≤ cl ∨ 2 ^ 22 < offset + data.length then .next missing
      else .next ((s.debugWrite cl offset data).carried "DEBUG_MEMORY_ACCESS")
    | .readCode cl slot offset count =>
      match mget (s.cluster cl).mu.programs slot with
      | some x =>
        if count = 0 ∨ x.bytes.length < offset + count then .next missing
        else .next (s.report (.debugData ((x.bytes.drop offset).take count)))
      | none => .next missing
    | .writeCode cl slot offset data =>
      let c := s.cluster cl
      match mget c.mu.programs slot with
      | some x =>
        if data = [] ∨ x.bytes.length < offset + data.length then .next missing
        else
          .next ((s.setMu cl { c.mu with programs := mset c.mu.programs slot (x.overlaid offset data) }).carried "DEBUG_MEMORY_ACCESS")
      | none => .next missing

/-- DEBUG_READ_COUNTERS (R324): counters and trace under OBSERVE or INTRUSIVE; the spec does not say which there are, so each is one
free value. In P3 they are frozen. -/
def execDebugReadCounters (s : State) : Host.Outcome State Fault Refusal :=
  let answer := fun (n : Nat) => Report.counters [(Config.freeWord n).toNat] [Config.freeByte n]
  if !s.managed then .next s
  else if s.host.debug = .off then .next (s.rejected "DEBUG_READ_COUNTERS" "debug is OFF")
  else if s.host.power = .p3 then .next (s.report (answer s.host.frozen))
  else .next ({ s with fresh := s.fresh + 1 }.report (answer s.fresh))

/-- The digest of the step record (R325, R327). -/
def recordDigest (steps : Vector Word 16) : List Byte := sha256 (steps.toList.flatMap (fun e => natBytes 8 e.toNat))

/-- The bytes that an attestation report binds (R325), in the order in which the rule names them. -/
def State.attested (s : State) (nonce : List Byte) : List Byte :=
  nonce ++ natBytes 4 s.host.modid.toNat ++
  natBytes 1 s.host.lifecycle.code ++ natBytes 1 (DebugLevel.code s.host.debug) ++ s.host.firmware ++ recordDigest s.host.steps

/-- ATTESTATION_REQUEST (R323, R325): the one-time index is advanced before the signature leaves. -/
def execAttestationRequest (nonce : List Byte) (s : State) : Host.Outcome State Fault Refusal :=
  if !s.managed then .next s
  else if nonce.length ≠ 32 then .next (s.rejected "ATTESTATION_REQUEST" "the nonce has not 32 bytes")
  else if !s.host.identityKey ∨ (s.host.lifecycle ≠ .provisioned ∧ s.host.lifecycle ≠ .secured) then
    .next (s.rejected "ATTESTATION_REQUEST" "no identity")
  else if 2 ^ 30 ≤ s.host.signIndex then .next (s.rejected "ATTESTATION_REQUEST" "the indices are used up")
  else
    let n := s.host.signIndex
    let h := s.host
    .next ({ s with host := { h with signIndex := n + 1 } }.report
      (.attestation nonce h.modid h.lifecycle h.debug h.firmware (recordDigest h.steps)
        (identitySign n (s.attested nonce))))

/-! ### Start-up (R326, R327) -/

/-- STATE, ALT and STARTS of an entry of the step record (R327). -/
def stepState (e : Word) : Nat := fieldOf e 0 3
def stepAlt (e : Word) : Bool := e.getLsbD 3
def stepStarts (e : Word) : Nat := fieldOf e 16 16

/-- An entry of the step record. -/
def stepEntry (state : Nat) (alt : Bool) (code starts : Nat) : Word :=
  word (state + 8 * alt.toNat + 256 * (code % 256) + 65536 * min starts 65535)

/-- The steps with an alternate method. -/
def hasAlternate (n : Nat) : Bool := [3, 6, 7, 8, 12, 13].contains n

/-- The optional steps: 9 is mandatory after RETURNED. -/
def optionalStep (l : Lifecycle) (n : Nat) : Bool := n == 12 || n == 15 || (n == 9 && l != .returned)

/-- What a start does with a step, by its entry: skip it, or run it by its primary (false) or alternate (true) method. A
step without an alternate that has failed is treated as one that failed by its alternate. -/
inductive StepWay where
  | skip
  | run (alt : Bool)
  deriving DecidableEq, Repr

/-- The way of a step (R326). -/
def stepWay (l : Lifecycle) (n : Nat) (e : Word) : StepWay :=
  match stepState e with
  | 0 => .run false
  | 2 => .run (stepAlt e)
  | 4 => if optionalStep l n then .skip else .run (stepAlt e)
  | _ =>
    if stepAlt e || !hasAlternate n then (if optionalStep l n then .skip else .run (stepAlt e)) else .run true

/-- The entry that a start finds: one that was begun and not finished has failed with CODE 0xFF (R327). -/
def foundEntry (e : Word) : Word := if stepState e = 1 then stepEntry 3 (stepAlt e) 0xFF (stepStarts e) else e

end Sys2Proof.Machine

namespace Sys2Proof
open Machine

/-- The firmware that a lifecycle state accepts (R323), by signatures over the digest of the whole image (R325). -/
def FirmwareImage.accepted (x : FirmwareImage) (l : Lifecycle) : Bool :=
  let d := sha256 x.bytes
  match l with
  | .manufacture | .returned => hssVerify Config.manufacturingKey d x.signature
  | .provisioned => hssVerify Config.releaseKey d x.signature
  | .secured => hssVerify Config.releaseKey d x.signature && hssVerify Config.ownerKey d x.countersignature

/-- The image that step 3 verifies: its alternate is the backup image. -/
def StartPlan.imageFor (x : StartPlan) (alt : Bool) : FirmwareImage := if alt then x.backup else x.image

/-- A step fails on this start, with its code: as the plan has it, and step 3 where its image is not accepted. The spec gives that
code no value, so it is a free one. -/
def StartPlan.fails (x : StartPlan) (l : Lifecycle) (fresh n : Nat) (alt : Bool) : Option Byte :=
  match x.failures.find? (fun f => f.1 == n) with
  | some f => some f.2
  | none => if n = 3 && !(x.imageFor alt).accepted l then some (Config.freeByte fresh) else none

end Sys2Proof

namespace Sys2Proof.Machine

/-- How a start ends: ready, halted at a step, or cut off. -/
inductive StartEnd where
  | ready
  | halted (step : Nat)
  | cut
  deriving DecidableEq, Repr

/-- Run the steps n to 16: the record after them, and how the start ends. A step writes STATE = 1 before it begins, which is what a
start that is cut off leaves (R327). -/
def runSteps (x : StartPlan) (l : Lifecycle) (fresh : Nat) : Nat → Nat → Vector Word 16 → Vector Word 16 × StartEnd
  | 0, _, steps => (steps, .ready)
  | fuel + 1, n, steps =>
    if h : 1 ≤ n ∧ n ≤ 16 then
      let e := foundEntry steps[n - 1]
      let put := fun (y : Word) => steps.set (n - 1) y (by omega)
      match stepWay l n e with
      | .skip => runSteps x l fresh fuel (n + 1) (put (stepEntry 4 (stepAlt e) 0 (stepStarts e)))
      | .run alt =>
        let starts := stepStarts e + 1
        if x.cutOff = some n then (put (stepEntry 1 alt 0 starts), .cut)
        else match x.fails l fresh n alt with
          | some code =>
            let steps := put (stepEntry 3 alt code.toNat starts)
            if optionalStep l n then runSteps x l fresh fuel (n + 1) steps else (steps, .halted n)
          | none => runSteps x l fresh fuel (n + 1) (put (stepEntry 2 alt 0 starts))
    else (steps, .ready)

/-- A step has finished on this start. -/
def stepDone (steps : Vector Word 16) (n : Nat) : Bool := if h : 1 ≤ n ∧ n ≤ 16 then stepState steps[n - 1] == 2 else false

/-- The outcomes of the steps run, as reported (R321). -/
def outcomes (steps : Vector Word 16) (upTo : Nat) : List Report :=
  (steps.toList.zipIdx.filter (fun e => decide (e.2 < upTo))).map (fun e => .stepOutcome (e.2 + 1) e.1)

/-- A step finished by its alternate method on this start. -/
def stepByAlt (steps : Vector Word 16) (n : Nat) : Bool :=
  if h : 1 ≤ n ∧ n ≤ 16 then stepState steps[n - 1] == 2 && stepAlt steps[n - 1] else false

end Sys2Proof.Machine

namespace Sys2Proof
open Machine

/-- The ports that are dead after a start: every one where step 12 has not finished, else those that do not run on all 8 lanes (R271,
R326). -/
def StartPlan.deadPorts (x : StartPlan) (ran : Nat → Bool) : List Nat :=
  if ran 12 then (x.lanes.filter (fun e => decide (e.1 < 32) && e.2 != 8)).map Prod.fst else List.range 32

/-- The global time after a start (R295): the domain's reference where step 15 has found it, which the route master's module
keeps its own count for; else the module's own count. -/
def StartPlan.time (x : StartPlan) (ran : Nat → Bool) : Nat :=
  if ran 15 && x.routeMaster != x.modid then x.timeReference else 0

/-- The fabric after a start: the ports, those that live up from now on, and what step 14 receives. -/
def StartPlan.net (x : StartPlan) (ran : Nat → Bool) : Net :=
  let links := (List.range 32).map (fun q =>
    (q, if (x.deadPorts ran).contains q then ({ dead := true } : Link) else { lastSend := x.time ran, lastArrival := x.time ran }))
  if ran 14 then
    { State.reset.net with
      tables := x.tables.foldl (fun m e => mset m e.1 e.2) []
      routeMaster := x.routeMaster.toNat
      neighbours := x.neighbours.foldl (fun m e => mset m e.1 e.2) []
      links := links }
  else { State.reset.net with links := links }

/-- What the steps that have finished leave of the host side (R326): the firmware of step 3, the places of step 11, the MODID of step
14, synchronisation by step 15. -/
def StartPlan.host (x : StartPlan) (steps : Vector Word 16) (ran : Nat → Bool) (h : HostSide) : HostSide :=
  { h with
    firmware := if ran 3 then sha256 (x.imageFor (stepByAlt steps 3)).bytes else []
    astBase := if ran 11 then x.astBase else 0
    saveBase := if ran 11 then x.saveBase else 0
    saveSize := if ran 11 then x.saveSize else 0
    firmwareBase := if ran 11 then x.firmwareBase else 0
    firmwareSize := if ran 11 then x.firmwareSize else 0
    modid := if ran 14 then x.modid else 0
    synced := ran 15
    lastExchange := x.time ran
    lastTimeSent := x.time ran }

end Sys2Proof

namespace Sys2Proof.Machine

/-- The module after the steps below n of a start, whose record `h` holds: what each step that has finished leaves, stays. -/
def State.afterSteps (s : State) (x : StartPlan) (h : HostSide) (n : Nat) : State :=
  let ran := fun (k : Nat) => decide (k < n) && stepDone h.steps k
  { s with host := x.host h.steps ran h, time := x.time ran, net := x.net ran }

/-- START_UP (R326): from module reset or P4. Debug is OFF afterwards (R324). The steps are one transition: that no cycle and no
nanosecond passes between step 5, where the counts of R19 and R295 start, and READY is the model's choice, since the spec gives the
steps no duration (log entry 55). -/
def execStartUp (plan : StartPlan) (s : State) : Host.Outcome State Fault Refusal :=
  if (s.host.ready && s.host.power != .p4) || plan.astBase % 524288 != 0 || !escapesOk plan.tables then .next s
  else
    let (steps, ends) := runSteps plan s.host.lifecycle s.fresh 16 1 s.host.steps
    let kept := { s.host.kept with steps := steps, power := PowerState.p0 }
    let base : State := { State.reset with agenda := s.agenda, fresh := s.fresh + 1 }
    match ends with
    | .cut => .next { base with host := { kept with power := .p4 } }
    | .halted n =>
      let t := base.afterSteps plan { kept with haltedStep := some n } n
      .next (if 13 ≤ n then (outcomes steps n ++ [Report.halted n]).foldl State.report t else t.report (.alert n))
    | .ready =>
      let t := base.afterSteps plan { kept with ready := true } 17
      let t := (outcomes steps 16).foldl State.report t
      let t := if stepDone steps 15 then t else t.report .syncLost
      .next (t.report (.ready plan.astBase))

end Sys2Proof.Machine
end

