-- ==== Sys2Proof/Machine/Steer.lean ====
section
/-! DEFINITION. Steer registers and branches (R36 to R38, R355, R418) and the floating-point compare FCMP (R371). -/

namespace Sys2Proof.Machine

/-- FCMP (R371, R164): C of bd, from f32 operands in bits [31:0] or f64 operands; no flag, no flushing. -/
def execFcmp (c : BitVec 3) (f : Bit) (b a : Reg) (e : Reg4) (s : State) : Host.Outcome State Fault Refusal :=
  runPure (.fcmp c f b a e) { g := [a, b] } s (fun p q =>
    let t := if f = 1 then FType.f32 else FType.f64
    let v := fun (x : Word) => decodeF t (x.toNat % 2 ^ t.width)
    q.setSteer e.toNat { q.steer e.toNat with c := floatCond c.toNat (v (p.gv a)) (v (p.gv b)) })

/-- A steer register's target half is written (R36). -/
def Pip.aim (p : Pip) (e : Reg4) (t : Word) : Pip :=
  p.setSteer e.toNat { p.steer e.toNat with tv := true, t := t }

/-- Fetch at a target begins (R37, R409): the line enters the core's instruction cache, or is asked of another die; a fault is not
reported. -/
def State.fetchAhead (s : State) (p : Pip) (t : Word) : State := (s.fetchWord s.cur { p with pc := t }).1

/-- PREP (R37): T := PC + 4 × sext(imm20, 20). -/
def execPrep (i : BitVec 20) (e : Reg4) (s : State) : Host.Outcome State Fault Refusal :=
  runEntry (.prep i e) {} s (fun p q t =>
    let x := p.pc + 4 * i.signExtend 64
    .next ((t.fetchAhead p x).put (q.aim e x)))

/-- PREPR (R37): T := g[ra] + 4 × sext(imm12, 12), MISALIGNED unless it is a multiple of 4. -/
def execPrepr (i : BitVec 12) (a : Reg) (e : Reg4) (s : State) : Host.Outcome State Fault Refusal :=
  runEntry (.prepr i a e) { g := [a] } s (fun p q t =>
    let x := p.gv a + 4 * imm12 i
    if x.toNat % 4 != 0 then .trap .misaligned x else .next ((t.fetchAhead p x).put (q.aim e x)))

/-- BR (R38): kind 0 branches when C is 1, kind 1 when C is 0, kind 2 always. -/
def execBr (k : BitVec 2) (e : Reg4) (s : State) : Host.Outcome State Fault Refusal :=
  runEntry (.br k e) {} s (fun p q t =>
    let b := p.steer e.toNat
    if (k == 2) || (k == 0 && b.c) || (k == 1 && !b.c) then
      if b.tv then .next (t.put { q with pc := b.t }) else .trap .steerInvalid (e.setWidth 64)
    else .next (t.put q))

/-- CALL (R355): g1 := PC + 4; PC := T. -/
def execCall (e : Reg4) (s : State) : Host.Outcome State Fault Refusal :=
  runEntry (.call e) { gd := [1] } s (fun p q t =>
    let b := p.steer e.toNat
    if b.tv then .next (t.put { (q.setG 1 (p.pc + 4)) with pc := b.t }) else .trap .steerInvalid (e.setWidth 64))

/-- RET (R418): PC := g1, MISALIGNED unless it is a multiple of 4. -/
def execRet (s : State) : Host.Outcome State Fault Refusal :=
  runEntry .ret { g := [1] } s (fun p q t =>
    if (p.gv 1).toNat % 4 != 0 then .trap .misaligned (p.gv 1) else .next (t.put { q with pc := p.gv 1 }))

end Sys2Proof.Machine
end

