-- ==== Sys2Proof/Machine/Vector.lean ====
section
/-! DEFINITION. The vector instructions (R435 to R446): lanes, the arithmetic group of MAJ 0x68, and the others. -/

namespace Sys2Proof.Machine

/-! ### Lanes -/

/-- The floating-point type of a lane type (R169). -/
def laneFloat (t : Reg4) : Option FType :=
  match t.toNat with
  | 0 => some .f32 | 1 => some .f16 | 2 => some .bf16 | 11 => some .e4m3 | 12 => some .e5m2 | _ => none

/-- The lane type is a signed integer (R169). -/
def laneSigned (t : Reg4) : Bool := t == 3 || t == 4 || t == 5 || t == 9

/-- The lanes of a register, lane 0 first (R435). -/
def lanesOf (w : Nat) (x : VWord) : List Nat :=
  if w = 0 then [] else (List.range (512 / w)).map (fun i => x.toNat / 2 ^ (w * i) % 2 ^ w)

/-- The number whose lanes of `w` bits are these. -/
def packLanes (w : Nat) : List Nat → Nat
  | [] => 0
  | x :: xs => x % 2 ^ w + 2 ^ w * packLanes w xs

/-- The register whose leading lanes are these, zero after them. -/
def ofLanes (w : Nat) (xs : List Nat) : VWord := BitVec.ofNat 512 (packLanes w xs)

/-- The flags of every lane together (R435). -/
def allFlags (fs : List FFlags) : FFlags := fs.foldl FFlags.or {}

/-- Results with flags, as a register and the OR of the flags. -/
def joinLanes (w : Nat) (rs : List (Nat × FFlags)) : VWord × FFlags :=
  (ofLanes w (rs.map Prod.fst), allFlags (rs.map Prod.snd))

/-- Two registers lane by lane. -/
def zipLanes {α : Type} (w : Nat) (f : Nat → Nat → α) (a b : VWord) : List α := List.zipWith f (lanesOf w a) (lanesOf w b)

/-- A lane as a value, f32 subnormals flushed under FTZ. -/
def Pip.lane (p : Pip) (t : FType) (x : Nat) : Val := flushVal t p.ftz (decodeF t x)

/-- The operands of a V-format word with two sources. -/
def usesV (x y : Bit) (a b d : Reg4) : Uses := { v := [a, b], vs := syncV x a ++ syncV y b, vd := [d] }

/-! ### The arithmetic group -/

/-- A lane operation: `flt` on values, rounded once by RM, `int` on n-bit patterns (R435, R436). -/
def vecArith (i : Instr) (t : Reg4) (y x : Bit) (b a d : Reg4) (flt : Nat → Val → Val → Res)
    (int : Nat → Nat → Nat → Nat) (s : State) : Host.Outcome State Fault Refusal :=
  runPure i (usesV x y a b d) s (fun p q =>
    let w := laneWidth t
    match laneFloat t with
    | some f =>
      let (r, fl) := joinLanes w (zipLanes w
        (fun u v => (flt p.rm (p.lane f u) (p.lane f v)).round f p.rm false p.ftz) (p.vv a) (p.vv b))
      (q.setV d r).addFlags fl
    | none => q.setV d (ofLanes w (zipLanes w (int w) (p.vv a) (p.vv b))))

/-- VMAX and VMIN of two lanes (R436). -/
def minMaxLane (t : Reg4) (ftz max : Bool) (u v : Nat) : Nat :=
  match laneFloat t with
  | some f => minMaxF f ftz max u v
  | none =>
    if laneSigned t then (if max then maxS (laneWidth t) u v else minS (laneWidth t) u v)
    else if max then (if u < v then v else u) else (if v < u then v else u)

/-- VMAX and VMIN: no rounding, no flag. -/
def vecMinMax (i : Instr) (t : Reg4) (y x : Bit) (b a d : Reg4) (max : Bool) (s : State) :
    Host.Outcome State Fault Refusal :=
  runPure i (usesV x y a b d) s (fun p q =>
    q.setV d (ofLanes (laneWidth t) (zipLanes (laneWidth t) (minMaxLane t p.ftz max) (p.vv a) (p.vv b))))

/-- A full-bit-class operation on v registers: flags at issue (R29), result later. -/
def vecLater (i : Instr) (x : Bit) (a d : Reg4) (s : State) (f : Pip → VWord × FFlags) :
    Host.Outcome State Fault Refusal :=
  runEntry i { v := [a], vs := syncV x a, vd := [d], fullBit := true } s (fun p q t =>
    let (r, fl) := f p
    .next (t.put ((q.addFlags fl).issue { id := 0, kind := .pure, dest := .v d, born := s.cycle, phase := .done, result := r })))

/-- A unary function rounded to nearest in the lane type (R154, R436). -/
def vecFn (i : Instr) (t : Reg4) (x : Bit) (a d : Reg4) (fn : Val → Res) (s : State) : Host.Outcome State Fault Refusal :=
  vecLater i x a d s (fun p =>
    match laneFloat t with
    | some f => joinLanes (laneWidth t) ((lanesOf (laneWidth t) (p.vv a)).map (fun u =>
        (fn (p.lane f u)).round f 0 false p.ftz))
    | none => (0, {}))

/-- VADD (R436). -/
def execVadd (t : Reg4) (y : Bit) (b : Reg4) (x : Bit) (a d : Reg4) (s : State) : Host.Outcome State Fault Refusal :=
  vecArith (.vadd t y b x a d) t y x b a d (fun m a b => addVal a b m) (fun n a b => (a + b) % 2 ^ n) s

/-- VSUB (R436). -/
def execVsub (t : Reg4) (y : Bit) (b : Reg4) (x : Bit) (a d : Reg4) (s : State) : Host.Outcome State Fault Refusal :=
  vecArith (.vsub t y b x a d) t y x b a d (fun m a b => addVal a b.negate m) (fun n a b => (a + 2 ^ n - b) % 2 ^ n) s

/-- VMUL (R436). -/
def execVmul (t : Reg4) (y : Bit) (b : Reg4) (x : Bit) (a d : Reg4) (s : State) : Host.Outcome State Fault Refusal :=
  vecArith (.vmul t y b x a d) t y x b a d (fun _ a b => mulVal a b) (fun n a b => a * b % 2 ^ n) s

/-- VMAX (R436, R376). -/
def execVmax (t : Reg4) (y : Bit) (b : Reg4) (x : Bit) (a d : Reg4) (s : State) : Host.Outcome State Fault Refusal :=
  vecMinMax (.vmax t y b x a d) t y x b a d true s

/-- VMIN (R436, R376). -/
def execVmin (t : Reg4) (y : Bit) (b : Reg4) (x : Bit) (a d : Reg4) (s : State) : Host.Outcome State Fault Refusal :=
  vecMinMax (.vmin t y b x a d) t y x b a d false s

/-- VEXP (R436, R154). -/
def execVexp (t : Reg4) (x : Bit) (a d : Reg4) (s : State) : Host.Outcome State Fault Refusal :=
  vecFn (.vexp t x a d) t x a d exp2Val s

/-- VRCP (R436, R154). -/
def execVrcp (t : Reg4) (x : Bit) (a d : Reg4) (s : State) : Host.Outcome State Fault Refusal :=
  vecFn (.vrcp t x a d) t x a d recipVal s

/-- VRSQ (R436, R154). -/
def execVrsq (t : Reg4) (x : Bit) (a d : Reg4) (s : State) : Host.Outcome State Fault Refusal :=
  vecFn (.vrsq t x a d) t x a d rsqrtVal s

/-- An operation on all 512 bits, or on integer lanes only (R436). -/
def vecInt (i : Instr) (t : Reg4) (y x : Bit) (b a d : Reg4) (f : Nat → Nat → Nat → Nat) (s : State) :
    Host.Outcome State Fault Refusal :=
  runPure i (usesV x y a b d) s (fun p q =>
    q.setV d (ofLanes (laneWidth t) (zipLanes (laneWidth t) (f (laneWidth t)) (p.vv a) (p.vv b))))

/-- A bitwise operation on all 512 bits (R436). -/
def vecBits (i : Instr) (y x : Bit) (b a d : Reg4) (f : VWord → VWord → VWord) (s : State) :
    Host.Outcome State Fault Refusal :=
  runPure i (usesV x y a b d) s (fun p q => q.setV d (f (p.vv a) (p.vv b)))

/-- VBIT.and (R436). -/
def execVbitAnd (t : Reg4) (y : Bit) (b : Reg4) (x : Bit) (a d : Reg4) (s : State) : Host.Outcome State Fault Refusal :=
  vecBits (.vbitAnd t y b x a d) y x b a d (fun a b => a &&& b) s

/-- VBIT.or (R436). -/
def execVbitOr (t : Reg4) (y : Bit) (b : Reg4) (x : Bit) (a d : Reg4) (s : State) : Host.Outcome State Fault Refusal :=
  vecBits (.vbitOr t y b x a d) y x b a d (fun a b => a ||| b) s

/-- VBIT.xor (R436). -/
def execVbitXor (t : Reg4) (y : Bit) (b : Reg4) (x : Bit) (a d : Reg4) (s : State) : Host.Outcome State Fault Refusal :=
  vecBits (.vbitXor t y b x a d) y x b a d (fun a b => a ^^^ b) s

/-- VBIT.andn (R436). -/
def execVbitAndn (t : Reg4) (y : Bit) (b : Reg4) (x : Bit) (a d : Reg4) (s : State) : Host.Outcome State Fault Refusal :=
  vecBits (.vbitAndn t y b x a d) y x b a d (fun a b => a &&& ~~~b) s

/-- VSHF.l (R436). -/
def execVshfL (t : Reg4) (y : Bit) (b : Reg4) (x : Bit) (a d : Reg4) (s : State) : Host.Outcome State Fault Refusal :=
  vecInt (.vshfL t y b x a d) t y x b a d shlN s

/-- VSHF.r (R436). -/
def execVshfR (t : Reg4) (y : Bit) (b : Reg4) (x : Bit) (a d : Reg4) (s : State) : Host.Outcome State Fault Refusal :=
  vecInt (.vshfR t y b x a d) t y x b a d shrN s

/-- VSHF.ra (R436). -/
def execVshfRa (t : Reg4) (y : Bit) (b : Reg4) (x : Bit) (a d : Reg4) (s : State) : Host.Outcome State Fault Refusal :=
  vecInt (.vshfRa t y b x a d) t y x b a d sraN s

/-! ### The other vector instructions -/

/-- VFMA (R441): a × b + vd, rounded once. -/
def execVfma (t : Reg4) (y : Bit) (b : Reg4) (x : Bit) (a d : Reg4) (s : State) : Host.Outcome State Fault Refusal :=
  runPure (.vfma t y b x a d) { v := [a, b, d], vs := syncV x a ++ syncV y b, vd := [d] } s (fun p q =>
    match laneFloat t with
    | some f =>
      let w := laneWidth t
      let (r, fl) := joinLanes w (List.zipWith
        (fun (uv : Nat × Nat) c => (fmaVal (p.lane f uv.1) (p.lane f uv.2) (p.lane f c) p.rm).round f p.rm false p.ftz)
        (zipLanes w Prod.mk (p.vv a) (p.vv b)) (lanesOf w (p.vv d)))
      (q.setV d r).addFlags fl
    | none => q)

/-- A lane type as a type of conversions. -/
def laneScalar (t : Reg4) : ScalarType :=
  match laneFloat t with
  | some f => .flt f
  | none => .int (laneSigned t) (laneWidth t)

/-- VCVT (R440): `d` the destination type, `s` the source type, `u` saturate. To an integer it always saturates. -/
def execVcvt (u : Bit) (s d : Reg4) (x : Bit) (a v : Reg4) (st : State) : Host.Outcome State Fault Refusal :=
  runPure (.vcvt u s d x a v) { v := [a], vs := syncV x a, vd := [v] } st (fun p q =>
    let n := 512 / max (laneWidth s) (laneWidth d)
    let one := fun (k : Nat) => match laneScalar s, laneScalar d with
      | .int g m, .flt f => (exactOfInt (if g then sextInt k m else (k : Nat)) 0 false).round f p.rm (u == 1)
      | .flt f, .flt g => convertScalar (.flt f) (.flt g) k p.rm (u == 1) p.ftz
      | src, dst => convertScalar src dst k p.rm true p.ftz
    let (r, fl) := joinLanes (laneWidth d) (((lanesOf (laneWidth s) (p.vv a)).take n).map one)
    (q.setV v r).addFlags fl)

/-- The condition of VCMP in a lane (R438, R164). -/
def laneCond (t : Reg4) (c u v : Nat) : Bool :=
  match laneFloat t with
  | some f => floatCond c (decodeF f u) (decodeF f v)
  | none => intCond (laneWidth t) (if laneSigned t then c else if c = 2 then 4 else if c = 3 then 5 else c) u v

/-- VCMP (R438): C of bd, the OR of the lanes or their AND. -/
def execVcmp (l : Bit) (c : BitVec 3) (t : Reg4) (y : Bit) (b : Reg4) (x : Bit) (a e : Reg4) (s : State) :
    Host.Outcome State Fault Refusal :=
  runPure (.vcmp l c t y b x a e) { v := [a, b], vs := syncV x a ++ syncV y b } s (fun p q =>
    let rs := zipLanes (laneWidth t) (laneCond t c.toNat) (p.vv a) (p.vv b)
    q.setSteer e.toNat { q.steer e.toNat with c := if l = 1 then rs.all id else rs.any id })

/-- VSEL (R446). -/
def execVsel (m t : Reg4) (y : Bit) (b : Reg4) (x : Bit) (a d : Reg4) (s : State) : Host.Outcome State Fault Refusal :=
  runPure (.vsel m t y b x a d) { v := [a, b, m], vs := syncV x a ++ syncV y b, vd := [d] } s (fun p q =>
    let w := laneWidth t
    q.setV d (ofLanes w (List.zipWith (fun (uv : Nat × Nat) k => if k = 0 then uv.2 else uv.1)
      (zipLanes w Prod.mk (p.vv a) (p.vv b)) (lanesOf w (p.vv m)))))

/-- VPERM (R444). -/
def execVperm (t : Reg4) (y : Bit) (b : Reg4) (x : Bit) (a d : Reg4) (s : State) : Host.Outcome State Fault Refusal :=
  runPure (.vperm t y b x a d) (usesV x y a b d) s (fun p q =>
    let w := laneWidth t
    let xs := lanesOf w (p.vv a)
    q.setV d (ofLanes w ((lanesOf w (p.vv b)).map (fun i => xs.getD (i % xs.length) 0))))

/-- The exact sum of lanes before rounding (R445): an exact zero is −0 only when every lane is −0. -/
def sumLanes (vs : List Val) : Res :=
  if vs.any (· == .nan) then .nan false
  else if vs.any (· == .inf true) && vs.any (· == .inf false) then .nan true
  else if vs.any (· == .inf true) then .inf true false
  else if vs.any (· == .inf false) then .inf false false
  else
    let q : Int := vs.foldl (fun q v => match v with
      | .fin _ _ e => min q e
      | _ => q) 0
    .ex (exactOfInt (vs.foldl (fun k v => match v with
      | .fin s m e => k + scaled s m e q
      | _ => k) 0) q (vs.all Val.neg))

/-- VRED (R445): 0 add, 1 max, 2 min over every lane. -/
def execVred (o : BitVec 3) (t : Reg4) (x : Bit) (a d : Reg4) (s : State) : Host.Outcome State Fault Refusal :=
  vecLater (.vred o t x a d) x a d s (fun p =>
    let w := laneWidth t
    let xs := lanesOf w (p.vv a)
    if o = 0 then
      match laneFloat t with
      | some f => joinLanes w [(sumLanes (xs.map (p.lane f))).round f p.rm false p.ftz]
      | none => (ofLanes w [xs.sum % 2 ^ w], {})
    else (ofLanes w [xs.tail.foldl (minMaxLane t p.ftz (o == 1)) (xs.headD 0)], {}))

/-- Lane value `u` counts as larger than `v` (R442). -/
def laneAbove (t : Reg4) (u v : Nat) : Bool :=
  match laneFloat t with
  | some f =>
    if decodeF f v = .nan then false
    else if decodeF f u = .nan then true
    else lessF f v u
  | none => if laneSigned t then decide (sextInt v (laneWidth t) < sextInt u (laneWidth t)) else decide (v < u)

/-- The lowest lane that no lane is above: index and value, from index `i` with the best so far. -/
def largestLane (t : Reg4) : List Nat → Nat → Nat → Nat → Nat × Nat
  | [], _, j, v => (j, v)
  | u :: us, i, j, v => if laneAbove t u v then largestLane t us (i + 1) i u else largestLane t us (i + 1) j v

/-- VMAXI (R442). An f32 subnormal is read as a zero of its sign under FTZ (R133). Where the largest lane is a NaN, lane 0 takes its
encoding as it is: R442 writes lane L of va, R130 carries no payload from operands to results, and neither speaks of the other
(the model's choice, log entry 58). -/
def execVmaxi (t : Reg4) (y : Bit) (b : Reg4) (x : Bit) (a d : Reg4) (s : State) : Host.Outcome State Fault Refusal :=
  runPure (.vmaxi t y b x a d) (usesV x y a b d) s (fun p q =>
    let w := laneWidth t
    let xs := (lanesOf w (p.vv a)).map (flushBits (if t = 0 then .f32 else .f64) p.ftz)
    let (j, v) := largestLane t xs.tail 1 0 (xs.headD 0)
    q.setV d (ofLanes w [v, (lanesOf w (p.vv b)).getD j 0, j]))

/-- VBCAST (R437). -/
def execVbcast (t : Reg4) (g : Reg) (d : Reg4) (s : State) : Host.Outcome State Fault Refusal :=
  runPure (.vbcast t g d) { g := [g], vd := [d] } s (fun p q =>
    q.setV d (ofLanes (laneWidth t) (List.replicate (laneCount t) (p.gv g).toNat)))

/-- VMOV (R443): the whole register. -/
def execVmov (t : Reg4) (x : Bit) (a d : Reg4) (s : State) : Host.Outcome State Fault Refusal :=
  runPure (.vmov t x a d) { v := [a], vs := syncV x a, vd := [d] } s (fun p q => q.setV d (p.vv a))

/-- VMOV, insert a g register into a lane (R443). -/
def execVmovIns (t : Reg4) (l g : Reg) (d : Reg4) (s : State) : Host.Outcome State Fault Refusal :=
  runPure (.vmovIns t l g d) { g := [g], v := [d], vd := [d] } s (fun p q =>
    q.setV d (ofLanes (laneWidth t) ((lanesOf (laneWidth t) (p.vv d)).set l.toNat (p.gv g).toNat)))

/-- VMOV, extract a lane into a g register (R443). -/
def execVmovExt (t : Reg4) (l : Reg) (a : Reg4) (g : Reg) (s : State) : Host.Outcome State Fault Refusal :=
  runPure (.vmovExt t l a g) { v := [a], gd := [g] } s (fun p q =>
    let x := (lanesOf (laneWidth t) (p.vv a)).getD l.toNat 0
    q.setG g (if laneSigned t || t == 0 then sextWord x (laneWidth t) else word x))

/-- VCOMP (R439): the chosen lanes at the bottom, zero after them. -/
def execVcomp (t : Reg4) (y : Bit) (b : Reg4) (x : Bit) (a d : Reg4) (s : State) : Host.Outcome State Fault Refusal :=
  runPure (.vcomp t y b x a d) (usesV x y a b d) s (fun p q =>
    let w := laneWidth t
    q.setV d (ofLanes w ((zipLanes w Prod.mk (p.vv a) (p.vv b)).filterMap (fun uv => if uv.2 = 0 then none else some uv.1))))

end Sys2Proof.Machine
end

