-- ==== Sys2Proof/Machine/Dispatch.lean ====
section
/-! DEFINITION. The one place where an instruction meets its meaning: one arm per constructor. -/

namespace Sys2Proof.Machine

def exec (i : Instr) (s : State) : Host.Outcome State Fault Refusal :=
  match i with
  | .nop => Sys2Proof.Machine.execNop s
  | .add w y x b a d => Sys2Proof.Machine.execAdd w y x b a d s
  | .sub w y x b a d => Sys2Proof.Machine.execSub w y x b a d s
  | .mul w y x b a d => Sys2Proof.Machine.execMul w y x b a d s
  | .mulh w y x b a d => Sys2Proof.Machine.execMulh w y x b a d s
  | .mulhZ w y x b a d => Sys2Proof.Machine.execMulhZ w y x b a d s
  | .div w y x b a d => Sys2Proof.Machine.execDiv w y x b a d s
  | .divZ w y x b a d => Sys2Proof.Machine.execDivZ w y x b a d s
  | .rem w y x b a d => Sys2Proof.Machine.execRem w y x b a d s
  | .remZ w y x b a d => Sys2Proof.Machine.execRemZ w y x b a d s
  | .and w y x b a d => Sys2Proof.Machine.execAnd w y x b a d s
  | .or w y x b a d => Sys2Proof.Machine.execOr w y x b a d s
  | .xor w y x b a d => Sys2Proof.Machine.execXor w y x b a d s
  | .shl w y x b a d => Sys2Proof.Machine.execShl w y x b a d s
  | .shr w y x b a d => Sys2Proof.Machine.execShr w y x b a d s
  | .sra w y x b a d => Sys2Proof.Machine.execSra w y x b a d s
  | .rot w y x b a d => Sys2Proof.Machine.execRot w y x b a d s
  | .min w y x b a d => Sys2Proof.Machine.execMin w y x b a d s
  | .minZ w y x b a d => Sys2Proof.Machine.execMinZ w y x b a d s
  | .max w y x b a d => Sys2Proof.Machine.execMax w y x b a d s
  | .maxZ w y x b a d => Sys2Proof.Machine.execMaxZ w y x b a d s
  | .clz w x a d => Sys2Proof.Machine.execClz w x a d s
  | .ctz w x a d => Sys2Proof.Machine.execCtz w x a d s
  | .popc w x a d => Sys2Proof.Machine.execPopc w x a d s
  | .ext x k a d => Sys2Proof.Machine.execExt x k a d s
  | .hash w y x b a d => Sys2Proof.Machine.execHash w y x b a d s
  | .sel w y x n b a d => Sys2Proof.Machine.execSel w y x n b a d s
  | .addI w x im a d => Sys2Proof.Machine.execAddI w x im a d s
  | .andI w x im a d => Sys2Proof.Machine.execAndI w x im a d s
  | .orI w x im a d => Sys2Proof.Machine.execOrI w x im a d s
  | .xorI w x im a d => Sys2Proof.Machine.execXorI w x im a d s
  | .shlI w x im a d => Sys2Proof.Machine.execShlI w x im a d s
  | .shrI w x im a d => Sys2Proof.Machine.execShrI w x im a d s
  | .sraI w x im a d => Sys2Proof.Machine.execSraI w x im a d s
  | .rotI w x im a d => Sys2Proof.Machine.execRotI w x im a d s
  | .mulI w x im a d => Sys2Proof.Machine.execMulI w x im a d s
  | .bfx x l p a d => Sys2Proof.Machine.execBfx x l p a d s
  | .bfi x l p a d => Sys2Proof.Machine.execBfi x l p a d s
  | .li im d => Sys2Proof.Machine.execLi im d s
  | .lih h im d => Sys2Proof.Machine.execLih h im d s
  | .cmp c b a e => Sys2Proof.Machine.execCmp c b a e s
  | .cmpI c im a e => Sys2Proof.Machine.execCmpI c im a e s
  | .fcmp c f b a e => Sys2Proof.Machine.execFcmp c f b a e s
  | .prep im e => Sys2Proof.Machine.execPrep im e s
  | .prepr im a e => Sys2Proof.Machine.execPrepr im a e s
  | .br k e => Sys2Proof.Machine.execBr k e s
  | .call e => Sys2Proof.Machine.execCall e s
  | .ret => Sys2Proof.Machine.execRet s
  | .fadd w y x b a d => Sys2Proof.Machine.execFadd w y x b a d s
  | .fsub w y x b a d => Sys2Proof.Machine.execFsub w y x b a d s
  | .fmul w y x b a d => Sys2Proof.Machine.execFmul w y x b a d s
  | .fdiv w y x b a d => Sys2Proof.Machine.execFdiv w y x b a d s
  | .fsqrt w x a d => Sys2Proof.Machine.execFsqrt w x a d s
  | .fmin w y x b a d => Sys2Proof.Machine.execFmin w y x b a d s
  | .fmax w y x b a d => Sys2Proof.Machine.execFmax w y x b a d s
  | .fcvt w x sz r t a d => Sys2Proof.Machine.execFcvt w x sz r t a d s
  | .ffma w y x c b a d => Sys2Proof.Machine.execFfma w y x c b a d s
  | .ld x o sz c im a t => Sys2Proof.Machine.execLd x o sz c im a t s
  | .st x o sz c im a t => Sys2Proof.Machine.execSt x o sz c im a t s
  | .ldv x o c im a v => Sys2Proof.Machine.execLdv x o c im a v s
  | .stv x o c im a v => Sys2Proof.Machine.execStv x o c im a v s
  | .ldvx x o sz c j a v => Sys2Proof.Machine.execLdvx x o sz c j a v s
  | .stvx x o sz c j a v => Sys2Proof.Machine.execStvx x o sz c j a v s
  | .amo w r q c o b a d => Sys2Proof.Machine.execAmo w r q c o b a d s
  | .cas w r q c b a d => Sys2Proof.Machine.execCas w r q c b a d s
  | .red w y x o b a => Sys2Proof.Machine.execRed w y x o b a s
  | .fence k c => Sys2Proof.Machine.execFence k c s
  | .mark => Sys2Proof.Machine.execMark s
  | .pref x im a h => Sys2Proof.Machine.execPref x im a h s
  | .cpin x im a d => Sys2Proof.Machine.execCpin x im a d s
  | .cunpin x im a => Sys2Proof.Machine.execCunpin x im a s
  | .cflush x im a => Sys2Proof.Machine.execCflush x im a s
  | .ldl x j sz q im a t => Sys2Proof.Machine.execLdl x j sz q im a t s
  | .stl x j sz q im a t => Sys2Proof.Machine.execStl x j sz q im a t s
  | .ldlv x j q im a v => Sys2Proof.Machine.execLdlv x j q im a v s
  | .stlv x j q im a v => Sys2Proof.Machine.execStlv x j q im a v s
  | .amol w r q c o b a d => Sys2Proof.Machine.execAmol w r q c o b a d s
  | .popen y x b a d => Sys2Proof.Machine.execPopen y x b a d s
  | .seal x a d => Sys2Proof.Machine.execSeal x a d s
  | .pstat x w a d => Sys2Proof.Machine.execPstat x w a d s
  | .pfree x a d => Sys2Proof.Machine.execPfree x a d s
  | .preset y x b a => Sys2Proof.Machine.execPreset y x b a s
  | .bari y x b a => Sys2Proof.Machine.execBari y x b a s
  | .bara x a => Sys2Proof.Machine.execBara x a s
  | .barw a d => Sys2Proof.Machine.execBarw a d s
  | .waitge m c n b a d => Sys2Proof.Machine.execWaitge m c n b a d s
  | .sendr y x b a d => Sys2Proof.Machine.execSendr y x b a d s
  | .pause => Sys2Proof.Machine.execPause s
  | .fork a e => Sys2Proof.Machine.execFork a e s
  | .join a => Sys2Proof.Machine.execJoin a s
  | .done => Sys2Proof.Machine.execDone s
  | .launch a d => Sys2Proof.Machine.execLaunch a d s
  | .copy n a d => Sys2Proof.Machine.execCopy n a d s
  | .mcast n a d => Sys2Proof.Machine.execMcast n a d s
  | .gatherList a d => Sys2Proof.Machine.execGatherList a d s
  | .gatherSpr a d => Sys2Proof.Machine.execGatherSpr a d s
  | .scatterList a d => Sys2Proof.Machine.execScatterList a d s
  | .scatterSpr a d => Sys2Proof.Machine.execScatterSpr a d s
  | .mergeM0 a d => Sys2Proof.Machine.execMergeM0 a d s
  | .mergeM1 a d => Sys2Proof.Machine.execMergeM1 a d s
  | .mergeM2 a d => Sys2Proof.Machine.execMergeM2 a d s
  | .mergeM3 a d => Sys2Proof.Machine.execMergeM3 a d s
  | .mtask a d => Sys2Proof.Machine.execMtask a d s
  | .mload a d => Sys2Proof.Machine.execMload a d s
  | .tinvRange c a d => Sys2Proof.Machine.execTinvRange c a d s
  | .tinvAsid c a d => Sys2Proof.Machine.execTinvAsid c a d s
  | .tinvAll c a d => Sys2Proof.Machine.execTinvAll c a d s
  | .pgalloc a d => Sys2Proof.Machine.execPgalloc a d s
  | .pgfree a d => Sys2Proof.Machine.execPgfree a d s
  | .pgfork a d => Sys2Proof.Machine.execPgfork a d s
  | .pglook a d => Sys2Proof.Machine.execPglook a d s
  | .pgins a d => Sys2Proof.Machine.execPgins a d s
  | .pgshift a d => Sys2Proof.Machine.execPgshift a d s
  | .kvapp a d => Sys2Proof.Machine.execKvapp a d s
  | .kvld a d => Sys2Proof.Machine.execKvld a d s
  | .attn a d => Sys2Proof.Machine.execAttn a d s
  | .vadd t y b x a d => Sys2Proof.Machine.execVadd t y b x a d s
  | .vsub t y b x a d => Sys2Proof.Machine.execVsub t y b x a d s
  | .vmul t y b x a d => Sys2Proof.Machine.execVmul t y b x a d s
  | .vmax t y b x a d => Sys2Proof.Machine.execVmax t y b x a d s
  | .vmin t y b x a d => Sys2Proof.Machine.execVmin t y b x a d s
  | .vexp t x a d => Sys2Proof.Machine.execVexp t x a d s
  | .vrcp t x a d => Sys2Proof.Machine.execVrcp t x a d s
  | .vrsq t x a d => Sys2Proof.Machine.execVrsq t x a d s
  | .vbitAnd t y b x a d => Sys2Proof.Machine.execVbitAnd t y b x a d s
  | .vbitOr t y b x a d => Sys2Proof.Machine.execVbitOr t y b x a d s
  | .vbitXor t y b x a d => Sys2Proof.Machine.execVbitXor t y b x a d s
  | .vbitAndn t y b x a d => Sys2Proof.Machine.execVbitAndn t y b x a d s
  | .vshfL t y b x a d => Sys2Proof.Machine.execVshfL t y b x a d s
  | .vshfR t y b x a d => Sys2Proof.Machine.execVshfR t y b x a d s
  | .vshfRa t y b x a d => Sys2Proof.Machine.execVshfRa t y b x a d s
  | .vfma t y b x a d => Sys2Proof.Machine.execVfma t y b x a d s
  | .vcvt u sz d x a v => Sys2Proof.Machine.execVcvt u sz d x a v s
  | .vcmp l c t y b x a e => Sys2Proof.Machine.execVcmp l c t y b x a e s
  | .vsel m t y b x a d => Sys2Proof.Machine.execVsel m t y b x a d s
  | .vperm t y b x a d => Sys2Proof.Machine.execVperm t y b x a d s
  | .vred o t x a d => Sys2Proof.Machine.execVred o t x a d s
  | .vmaxi t y b x a d => Sys2Proof.Machine.execVmaxi t y b x a d s
  | .vbcast t g d => Sys2Proof.Machine.execVbcast t g d s
  | .vmov t x a d => Sys2Proof.Machine.execVmov t x a d s
  | .vmovIns t l g d => Sys2Proof.Machine.execVmovIns t l g d s
  | .vmovExt t l a g => Sys2Proof.Machine.execVmovExt t l a g s
  | .vcomp t y b x a d => Sys2Proof.Machine.execVcomp t y b x a d s
  | .ecall => Sys2Proof.Machine.execEcall s
  | .eret => Sys2Proof.Machine.execEret s
  | .brk => Sys2Proof.Machine.execBrk s
  | .wfi => Sys2Proof.Machine.execWfi s
  | .mfs n d => Sys2Proof.Machine.execMfs n d s
  | .mts x n a => Sys2Proof.Machine.execMts x n a s
  | .mtsSrStatus x a => Sys2Proof.Machine.execMtsSrStatus x a s
  | .mtsSrTcmp x a => Sys2Proof.Machine.execMtsSrTcmp x a s
  | .mtsSrTcause x a => Sys2Proof.Machine.execMtsSrTcause x a s
  | .mtsSrIpend x a => Sys2Proof.Machine.execMtsSrIpend x a s
  | .mtsSrAsid x a => Sys2Proof.Machine.execMtsSrAsid x a s
  | .mtsSrEngerr x a => Sys2Proof.Machine.execMtsSrEngerr x a s
  | .mtsSrLvlint x a => Sys2Proof.Machine.execMtsSrLvlint x a s
  | .mtsSrMucheck x a => Sys2Proof.Machine.execMtsSrMucheck x a s
  | .mtsSrPbound x a => Sys2Proof.Machine.execMtsSrPbound x a s
  | .mtsSrAge x a => Sys2Proof.Machine.execMtsSrAge x a s
  | .mtsSrPreemptwait x a => Sys2Proof.Machine.execMtsSrPreemptwait x a s
  | .mtsSrRampup x a => Sys2Proof.Machine.execMtsSrRampup x a s
  | .mtsSrRampdown x a => Sys2Proof.Machine.execMtsSrRampdown x a s
  | .fullBitResultWrite p op => Sys2Proof.Machine.execFullBitResultWrite p op s
  | .homeL2Access p op lines drops => Sys2Proof.Machine.execHomeL2Access p op lines drops s
  | .deferredFault p op => Sys2Proof.Machine.execDeferredFault p op s
  | .redMerge core line => Sys2Proof.Machine.execRedMerge core line s
  | .waitFullRead p op => Sys2Proof.Machine.execWaitFullRead p op s
  | .trapEntry p => Sys2Proof.Machine.execTrapEntry p s
  | .timer p => Sys2Proof.Machine.execTimer p s
  | .messagePost launch pipid value => Sys2Proof.Machine.execMessagePost launch pipid value s
  | .messageDeliver p => Sys2Proof.Machine.execMessageDeliver p s
  | .taskStart core => Sys2Proof.Machine.execTaskStart core s
  | .dequeLevelling cl => Sys2Proof.Machine.execDequeLevelling cl s
  | .migrationDepart p => Sys2Proof.Machine.execMigrationDepart p s
  | .migrantResume cl entry => Sys2Proof.Machine.execMigrantResume cl entry s
  | .engineCommandAccept p op => Sys2Proof.Machine.execEngineCommandAccept p op s
  | .engineCommandComplete e id => Sys2Proof.Machine.execEngineCommandComplete e id s
  | .engineHandoff e id => Sys2Proof.Machine.execEngineHandoff e id s
  | .mloadPerform cl => Sys2Proof.Machine.execMloadPerform cl s
  | .tinvComplete p op => Sys2Proof.Machine.execTinvComplete p op s
  | .podTimerExpiry cl pod => Sys2Proof.Machine.execPodTimerExpiry cl pod s
  | .sealSlot cl pod bank => Sys2Proof.Machine.execSealSlot cl pod bank s
  | .sealComplete cl pod => Sys2Proof.Machine.execSealComplete cl pod s
  | .taskDispatch cl => Sys2Proof.Machine.execTaskDispatch cl s
  | .matrixBundleIssue cl => Sys2Proof.Machine.execMatrixBundleIssue cl s
  | .muDelayedWrite cl => Sys2Proof.Machine.execMuDelayedWrite cl s
  | .tileLoadServiceEnd cl => Sys2Proof.Machine.execTileLoadServiceEnd cl s
  | .tileStoreServiceEnd cl => Sys2Proof.Machine.execTileStoreServiceEnd cl s
  | .tsigSignal cl => Sys2Proof.Machine.execTsigSignal cl s
  | .taskEnd cl => Sys2Proof.Machine.execTaskEnd cl s
  | .fillerMma cl => Sys2Proof.Machine.execFillerMma cl s
  | .hostLaunchSubmit controller job record => Sys2Proof.Machine.execHostLaunchSubmit controller job record s
  | .launchPlacement die launch units => Sys2Proof.Machine.execLaunchPlacement die launch units s
  | .aging die launch => Sys2Proof.Machine.execAging die launch s
  | .preemptionStart die launch => Sys2Proof.Machine.execPreemptionStart die launch s
  | .contextSave launch => Sys2Proof.Machine.execContextSave launch s
  | .contextResume launch => Sys2Proof.Machine.execContextResume launch s
  | .launchComplete launch => Sys2Proof.Machine.execLaunchComplete launch s
  | .rdReq packet => Sys2Proof.Machine.execRdReq packet s
  | .atReq packet => Sys2Proof.Machine.execAtReq packet s
  | .wrReq packet => Sys2Proof.Machine.execWrReq packet s
  | .mcwReq packet target => Sys2Proof.Machine.execMcwReq packet target s
  | .migReq packet => Sys2Proof.Machine.execMigReq packet s
  | .fwdReq packet => Sys2Proof.Machine.execFwdReq packet s
  | .ackResp packet => Sys2Proof.Machine.execAckResp packet s
  | .dataResp packet => Sys2Proof.Machine.execDataResp packet s
  | .refuseResp packet => Sys2Proof.Machine.execRefuseResp packet s
  | .mackResp packet => Sys2Proof.Machine.execMackResp packet s
  | .mrefResp packet => Sys2Proof.Machine.execMrefResp packet s
  | .confResp packet => Sys2Proof.Machine.execConfResp packet s
  | .unknownKindPacket packet => Sys2Proof.Machine.execUnknownKindPacket packet s
  | .linkFlitReceive link flit => Sys2Proof.Machine.execLinkFlitReceive link flit s
  | .idleFlit link => Sys2Proof.Machine.execIdleFlit link s
  | .linkDead link => Sys2Proof.Machine.execLinkDead link s
  | .routeChangeStart tables unreachable => Sys2Proof.Machine.execRouteChangeStart tables unreachable s
  | .routeTablesInstall router => Sys2Proof.Machine.execRouteTablesInstall router s
  | .flipBroadcast => Sys2Proof.Machine.execFlipBroadcast s
  | .flip node => Sys2Proof.Machine.execFlip node s
  | .routeVersionFree => Sys2Proof.Machine.execRouteVersionFree s
  | .timeSyncExchange reference within => Sys2Proof.Machine.execTimeSyncExchange reference within s
  | .timeSyncLoss => Sys2Proof.Machine.execTimeSyncLoss s
  | .staggerSubmit job epoch t0 interval => Sys2Proof.Machine.execStaggerSubmit job epoch t0 interval s
  | .stagger job epoch t0 interval => Sys2Proof.Machine.execStagger job epoch t0 interval s
  | .startGateOpen job => Sys2Proof.Machine.execStartGateOpen job s
  | .windowOpen window => Sys2Proof.Machine.execWindowOpen window s
  | .windowRead window offset count => Sys2Proof.Machine.execWindowRead window offset count s
  | .windowWrite window offset data => Sys2Proof.Machine.execWindowWrite window offset data s
  | .rankTableInstall job ownRank entries => Sys2Proof.Machine.execRankTableInstall job ownRank entries s
  | .readStepRecord => Sys2Proof.Machine.execReadStepRecord s
  | .clearStepEntry entry => Sys2Proof.Machine.execClearStepEntry entry s
  | .readAstBase => Sys2Proof.Machine.execReadAstBase s
  | .readRoutingTables => Sys2Proof.Machine.execReadRoutingTables s
  | .setPowerState state => Sys2Proof.Machine.execSetPowerState state s
  | .setPowerCap watts => Sys2Proof.Machine.execSetPowerCap watts s
  | .setRampRegisters up down => Sys2Proof.Machine.execSetRampRegisters up down s
  | .lifecycleMove target signature => Sys2Proof.Machine.execLifecycleMove target signature s
  | .debugLevelEnter level token => Sys2Proof.Machine.execDebugLevelEnter level token s
  | .debugTokenExpiry => Sys2Proof.Machine.execDebugTokenExpiry s
  | .debugHalt unit action => Sys2Proof.Machine.execDebugHalt unit action s
  | .debugMemoryAccess access => Sys2Proof.Machine.execDebugMemoryAccess access s
  | .debugReadCounters => Sys2Proof.Machine.execDebugReadCounters s
  | .attestationRequest nonce => Sys2Proof.Machine.execAttestationRequest nonce s
  | .powerLimitTrip reading => Sys2Proof.Machine.execPowerLimitTrip reading s
  | .startUp plan => Sys2Proof.Machine.execStartUp plan s
  | .nearLocalAccess p op => Sys2Proof.Machine.execNearLocalAccess p op s
  | .engineAccess e id piece => Sys2Proof.Machine.execEngineAccess e id piece s
  | .illegalInstruction word => Sys2Proof.Machine.execIllegalInstruction word s
  | .fetchFault => Sys2Proof.Machine.execFetchFault s
  | .firmwareLaunch controller job record => Sys2Proof.Machine.execFirmwareLaunch controller job record s
  | .launchRecordDelivery launch job home issuerMode record => Sys2Proof.Machine.execLaunchRecordDelivery launch job home issuerMode record s
  | .partCompleteReport launch rank discarded => Sys2Proof.Machine.execPartCompleteReport launch rank discarded s
  | .rankRelocation job rank modid moving epoch gate => Sys2Proof.Machine.execRankRelocation job rank modid moving epoch gate s

end Sys2Proof.Machine
end

