-- ==== Sys2Proof/Machine/Turns.lean ====
section
/-! DEFINITION. What the machine does without an instruction of its own: the clock, parked pips becoming ready, issue, the
events that fall due in a cycle, and the turns of the environment and the schedulers (R8, R19, R20, R28, R32, R60). -/

namespace Sys2Proof.Machine

/-! ### Parked pips (R31, R32) -/

/-- What a parked pip waits for has come about. -/
def State.unparks (s : State) (k : Nat) (p : Pip) : Park → Bool
  | .sources gs vs => gs.all p.gf && vs.all p.vf
  | .written gs vs => !gs.any p.gBusy && !vs.any p.vBusy
  | .slots => decide (p.fullBits < 16)
  | .target slot r => match s.pip slot with
    | some t => t.takes r
    | none => true
  | .release scope => s.released k p scope
  | .counter a => s.mayCount k p a
  | .drain => p.fullBits == 0
  | .migrate _ => false
  | .seal pod => !(s.cluster (k / 256)).sealing pod
  | .pause cycle => decide (cycle ≤ s.cycle) || p.eventPending
  | .wfi => p.eventPending
  | .join op => (p.op op).isNone
  | .replay op => s.replayOver k op

/-- A parked pip whose wait is over is ready. -/
def State.wake (s : State) (k : Nat) (p : Pip) : Pip :=
  match p.cond with
  | .parked why => if s.unparks k p why then { p with cond := .ready } else p
  | _ => p

/-- What a pip's status registers follow from cycle to cycle: TIMER is whether SR_TIME has reached SR_TCMP (R320, R400), and
a message is delivered once MESSAGE is clear (R314). What is raised for a pip in transit waits until it resumes (R48). -/
def State.refresh (s : State) (k : Nat) (p : Pip) : Pip :=
  if p.cond = .inTransit then p
  else (if p.tcmp.toNat ≤ s.timeAt (k / 256) then p.raise ipTimer else p.lower ipTimer).nextMessage

/-- Commands that have come to the heads of their store queues are marked with the cycle (R225). -/
def State.noteHeads (s : State) : State :=
  let mark := fun (k : Nat) (p : Pip) (o : Op) => match o.kind with
    | .command _ _ _ => if o.head.isNone && o.phase.atHead && s.canPerform k p o then { o with head := some s.cycle } else o
    | _ => o
  { s with pips := s.pips.map (fun (e : Nat × Pip) => (e.1, { e.2 with ops := e.2.ops.map (mark e.1 e.2) })) }

/-- The next cycle begins: operations that nothing holds back any longer are sent, pips become ready. -/
def State.tick (s : State) : State :=
  let s := { s with cycle := s.cycle + 1 }
  let s := { s with pips := s.pips.map (fun (e : Nat × Pip) => (e.1, s.refresh e.1 e.2)) }
  let s := ((s.pips.map Prod.fst).foldl State.settle s).noteHeads.sendAsks
  ({ s with pips := s.pips.map (fun (e : Nat × Pip) => (e.1, s.wake e.1 e.2)) }).adoptDue.reportDrained

/-! ### Issue (R28) -/

/-- The machine issues the instruction of a slot (R161), or its pip takes the event that is due (R313). A pip that debug steps is
halted again (R324). Where the instruction must first be asked of a home L2, it is asked for, and nothing issues. -/
def State.issueFrom (s : State) (slot : Nat) (p : Pip) : Host.Outcome State Fault Refusal :=
  if p.dueTrap.isSome then exec (.trapEntry slot) s
  else
    let core := slot / 16
    let v := s.setCore core { s.core core with lastSlot := some (slot % 16), lastCycle := some s.cycle }
    let q := { p with lastIssue := some s.cycle, heldDebug := p.stepping, stepping := false }
    let v := { v.setPip slot q with cur := slot }
    match v.fetchWord slot p with
    | (_, none) => .next (s.fetchWord slot p).1
    | (_, some (.error _)) => exec .fetchFault v
    | (t, some (.ok w)) => match decode w with
      | .ok i => exec i t
      | .error _ => exec (.illegalInstruction (BitVec.ofNat 32 w)) t

/-- A core's turn to issue, from the slot that round robin chooses. -/
def State.issue (s : State) (slot : Nat) : Host.Outcome State Fault Refusal :=
  if s.nextIssue (slot / 256) = some slot then
    match s.pip slot with
    | some p => s.issueFrom slot p
    | none => .next s
  else .next s

/-- The first slot that must still issue in this cycle. -/
def State.issueDue (s : State) : Option Nat :=
  s.pips.findSome? (fun e => s.nextIssue (e.1 / 256))

/-! ### Events that are due in the present cycle -/

/-- The matrix unit's events that are due (R201 to R204, R218, R219). -/
def State.matrixDue (s : State) (cl : Nat) (c : Cluster) : Option Instr :=
  match c.mu.run with
  | none => none
  | some r =>
    if r.writeDue s.cycle then
      match r.nextWrite s.cycle with
      | some w => some (if w.port then .tileLoadServiceEnd cl else .muDelayedWrite cl)
      | none => none
    else if r.saveDue s.cycle then some (.tileStoreServiceEnd cl)
    else if s.tsigDue cl then some (.tsigSignal cl)
    else if r.started && s.bundleDue cl then some (.matrixBundleIssue cl)
    else if s.taskEndDue cl then some (.taskEnd cl)
    else none

/-- A timed pod of a cluster has reached its deadline (R90). -/
def State.timerDue (s : State) (cl : Nat) (c : Cluster) (pod : Nat) (d : Pod) : Bool :=
  d.state == 1 && d.timed && decide (d.w1.toNat ≤ s.timeAt cl) && c.launch.isSome &&
  (match mget c.opened pod with
    | some n => decide (n < s.cycle)
    | none => true)

/-- The seals of a cluster whose completion is due, before the matrix unit issues (R92, R430), and those that have a slot (R91). -/
def State.sealEndDue (s : State) (cl : Nat) (c : Cluster) : Option Instr :=
  (c.seals.find? (fun x => x.over s.cycle)).map (fun x => .sealComplete cl x.pod)
def State.sealDue (s : State) (cl : Nat) (c : Cluster) : Option Instr :=
  c.seals.findSome? (fun x => (x.due.find? (s.sealReady cl x)).map (.sealSlot cl x.pod))

/-- A command has a seal point in a cluster of the module that is due (R234). -/
def Cmd.sealsNow (d : Cmd) (cycle : Nat) : Bool := d.kind.byAccess && (d.sealsDue d.total cycle).any (· != elsewhere)

/-- A command of a cluster's contexts whose seal point is due (R234). -/
def State.engineSealDue (s : State) (cl : Nat) (c : Cluster) : Option Instr :=
  let due := fun (e : EngineRef) (x : Ctx) => (x.queue.find? (fun d => d.sealsNow s.cycle)).map (fun d => Instr.engineCommandComplete e d.id)
  (c.copies.zipIdx.findSome? (fun x => due (.copy cl x.2) x.1)).or ((due (.gather cl) c.gather).or (due (.merge cl) c.merge))

/-- A migrant in an inbox resumes as soon as a slot is free (R47). -/
def State.migrantDue (s : State) (cl : Nat) (c : Cluster) : Option Instr :=
  if (List.range 256).all (fun n => (s.pip (256 * cl + n)).isSome) then none
  else (c.inbox.find? (fun e => s.takesMigrants cl e.2.launch && decide (e.2.notBefore ≤ s.timeAt cl))).map (fun e => .migrantResume cl e.1)

/-- The first event of a cluster that is due. -/
def State.clusterDue (s : State) (cl : Nat) (c : Cluster) : Option Instr :=
  (s.sealEndDue cl c).or ((s.matrixDue cl c).or ((s.sealDue cl c).or ((s.engineSealDue cl c).or
    (((c.pods.find? (fun e => s.timerDue cl c e.1 e.2 )).map (fun e => .podTimerExpiry cl e.1)).or
      ((s.migrantDue cl c).or ((s.taskDue cl).map .taskStart))))))

/-- The first event that is due in the present cycle or at the present time: none is passed over. -/
def State.eventDue (s : State) : Option Instr :=
  (s.clusters.findSome? (fun e => s.clusterDue e.1 e.2)).or
    (((s.nmas.findSome? (fun e => (e.2.queue.find? (fun d => d.sealsNow s.cycle)).map (fun d =>
        Instr.engineCommandComplete (.nma e.1) d.id))).or
      ((s.pips.find? (fun e => e.2.atBoundary && e.2.cond != .ready && e.2.dueTrap.isSome)).map (fun e => .trapEntry e.1))).or
    (((s.launches.find? (fun e => s.ages e.2.die e.2)).map (fun e => .aging e.2.die e.2.id)).or
      (((s.jobs.find? (fun e => e.2.gate.any (fun t => decide (t ≤ s.time)))).map (fun e => .startGateOpen e.1)).or
        (if s.host.tokenExpiry.any (fun t => decide (t ≤ s.time)) then some .debugTokenExpiry
         else if s.host.synced && decide (s.host.lastExchange + 10000000 ≤ s.time) then some .timeSyncLoss
         else s.net.links.findSome? (fun e => s.linkDue e.1 e.2)))))

/-! ### Turns -/

/-- The clock runs in P0, P1 and P2 (R19). -/
def State.clocked (s : State) : Bool := s.host.power != .p3 && s.host.power != .p4

/-- A packet at a die's router is dropped: it is old there, or queued for a link that is dead (R286, R287). -/
def State.lose (s : State) (n : Nat) : State :=
  match mget s.net.packets n, mget s.net.transit n with
  | some q, some { spot := .router die _, .. } =>
    if s.discards die n q || s.net.links.any (fun e => e.2.dead && s.queuedFor n q e.1) then s.losePacket n q else s
  | _, _ => s

/-- A BARW of this module has read a barrier in another (R350, R351). -/
def State.phaseRead (s : State) (slot op phase : Nat) : State :=
  match s.requestOf slot op with
  | some o => if s.here o.packet.dst || o.completed || 256 ≤ phase then s else s.foundPhase slot op phase
  | none => s

/-- Another module withdraws a waiting operation of a stopped pip at its target (R308). -/
def State.withdrawn (s : State) (slot op : Nat) : State :=
  match s.pip slot with
  | none => s
  | some p =>
    match p.op op, s.requestOf slot op with
    | some o, some q =>
      if p.heldPreempt && o.phase == .sent && s.waitingOp o && !q.completed && !s.here q.packet.dst then s.withdraw slot o else s
    | _, _ => s

/-- The saved contexts and the launches of a rank that moves here (R291 step 3). -/
def State.moveIn (s : State) (contexts : List Saved) (launches : List Launch) : State :=
  launches.foldl (fun (s : State) l => if (s.launch l.id).isSome then s else s.setLaunch l) { s with saved := s.saved ++ contexts }

/-- A packet is of a job: control packets, recalls, and what agents of the module read and write for themselves are of none. -/
def Packet.ofJob (q : Packet) (job : Nat) : Bool := q.job == job && q.kind != 0x18 && !q.work.ofModule

/-- A job ends (R289): its launches, and its packets, copies and receipts with it. -/
def State.endJob (s : State) (job : Nat) : State :=
  let s := ((s.launches.filter (fun e => e.2.job == job)).map Prod.snd).foldl State.endLaunch s
  let s := { s with net := { s.net with
    outstanding := s.net.outstanding.filter (fun o => !Packet.ofJob o.packet job)
    receipts := s.net.receipts.filter (fun x => !Packet.ofJob x.response job)
    tinvs := s.net.tinvs.filter (fun x => x.job != job) } }
  (s.net.packets.filter (fun e => Packet.ofJob e.2 job)).foldl (fun (s : State) e => s.dropPacket e.1) s

/-- How far time may go at once: no live port stays silent for more than 53 ns (R281), and time packets go out every 1 ms (R295). -/
def State.timeLimit (s : State) (ns : Nat) : Nat :=
  s.net.links.foldl (fun n e => if e.1 < 32 ∧ e.2.dead = false then min n (e.2.lastSend + 53 - s.time) else n)
    (if s.host.ready then min ns (s.host.lastTimeSent + 1000000 - s.time) else ns)

/-- Global time advances; a cluster whose reading runs ahead may gain less, and no reading decreases (R20, R295). -/
def State.advanceTime (s : State) (ns : Nat) (less : List (Nat × Nat)) : State :=
  let skew := less.foldl (fun m e => mset m e.1 (mgetD s.skew e.1 0 - min e.2 ns)) s.skew
  { s with time := s.time + ns, skew := skew }

/-- A core has issued in the present cycle: until the next cycle the readings of global time stay as they are, so that a
pod whose deadline comes has its seal point before any store of the cycle (R88, R90; log entry 55). -/
def State.cycleBegun (s : State) : Bool := s.cores.any (fun e => e.2.lastCycle == some s.cycle)

/-- The levelling that closes the present cycle (R45, R377). -/
def State.levellingDue (s : State) : Option Instr :=
  (s.clusters.find? (fun e => s.levelDue e.1)).map (fun e => .dequeLevelling e.1)

/-- The messages that come with a migrant from another module wait for it in the inbox (R314). -/
def State.takeMessages (s : State) (cl entry : Nat) (values : List Word) : State :=
  let c := s.cluster cl
  match mget c.inbox entry with
  | some m => s.setCluster cl { c with inbox := mset c.inbox entry { m with messages := (values ++ m.messages).take 16 } }
  | none => s

end Sys2Proof.Machine

namespace Sys2Proof

/-- What may happen by a turn of its own: an event. An instruction's word is executed by a pip that issues it, and so are the two
events of a fetch that brings none (R28, R161). -/
def Instr.inTurn (i : Instr) : Bool :=
  match i with
  | .fetchFault | .illegalInstruction _ => false
  | i => i.encode.isNone

/-- An event that takes bank slots, or that the matrix unit's own events of the cycle precede. -/
def Instr.usesSlots (i : Instr) : Bool :=
  match i with
  | .nearLocalAccess _ _ | .waitFullRead _ _ | .engineAccess _ _ _ | .rdReq _ | .atReq _ | .wrReq _ | .mcwReq _ _ | .fwdReq _
  | .taskDispatch _ | .matrixBundleIssue _ | .mloadPerform _ => true
  | _ => false

end Sys2Proof

namespace Sys2Proof.Machine

/-- An agent that no event of its own moves goes on: a prefetch, a request through the port. -/
def State.goOn (s : State) (id : Nat) : Host.Outcome State Fault Refusal :=
  match s.net.asks.find? (fun a => a.id == id) with
  | none => .next s
  | some a => match a.who with
    | .pref core asid mode x toL1 => .next (s.goPref core asid mode x toL1)
    | .host i => if i.inTurn then exec i s else .next s
    | _ => .next s

/-- What a turn does that nothing in the present cycle comes before. -/
def State.turn (s : State) : Turn → Host.Outcome State Fault Refusal
  | .tick => match s.issueDue with
    | some slot => s.issue slot
    | none => match s.levellingDue with
      | some i => exec i s
      | none => .next (if s.clocked then s.tick else s)
  | .time ns less => .next (if s.clocked && s.cycleBegun then s else (s.advanceTime (s.timeLimit ns) less).sendTimes)
  | .issue slot => s.issue slot
  | .event i => if i.inTurn then exec i s else .next s
  | .adopt die => .next (s.adopt die)
  | .memoryError pline bad => .next { s with bad := if bad then mset s.bad pline () else merase s.bad pline }
  | .skew cl ns => .next (if mgetD s.skew cl 0 ≤ ns ∧ ns ≤ 8 then { s with skew := mset s.skew cl ns } else s)
  | .control n => .next (s.control n)
  | .hop n link v => .next (s.hop n link v)
  | .lose n => .next (s.lose n)
  | .goOn id => s.goOn id
  | .launchOver launch => .next (s.launchOver launch)
  | .moveIn cs ls => .next (s.moveIn cs ls)
  | .withdrawn slot op => .next (s.withdrawn slot op)
  | .endJob job => .next (s.endJob job)
  | .phaseRead slot op phase => .next (s.phaseRead slot op phase)
  | .news launch pipid x => .next (s.tellPip launch pipid x)
  | .tinvArrives job modid mode record => .next (s.tinvArrives job modid mode record)
  | .tinvOver index => .next (s.tinvOver index)
  | .tinvAnswered slot op modid => .next (s.tinvAnswered slot op modid)
  | .takeMessages cl entry values => .next (s.takeMessages cl entry values)
  | .nonce => .next (if !s.managed then s else { s with host := { s.host with noncesIssued := s.host.noncesIssued + 1 } }.report
      (.nonceIssued (Config.tokenNonce s.host.noncesIssued).toList))
  | .dropTranslation die i =>
    let l := mgetD s.tlbs die []
    .next (if (l[i]?).any (fun t => !s.keptByTinv die t) then { s with tlbs := mset s.tlbs die (dropAt l [i]) } else s)
  | .dropLine core i => .next (s.setCore core { s.core core with lines := dropAt (s.core core).lines [i] })

/-- Time, the clock, issue and what takes bank slots come after every event that is due: so a seal that begins in a cycle has its
slots before any other engine traffic of the cycle (R78, R91). -/
def Turn.ordered : Turn → Bool
  | .tick | .time _ _ | .issue _ => true
  | .event i => i.usesSlots
  | _ => false

/-- A module that is off only starts (R328). -/
def Turn.starts : Turn → Bool
  | .event (.startUp _) => true
  | _ => false

/-- A turn is taken; an event that is due comes before the clock, time, issue and accesses. -/
def State.take (s : State) (t : Turn) : Host.Outcome State Fault Refusal :=
  if s.host.power == .p4 && !t.starts then .next s
  else if t.ordered then
    match s.eventDue with
    | some i => exec i s
    | none => s.turn t
  else s.turn t

/-! ### The model's own scheduler, for when no turn has been chosen -/

/-- The events of a pip's operations. -/
def opEvents (k : Nat) (p : Pip) : List Instr :=
  p.ops.flatMap (fun o => match o.phase with
    | .done => [Instr.fullBitResultWrite k o.id]
    | .accepted _ => [.tinvComplete k o.id]
    | .waiting | .fetching _ _ =>
      if o.kind.isGlobal then [.homeL2Access k o.id [] [], .deferredFault k o.id]
      else match o.kind with
        | .command _ _ _ | .tinv _ _ => [.engineCommandAccept k o.id]
        | .waitge _ _ => [.fullBitResultWrite k o.id]
        | x => if x.waitFull then [.waitFullRead k o.id] else [.nearLocalAccess k o.id]
    | _ => [])

/-- The events of a context's commands. -/
def contextEvents (e : EngineRef) (x : Ctx) : List Instr :=
  x.queue.flatMap (fun d => (List.range 8).map (fun i => Instr.engineAccess e d.id (d.next + i)) ++
    [.engineCommandComplete e d.id, .engineHandoff e d.id])

/-- The events of a cluster. -/
def clusterEvents (cl : Nat) (c : Cluster) : List Instr :=
  (if c.mu.table.isEmpty then [] else [Instr.taskDispatch cl]) ++
  (if c.mu.run.isSome then [Instr.matrixBundleIssue cl] else []) ++
  (if c.matrix.queue.isEmpty then [] else [Instr.mloadPerform cl]) ++
  (c.copies.zipIdx.flatMap (fun x => contextEvents (.copy cl x.2) x.1)) ++ contextEvents (.gather cl) c.gather ++
  contextEvents (.merge cl) c.merge

/-- The events of a packet that has reached its end in this module. -/
def packetEvents (n : Nat) (q : Packet) : List Instr :=
  match q.kind.toNat with
  | 0x01 => [.rdReq n]
  | 0x02 => [.atReq n]
  | 0x03 => [.wrReq n]
  | 0x04 => q.targets.map (.mcwReq n)
  | 0x05 => [.migReq n]
  | 0x08 => [.fwdReq n]
  | 0x10 => [.ackResp n]
  | 0x11 => [.dataResp n]
  | 0x12 => [.refuseResp n]
  | 0x13 => [.mackResp n]
  | 0x14 => [.mrefResp n]
  | 0x15 => [.confResp n]
  | 0x18 => match q.work with
    | .control (.tables _ _) => [.routeTablesInstall (dieOf q.dst)]
    | .control (.flip _) => [.flip (dieOf q.dst)]
    | .control (.time count) => [.timeSyncExchange count 0]
    | .control (.stagger job epoch t0 interval) => [.stagger job epoch t0 interval]
    | _ => []
  | _ => [.unknownKindPacket n]

/-- An agent's access waits for what it has asked of home L2s. -/
def State.waitsAsk (s : State) (who : Asker) : Bool :=
  s.net.asks.any (fun a => a.who == who && (if a.closing then !a.over else !s.askReady a))

/-- The moves that the model's own scheduler chooses: agents that go on, and packets to the end of the escape route, and up to a die
controller. -/
def State.moves (s : State) : List Turn :=
  (s.net.asks.filter (fun a => !s.waitsAsk a.who)).map (fun a => .goOn a.id) ++ s.net.packets.filterMap (fun e => match s.nextHop e.1 e.2 with
    | some (l, v) => some (.hop e.1 l v)
    | none => if e.2.kind.toNat = 0x18 then some (.control e.1) else none)

/-- The events of a launch. -/
def launchEvents (l : Launch) : List Instr :=
  match l.phase with
  | .queued => [.launchPlacement l.die l.id [], .preemptionStart l.die l.id]
  | .saved => [.contextResume l.id, .preemptionStart l.die l.id, .launchComplete l.id]
  | .stopping => [.contextSave l.id]
  | .resident | .partDone => [.launchComplete l.id]

/-- An event would only try again what waits for what its agent has asked. -/
def State.asksStill (s : State) : Instr → Bool
  | .homeL2Access k n _ _ | .deferredFault k n | .engineCommandAccept k n => s.waitsAsk (.op k n)
  | .engineAccess e n k => s.waitsAsk (.engine e n k)
  | .launchComplete id => s.waitsAsk (.launch id)
  | _ => false

/-- The events that may have an effect now. -/
def State.candidates (s : State) : List Instr :=
  List.filter (fun i => !s.asksStill i) <|
  s.net.packets.flatMap (fun e => packetEvents e.1 e.2) ++ s.net.links.filterMap (fun e => s.flitUnderWay e.1 e.2) ++
  (if s.net.change.isSome then [.flipBroadcast, .routeVersionFree] else []) ++
  s.pips.flatMap (fun e => opEvents e.1 e.2 ++ (match e.2.cond with
    | .parked (.migrate _) => [.migrationDepart e.1]
    | _ => [])) ++
  s.clusters.flatMap (fun e => clusterEvents e.1 e.2) ++
  s.nmas.flatMap (fun e => contextEvents (.nma e.1) e.2) ++
  s.cores.flatMap (fun e => (List.range e.2.reds.length).map (.redMerge e.1)) ++
  s.launches.flatMap (fun e => launchEvents e.2)

/-- The first candidate that changes the state. -/
def State.firstEffect (s : State) : List Instr → Option (Host.Outcome State Fault Refusal)
  | [] => none
  | i :: is => match exec i s with
    | .next t => if t = s then s.firstEffect is else some (.next t)
    | x => some x

/-- The first move of a packet that changes the state. -/
def State.firstMove (s : State) : List Turn → Option (Host.Outcome State Fault Refusal)
  | [] => none
  | m :: ms => match s.turn m with
    | .next t => if t = s then s.firstMove ms else some (.next t)
    | x => some x

/-- With no turn chosen: what is due, then what may have an effect, then the issue of instructions, then the next cycle, with
five nanoseconds to six cycles. -/
def State.auto (s : State) : Host.Outcome State Fault Refusal :=
  if !s.clocked then .next s
  else match s.eventDue with
    | some i => exec i s
    | none => match s.firstEffect s.candidates with
      | some x => x
      | none => match s.firstMove s.moves with
      | some x => x
      | none => match s.issueDue with
        | some slot => s.issue slot
        | none => match s.levellingDue with
        | some i => exec i s
        | none => .next (if s.cycle % 6 = 5 then s.tick else (s.tick.advanceTime 1 []).sendTimes)

/-! ### A program for one step -/

/-- Where `withFetchWord` puts its page tables and its word: the root and level-1 tables, and the 1 GiB page that virtual
address 0 falls into. -/
def fetchRoot : Nat := 0x80000
def fetchTable : Nat := 0x90000
def fetchPage : Nat := 0x40000000

/-- The launch under which the word runs: a pip alone in cluster 0, in mode S. -/
def fetchLaunch : Launch where
  id := 1
  job := 0
  record :=
    { levels := [⟨0, 1, 0xFFFFFFFF⟩], prio := 0, flags := 1, asid := 0, entry := 0x1000, args := 0, spres := 0x100000
      podBytes := 0x80000, podDesc := 256, pinQuota := 0, doneAddr := 0, doneVal := 0 }
  phase := .resident
  device := false
  die := 0
  entryHeld := false
  prio := 0
  entered := 0
  home := 0
  clusters := [0]

/-- Place a word and a pip that fetches it in the next step. -/
def State.placeWord (s : State) (w : Nat) : State :=
  let hbm := writeBytes s.hbm s.host.astBase (natBytes 8 (1 + fetchRoot))
  let hbm := writeBytes hbm fetchRoot (natBytes 8 (1 + fetchTable))
  let hbm := writeBytes hbm fetchTable (natBytes 8 (0x3F + fetchPage))
  let hbm := writeBytes hbm (fetchPage + 0x1000) (natBytes 4 w)
  { s with
    hbm := hbm
    tlbs := mset s.tlbs 0 []
    jobs := mset s.jobs 0 { ranks := [(0, word (s.host.modid.toNat + 2 ^ 20))] }
    launches := mset s.launches 1 { fetchLaunch with home := s.host.modid.toNat }
    clusters := mset s.clusters 0 (({} : Cluster).start fetchLaunch)
    cores := mset s.cores 0 {}
    pips := mset s.pips 0 (fetchLaunch.newPip [0])
    agenda := .issue 0 :: s.agenda }

end Sys2Proof.Machine
end

