-- ==== Sys2Proof/Machine/Step.lean ====
section
/-! DEFINITION. One step of the machine, and the placing of an instruction for the next step. -/

namespace Sys2Proof.Machine

/-- One step: the next turn that has been chosen, or the model's own scheduler's. -/
def step (s : State) : Host.Outcome State Fault Refusal :=
  match s.agenda with
  | t :: ts => { s with agenda := ts }.take t
  | [] => s.auto

/-- The state with an instruction word where the next step fetches: a program comes to run by a launch, and this stands for
one (log entry 14). Every instruction has 32 bits. -/
def State.withFetchWord (s : State) (nbits w : Nat) : State := s.placeWord (w % 2 ^ nbits)

end Sys2Proof.Machine
end

