-- ==== Sys2Proof/Safety.lean ====
section
/-! DEFINITION. What counts as a safe run, and the terms in which claims about the machine are made: the registers an
instruction names, when it completes, what its effect leaves alone, and the invariants. -/

namespace Sys2Proof

open Sys2Proof.Machine

/-! ### The instructions by what they name and change -/

/-- The registers that an instruction of a pip names, from its entry in chapters 13 to 18, for a pip `p` (POPEN reads
g[B] only when bit 61 of g[A] is 1, R407); an event of the opcode table names none. -/
def Instr.uses (i : Instr) (p : Pip) : Option Uses :=
  match i with
  | .nop => some {}
  | .add _ y x b a d => some (usesR x y a b d)
  | .sub _ y x b a d => some (usesR x y a b d)
  | .mul _ y x b a d => some (usesR x y a b d)
  | .mulh _ y x b a d => some (usesR x y a b d)
  | .mulhZ _ y x b a d => some (usesR x y a b d)
  | .div _ y x b a d => some { usesR x y a b d with fullBit := true }
  | .divZ _ y x b a d => some { usesR x y a b d with fullBit := true }
  | .rem _ y x b a d => some { usesR x y a b d with fullBit := true }
  | .remZ _ y x b a d => some { usesR x y a b d with fullBit := true }
  | .and _ y x b a d => some (usesR x y a b d)
  | .or _ y x b a d => some (usesR x y a b d)
  | .xor _ y x b a d => some (usesR x y a b d)
  | .shl _ y x b a d => some (usesR x y a b d)
  | .shr _ y x b a d => some (usesR x y a b d)
  | .sra _ y x b a d => some (usesR x y a b d)
  | .rot _ y x b a d => some (usesR x y a b d)
  | .min _ y x b a d => some (usesR x y a b d)
  | .minZ _ y x b a d => some (usesR x y a b d)
  | .max _ y x b a d => some (usesR x y a b d)
  | .maxZ _ y x b a d => some (usesR x y a b d)
  | .clz _ x a d => some (usesA x a d)
  | .ctz _ x a d => some (usesA x a d)
  | .popc _ x a d => some (usesA x a d)
  | .ext x _ a d => some (usesA x a d)
  | .hash _ y x b a d => some (usesR x y a b d)
  | .sel _ y x _ b a d => some (usesR x y a b d)
  | .addI _ x _ a d => some (usesA x a d)
  | .andI _ x _ a d => some (usesA x a d)
  | .orI _ x _ a d => some (usesA x a d)
  | .xorI _ x _ a d => some (usesA x a d)
  | .shlI _ x _ a d => some (usesA x a d)
  | .shrI _ x _ a d => some (usesA x a d)
  | .sraI _ x _ a d => some (usesA x a d)
  | .rotI _ x _ a d => some (usesA x a d)
  | .mulI _ x _ a d => some (usesA x a d)
  | .bfx x _ _ a d => some (usesA x a d)
  | .bfi x _ _ a d => some { g := [a, d], gs := syncG x a, gd := [d] }
  | .li _ d => some { gd := [d] }
  | .lih _ _ d => some { g := [d], gd := [d] }
  | .cmp _ b a _ => some { g := [a, b] }
  | .cmpI _ _ a _ => some { g := [a] }
  | .fcmp _ _ b a _ => some { g := [a, b] }
  | .prep _ _ => some {}
  | .prepr _ a _ => some { g := [a] }
  | .br _ _ => some {}
  | .call _ => some { gd := [1] }
  | .ret => some { g := [1] }
  | .fadd _ y x b a d => some (usesR x y a b d)
  | .fsub _ y x b a d => some (usesR x y a b d)
  | .fmul _ y x b a d => some (usesR x y a b d)
  | .fdiv _ y x b a d => some { usesR x y a b d with fullBit := true }
  | .fsqrt _ x a d => some { usesA x a d with fullBit := true }
  | .fmin _ y x b a d => some (usesR x y a b d)
  | .fmax _ y x b a d => some (usesR x y a b d)
  | .fcvt _ x _ _ _ a d => some (usesA x a d)
  | .ffma _ y x c b a d => some { g := [a, b, c], gs := syncG x a ++ syncG y b, gd := [d] }
  | .ld x _ _ _ _ a t => some { g := [a], gs := syncG x a, gd := [t], fullBit := true }
  | .st x _ _ _ _ a t => some { g := [a, t], gs := syncG x a }
  | .ldv x _ _ _ a v => some { g := [a], gs := syncG x a, vd := [v], fullBit := true }
  | .stv x _ _ _ a v => some { g := [a], v := [v], gs := syncG x a }
  | .ldvx x _ _ _ j a v => some { g := [a], v := [j], gs := syncG x a, vd := [v], fullBit := true }
  | .stvx x _ _ _ j a v => some { g := [a], v := [j, v], gs := syncG x a }
  | .amo _ _ _ _ _ b a d => some { g := [a, b], gd := [d], fullBit := true }
  | .cas _ _ _ _ b a d => some { g := [a, b, d], gd := [d], fullBit := true }
  | .red _ y x _ b a => some { g := [a, b], gs := syncG x a ++ syncG y b }
  | .fence _ _ => some {}
  | .mark => some {}
  | .pref x _ a _ => some { g := [a], gs := syncG x a }
  | .cpin x _ a d => some { g := [a], gs := syncG x a, gd := [d], fullBit := true }
  | .cunpin x _ a => some { g := [a], gs := syncG x a }
  | .cflush x _ a => some { g := [a], gs := syncG x a }
  | .ldl x _ _ _ _ a t => some { g := [a], gs := syncG x a, gd := [t], fullBit := true }
  | .stl x _ _ _ _ a t => some { g := [a, t], gs := syncG x a }
  | .ldlv x _ _ _ a v => some { g := [a], gs := syncG x a, vd := [v], fullBit := true }
  | .stlv x _ _ _ a v => some { g := [a], v := [v], gs := syncG x a }
  | .amol _ _ _ _ _ b a d => some { g := [a, b], gd := [d], fullBit := true }
  | .popen y x b a d => some (if p.gf a && (p.gv a).getLsbD 61 then usesR x y a b d else usesA x a d)
  | .seal x a d => some (usesA x a d)
  | .pstat x _ a d => some (usesA x a d)
  | .pfree x a d => some (usesA x a d)
  | .preset y x b a => some { g := [a, b], gs := syncG x a ++ syncG y b }
  | .bari y x b a => some { g := [a, b], gs := syncG x a ++ syncG y b }
  | .bara x a => some { g := [a], gs := syncG x a }
  | .barw a d => some { g := [a], gd := [d], fullBit := true }
  | .waitge _ _ _ b a d => some { g := [a, b], gd := [d], fullBit := true }
  | .sendr y x b a _ => some { g := [a, b], gs := syncG x a ++ syncG y b }
  | .fork a _ => some { g := [a, 4, 5, 6, 7] }
  | .join a => some { g := [a] }
  | .launch a d => some { g := [a], gd := [d], fullBit := true }
  | .copy _ a d => some { g := [a], gd := [d], fullBit := true }
  | .mcast _ a d => some { g := [a], gd := [d], fullBit := true }
  | .gatherList a d => some { g := [a], gd := [d], fullBit := true }
  | .gatherSpr a d => some { g := [a], gd := [d], fullBit := true }
  | .scatterList a d => some { g := [a], gd := [d], fullBit := true }
  | .scatterSpr a d => some { g := [a], gd := [d], fullBit := true }
  | .mergeM0 a d => some { g := [a], gd := [d], fullBit := true }
  | .mergeM1 a d => some { g := [a], gd := [d], fullBit := true }
  | .mergeM2 a d => some { g := [a], gd := [d], fullBit := true }
  | .mergeM3 a d => some { g := [a], gd := [d], fullBit := true }
  | .mtask a d => some { g := [a], gd := [d], fullBit := true }
  | .mload a d => some { g := [a], gd := [d], fullBit := true }
  | .tinvRange _ a d => some { g := [a], gd := [d], fullBit := true, priv := true }
  | .tinvAsid _ a d => some { g := [a], gd := [d], fullBit := true, priv := true }
  | .tinvAll _ a d => some { g := [a], gd := [d], fullBit := true, priv := true }
  | .pgalloc a d => some { g := [a], gd := [d], fullBit := true }
  | .pgfree a d => some { g := [a], gd := [d], fullBit := true }
  | .pgfork a d => some { g := [a], gd := [d], fullBit := true }
  | .pglook a d => some { g := [a], gd := [d], fullBit := true }
  | .pgins a d => some { g := [a], gd := [d], fullBit := true }
  | .pgshift a d => some { g := [a], gd := [d], fullBit := true }
  | .kvapp a d => some { g := [a], gd := [d], fullBit := true }
  | .kvld a d => some { g := [a], gd := [d], fullBit := true }
  | .attn a d => some { g := [a], gd := [d], fullBit := true }
  | .vadd _ y b x a d => some (usesV x y a b d)
  | .vsub _ y b x a d => some (usesV x y a b d)
  | .vmul _ y b x a d => some (usesV x y a b d)
  | .vmax _ y b x a d => some (usesV x y a b d)
  | .vmin _ y b x a d => some (usesV x y a b d)
  | .vexp _ x a d => some { v := [a], vs := syncV x a, vd := [d], fullBit := true }
  | .vrcp _ x a d => some { v := [a], vs := syncV x a, vd := [d], fullBit := true }
  | .vrsq _ x a d => some { v := [a], vs := syncV x a, vd := [d], fullBit := true }
  | .vbitAnd _ y b x a d => some (usesV x y a b d)
  | .vbitOr _ y b x a d => some (usesV x y a b d)
  | .vbitXor _ y b x a d => some (usesV x y a b d)
  | .vbitAndn _ y b x a d => some (usesV x y a b d)
  | .vshfL _ y b x a d => some (usesV x y a b d)
  | .vshfR _ y b x a d => some (usesV x y a b d)
  | .vshfRa _ y b x a d => some (usesV x y a b d)
  | .vfma _ y b x a d => some { v := [a, b, d], vs := syncV x a ++ syncV y b, vd := [d] }
  | .vcvt _ _ _ x a v => some { v := [a], vs := syncV x a, vd := [v] }
  | .vcmp _ _ _ y b x a _ => some { v := [a, b], vs := syncV x a ++ syncV y b }
  | .vsel m _ y b x a d => some { v := [a, b, m], vs := syncV x a ++ syncV y b, vd := [d] }
  | .vperm _ y b x a d => some (usesV x y a b d)
  | .vred _ _ x a d => some { v := [a], vs := syncV x a, vd := [d], fullBit := true }
  | .vmaxi _ y b x a d => some (usesV x y a b d)
  | .vbcast _ g d => some { g := [g], vd := [d] }
  | .vmov _ x a d => some { v := [a], vs := syncV x a, vd := [d] }
  | .vmovIns _ _ g d => some { g := [g], v := [d], vd := [d] }
  | .vmovExt _ _ a g => some { v := [a], gd := [g] }
  | .vcomp _ y b x a d => some (usesV x y a b d)
  | .mfs n d => some { gd := [d], priv := noneInU n.toNat }
  | .mts x n a => some { g := [a], gs := syncG x a, priv := !writableInU n.toNat }
  | .mtsSrStatus x a => some { g := [a], gs := syncG x a }
  | .mtsSrTcmp x a => some { g := [a], gs := syncG x a }
  | .mtsSrTcause x a => some { g := [a], gs := syncG x a, priv := true }
  | .mtsSrIpend x a => some { g := [a], gs := syncG x a, priv := true }
  | .mtsSrAsid x a => some { g := [a], gs := syncG x a, priv := true }
  | .mtsSrEngerr x a => some { g := [a], gs := syncG x a }
  | .mtsSrLvlint x a => some { g := [a], gs := syncG x a, priv := true }
  | .mtsSrMucheck x a => some { g := [a], gs := syncG x a }
  | .mtsSrPbound x a => some { g := [a], gs := syncG x a, priv := true }
  | .mtsSrAge x a => some { g := [a], gs := syncG x a, priv := true }
  | .mtsSrPreemptwait x a => some { g := [a], gs := syncG x a, priv := true }
  | .mtsSrRampup x a => some { g := [a], gs := syncG x a, priv := true }
  | .mtsSrRampdown x a => some { g := [a], gs := syncG x a, priv := true }
  | .done => some {}
  | .ecall => some {}
  | .brk => some {}
  | .eret => some { priv := true }
  | .wfi => some { priv := true }
  | .pause => some {}
  | .fullBitResultWrite _ _ | .homeL2Access _ _ _ _ | .deferredFault _ _ | .redMerge _ _ | .waitFullRead _ _
  | .trapEntry _ | .timer _ | .messagePost _ _ _ | .messageDeliver _ | .taskStart _
  | .dequeLevelling _ | .migrationDepart _ | .migrantResume _ _ | .engineCommandAccept _ _ | .engineCommandComplete _ _
  | .engineHandoff _ _ | .mloadPerform _ | .tinvComplete _ _ | .podTimerExpiry _ _ | .sealSlot _ _ _
  | .sealComplete _ _ | .taskDispatch _ | .matrixBundleIssue _ | .muDelayedWrite _ | .tileLoadServiceEnd _
  | .tileStoreServiceEnd _ | .tsigSignal _ | .taskEnd _ | .fillerMma _ | .hostLaunchSubmit _ _ _
  | .launchPlacement _ _ _ | .aging _ _ | .preemptionStart _ _ | .contextSave _ | .contextResume _
  | .launchComplete _ | .rdReq _ | .atReq _ | .wrReq _ | .mcwReq _ _
  | .migReq _ | .fwdReq _ | .ackResp _ | .dataResp _ | .refuseResp _
  | .mackResp _ | .mrefResp _ | .confResp _ | .unknownKindPacket _ | .linkFlitReceive _ _
  | .idleFlit _ | .linkDead _ | .routeChangeStart _ _ | .routeTablesInstall _ | .flip _
  | .timeSyncExchange _ _ | .staggerSubmit _ _ _ _ | .stagger _ _ _ _ | .startGateOpen _ | .windowOpen _
  | .windowRead _ _ _ | .windowWrite _ _ _ | .rankTableInstall _ _ _ | .clearStepEntry _ | .setPowerState _
  | .setPowerCap _ | .setRampRegisters _ _ | .lifecycleMove _ _ | .debugLevelEnter _ _ | .debugHalt _ _
  | .debugMemoryAccess _ | .attestationRequest _ | .powerLimitTrip _ | .startUp _ | .nearLocalAccess _ _
  | .engineAccess _ _ _ | .illegalInstruction _ | .firmwareLaunch _ _ _ | .launchRecordDelivery _ _ _ _ _ | .partCompleteReport _ _ _
  | .rankRelocation _ _ _ _ _ _ | .fetchFault | .flipBroadcast | .routeVersionFree | .timeSyncLoss
  | .readStepRecord | .readAstBase | .readRoutingTables | .debugTokenExpiry | .debugReadCounters => none

/-- Instructions that only write general and v registers: integer, moves, FMIN and FMAX, and vectors without rounding. -/
def Instr.plain : Instr → Bool
  | .nop | .add _ _ _ _ _ _ | .sub _ _ _ _ _ _ | .mul _ _ _ _ _ _ | .mulh _ _ _ _ _ _ | .mulhZ _ _ _ _ _ _
  | .and _ _ _ _ _ _ | .or _ _ _ _ _ _ | .xor _ _ _ _ _ _ | .shl _ _ _ _ _ _ | .shr _ _ _ _ _ _ | .sra _ _ _ _ _ _
  | .rot _ _ _ _ _ _ | .min _ _ _ _ _ _ | .minZ _ _ _ _ _ _ | .max _ _ _ _ _ _ | .maxZ _ _ _ _ _ _ | .clz _ _ _ _
  | .ctz _ _ _ _ | .popc _ _ _ _ | .ext _ _ _ _ | .hash _ _ _ _ _ _ | .sel _ _ _ _ _ _ _ | .addI _ _ _ _ _
  | .andI _ _ _ _ _ | .orI _ _ _ _ _ | .xorI _ _ _ _ _ | .shlI _ _ _ _ _ | .shrI _ _ _ _ _ | .sraI _ _ _ _ _
  | .rotI _ _ _ _ _ | .mulI _ _ _ _ _ | .bfx _ _ _ _ _ | .bfi _ _ _ _ _ | .li _ _ | .lih _ _ _ | .fmin _ _ _ _ _ _
  | .fmax _ _ _ _ _ _ | .vmax _ _ _ _ _ _ | .vmin _ _ _ _ _ _ | .vbitAnd _ _ _ _ _ _ | .vbitOr _ _ _ _ _ _
  | .vbitXor _ _ _ _ _ _ | .vbitAndn _ _ _ _ _ _ | .vshfL _ _ _ _ _ _ | .vshfR _ _ _ _ _ _ | .vshfRa _ _ _ _ _ _
  | .vsel _ _ _ _ _ _ _ | .vperm _ _ _ _ _ _ | .vmaxi _ _ _ _ _ _ | .vbcast _ _ _ | .vmov _ _ _ _ | .vmovIns _ _ _ _
  | .vmovExt _ _ _ _ | .vcomp _ _ _ _ _ _ => true
  | _ => false

/-- Instructions that round, write one register at issue and raise flags (on integer lanes they raise none). -/
def Instr.rounding : Instr → Bool
  | .fadd _ _ _ _ _ _ | .fsub _ _ _ _ _ _ | .fmul _ _ _ _ _ _ | .fcvt _ _ _ _ _ _ _ | .ffma _ _ _ _ _ _ _
  | .vadd _ _ _ _ _ _ | .vsub _ _ _ _ _ _ | .vmul _ _ _ _ _ _ | .vfma _ _ _ _ _ _ | .vcvt _ _ _ _ _ _ => true
  | _ => false

/-- Instructions of the full-bit class that compute (R364, R369, R417, R435). -/
def Instr.later : Instr → Bool
  | .div _ _ _ _ _ _ | .divZ _ _ _ _ _ _ | .rem _ _ _ _ _ _ | .remZ _ _ _ _ _ _ | .fdiv _ _ _ _ _ _ | .fsqrt _ _ _ _
  | .vexp _ _ _ _ | .vrcp _ _ _ _ | .vrsq _ _ _ _ | .vred _ _ _ _ _ => true
  | _ => false

/-- Instructions whose effect at issue is an operation in the queues of the pip: accesses to memory, fences, waits and commands. -/
def Instr.access : Instr → Bool
  | .ld _ _ _ _ _ _ _ | .st _ _ _ _ _ _ _ | .ldv _ _ _ _ _ _ | .stv _ _ _ _ _ _ | .ldvx _ _ _ _ _ _ _
  | .stvx _ _ _ _ _ _ _ | .amo _ _ _ _ _ _ _ _ | .cas _ _ _ _ _ _ _ | .red _ _ _ _ _ _ | .fence _ _ | .mark
  | .cpin _ _ _ _ | .cunpin _ _ _ | .cflush _ _ _ | .ldl _ _ _ _ _ _ _ | .stl _ _ _ _ _ _ _ | .ldlv _ _ _ _ _ _
  | .stlv _ _ _ _ _ _ | .amol _ _ _ _ _ _ _ _ | .preset _ _ _ _ | .bari _ _ _ _ | .bara _ _ | .barw _ _
  | .waitge _ _ _ _ _ _ | .launch _ _ | .copy _ _ _ | .mcast _ _ _ | .gatherList _ _ | .gatherSpr _ _
  | .scatterList _ _ | .scatterSpr _ _ | .mergeM0 _ _ | .mergeM1 _ _ | .mergeM2 _ _ | .mergeM3 _ _ | .mtask _ _
  | .mload _ _ | .tinvRange _ _ _ | .tinvAsid _ _ _ | .tinvAll _ _ _ | .pgalloc _ _ | .pgfree _ _ | .pgfork _ _
  | .pglook _ _ | .pgins _ _ | .pgshift _ _ | .kvapp _ _ | .kvld _ _ | .attn _ _ => true
  | _ => false

/-- The commands (R167): the register of the record's address, the record's bytes, and the operation with its ordering. -/
def Instr.commandOp : Instr → Option (Reg × Nat × (Word → Op))
  | .launch a d => some (a, 192, fun r => { id := 0, kind := .command .launch r 0, dest := .g d })
  | .copy n a d => some (a, 64, fun r => { id := 0, kind := .command .copy r n.toNat, dest := .g d })
  | .mcast n a d => some (a, 64, fun r => { id := 0, kind := .command .mcast r n.toNat, dest := .g d })
  | .gatherList a d => some (a, 64, fun r => { id := 0, kind := .command .gatherList r 0, dest := .g d })
  | .gatherSpr a d => some (a, 64, fun r => { id := 0, kind := .command .gatherSpr r 0, dest := .g d })
  | .scatterList a d => some (a, 64, fun r => { id := 0, kind := .command .scatterList r 0, dest := .g d })
  | .scatterSpr a d => some (a, 64, fun r => { id := 0, kind := .command .scatterSpr r 0, dest := .g d })
  | .mergeM0 a d => some (a, 64, fun r => { id := 0, kind := .command (.merge 0) r 0, dest := .g d })
  | .mergeM1 a d => some (a, 64, fun r => { id := 0, kind := .command (.merge 1) r 0, dest := .g d })
  | .mergeM2 a d => some (a, 64, fun r => { id := 0, kind := .command (.merge 2) r 0, dest := .g d })
  | .mergeM3 a d => some (a, 64, fun r => { id := 0, kind := .command (.merge 3) r 0, dest := .g d })
  | .mtask a d => some (a, 64, fun r => { id := 0, kind := .command .mtask r 0, dest := .g d, rel := some 2 })
  | .mload a d => some (a, 64, fun r => { id := 0, kind := .command .mload r 0, dest := .g d })
  | .tinvRange c a d => some (a, 64, fun r => { id := 0, kind := .tinv 0 r, dest := .g d, rel := some c.toNat })
  | .tinvAsid c a d => some (a, 64, fun r => { id := 0, kind := .tinv 1 r, dest := .g d, rel := some c.toNat })
  | .tinvAll c a d => some (a, 64, fun r => { id := 0, kind := .tinv 2 r, dest := .g d, rel := some c.toNat })
  | .pgalloc a d => some (a, 64, fun r => { id := 0, kind := .command .pgalloc r 0, dest := .g d, rel := some 5, acq := some 5 })
  | .pgfree a d => some (a, 64, fun r => { id := 0, kind := .command .pgfree r 0, dest := .g d, rel := some 5, acq := some 5 })
  | .pgfork a d => some (a, 64, fun r => { id := 0, kind := .command .pgfork r 0, dest := .g d, rel := some 5, acq := some 5 })
  | .pglook a d => some (a, 64, fun r => { id := 0, kind := .command .pglook r 0, dest := .g d, rel := some 5, acq := some 5 })
  | .pgins a d => some (a, 64, fun r => { id := 0, kind := .command .pgins r 0, dest := .g d, rel := some 5, acq := some 5 })
  | .pgshift a d => some (a, 64, fun r => { id := 0, kind := .command .pgshift r 0, dest := .g d, rel := some 5, acq := some 5 })
  | .kvapp a d => some (a, 64, fun r => { id := 0, kind := .command .kvapp r 0, dest := .g d, rel := some 5, acq := some 5 })
  | .kvld a d => some (a, 64, fun r => { id := 0, kind := .command .kvld r 0, dest := .g d })
  | .attn a d => some (a, 64, fun r => { id := 0, kind := .command .attn r 0, dest := .g d })
  | _ => none

end Sys2Proof

namespace Sys2Proof.Machine

/-- The state after some steps, unless one of them faults or refuses. -/
def runSteps? : Nat → State → Option State
  | 0, s => some s
  | n + 1, s => match step s with
    | .next t => runSteps? n t
    | _ => none

/-- A run of n steps is safe: every step answers a next state. -/
def SafeFor (n : Nat) (s : State) : Prop := (runSteps? n s).isSome

/-! ### Executing an instruction -/

/-- The pip `p` of the current slot can execute `i`, whose registers are `u`: the word's fields are in range (R161),
its mode allows the instruction, its sources are full, no destination has an operation outstanding, and the class of
full-bit operations has room (R30, R31). -/
structure State.Ready (s : State) (i : Instr) (u : Uses) (p : Pip) : Prop where
  here : s.pip s.cur = some p
  wf : i.wf = true
  mode : u.priv = true → p.mode = true
  full : (∀ r ∈ u.g, p.gf r = true) ∧ ∀ r ∈ u.v, p.vf r = true
  free : (∀ r ∈ u.gd, p.gBusy r = false) ∧ ∀ r ∈ u.vd, p.vBusy r = false
  room : u.fullBit = true → p.fullBits < 16

/-- The pip after its reads: every register read with `.s` is empty, delivered values it read are marked as read, and the
PC is that of the next instruction (R31, R35, R158). -/
def Uses.after (u : Uses) (p : Pip) : Pip := u.read (u.markRead p)

/-- The state after an instruction whose whole effect is `f` on the pip. -/
def State.effect (s : State) (u : Uses) (p : Pip) (f : Pip → Pip) : State := (u.acquire p s).put (f (u.after p))

/-- A result as R160 writes it: the operation on all 64 bits, or, with w = 1, on the low 32 bits and sign-extended. -/
def atWidth (w : Bit) (f : (n : Nat) → BitVec n → BitVec n → BitVec n) (x y : Word) : Word :=
  if w = 1 then (f 32 (x.setWidth 32) (y.setWidth 32)).signExtend 64 else f 64 x y

/-- Whenever it can be executed, the instruction of two source registers writes this function of them to `d`, and does
nothing else. -/
def WritesOfTwo (mk : Bit → Bit → Bit → Reg → Reg → Reg → Instr)
    (f : (n : Nat) → BitVec n → BitVec n → BitVec n) : Prop :=
  ∀ (w y x : Bit) (b a d : Reg) (s : State) (p : Pip), s.Ready (mk w y x b a d) (usesR x y a b d) p →
    exec (mk w y x b a d) s = .next (s.effect (usesR x y a b d) p (fun q => q.setG d (atWidth w f (p.gv a) (p.gv b))))

/-- The same of a source register and the immediate, sign-extended from 12 bits (R162). -/
def WritesOfImm (mk : Bit → Bit → BitVec 12 → Reg → Reg → Instr)
    (f : (n : Nat) → BitVec n → BitVec n → BitVec n) : Prop :=
  ∀ (w x : Bit) (i : BitVec 12) (a d : Reg) (s : State) (p : Pip), s.Ready (mk w x i a d) (usesA x a d) p →
    exec (mk w x i a d) s =
      .next (s.effect (usesA x a d) p (fun q => q.setG d (atWidth w f (p.gv a) (i.signExtend 64))))

/-- The same of one source register. -/
def WritesOfOne (mk : Bit → Bit → Reg → Reg → Instr) (f : (n : Nat) → BitVec n → BitVec n) : Prop :=
  ∀ (w x : Bit) (a d : Reg) (s : State) (p : Pip), s.Ready (mk w x a d) (usesA x a d) p →
    exec (mk w x a d) s = .next (s.effect (usesA x a d) p (fun q => q.setG d (atWidth w (fun n u _ => f n u) (p.gv a) 0)))

/-- Whenever it can be executed, the instruction of two source registers issues an operation of the full-bit class: its
destination is empty until its result, this function of them, is written (R30, R31). -/
def ComputesOfTwo (mk : Bit → Bit → Bit → Reg → Reg → Reg → Instr)
    (f : (n : Nat) → BitVec n → BitVec n → BitVec n) : Prop :=
  ∀ (w y x : Bit) (b a d : Reg) (s : State) (p : Pip),
    s.Ready (mk w y x b a d) { usesR x y a b d with fullBit := true } p →
    exec (mk w y x b a d) s = .next (s.effect (usesR x y a b d) p (fun q => q.issue
      { id := 0, kind := .pure, dest := .g d, born := s.cycle, phase := .done,
        result := (atWidth w f (p.gv a) (p.gv b)).setWidth 512 }))

/-- Lane `i` of a v register of type `t`: bits [w × (i + 1) − 1 : w × i] (R435). -/
def lane (t : Reg4) (x : VWord) (i : Nat) : BitVec (laneWidth t) := x.extractLsb' (laneWidth t * i) (laneWidth t)

/-- The integer lane types s32 to z64 (R169). -/
def integerLanes (t : Reg4) : Prop := 3 ≤ t ∧ t ≤ 10

/-- Whenever it can be executed with an integer type, the instruction of two v registers writes to `d` this function of
each lane. -/
def LanesOfTwo (mk : Reg4 → Bit → Reg4 → Bit → Reg4 → Reg4 → Instr)
    (f : (t : Reg4) → BitVec (laneWidth t) → BitVec (laneWidth t) → BitVec (laneWidth t)) : Prop :=
  ∀ (t : Reg4) (y : Bit) (b : Reg4) (x : Bit) (a d : Reg4) (s : State) (p : Pip), integerLanes t →
    s.Ready (mk t y b x a d) (usesV x y a b d) p →
    ∃ r : VWord, exec (mk t y b x a d) s = .next (s.effect (usesV x y a b d) p (fun q => q.setV d r)) ∧
      ∀ i < laneCount t, lane t r i = f t (lane t (p.vv a) i) (lane t (p.vv b) i)

/-- Lane results with their flags: each lane of `r` is its result, and each flag of `fl` is the OR over the lanes (R435). -/
def LanesAre (t : Reg4) (r : VWord) (fl : FFlags) (f : Nat → Nat × FFlags) : Prop :=
  (∀ i < laneCount t, lane t r i = BitVec.ofNat (laneWidth t) (f i).1) ∧
  ∀ k, fl.bits.getLsbD k = true ↔ ∃ i < laneCount t, (f i).2.bits.getLsbD k = true

/-- The same with a floating-point type: each lane is the exact result rounded once by RM to the lane type. -/
def FloatLanesOfTwo (mk : Reg4 → Bit → Reg4 → Bit → Reg4 → Reg4 → Instr) (f : Nat → Val → Val → Res) : Prop :=
  ∀ (t : Reg4) (y : Bit) (b : Reg4) (x : Bit) (a d : Reg4) (s : State) (p : Pip) (ft : FType), laneFloat t = some ft →
    s.Ready (mk t y b x a d) (usesV x y a b d) p →
    ∃ (r : VWord) (fl : FFlags),
      exec (mk t y b x a d) s = .next (s.effect (usesV x y a b d) p (fun q => (q.setV d r).addFlags fl)) ∧
      LanesAre t r fl (fun i =>
        (f p.rm (p.lane ft (lane t (p.vv a) i).toNat) (p.lane ft (lane t (p.vv b) i).toNat)).round ft p.rm false p.ftz)

/-- A function of each lane, of the full-bit class, rounded to nearest in the lane type (R436, R154). -/
def FloatLanesOfOne (mk : Reg4 → Bit → Reg4 → Reg4 → Instr) (f : Val → Res) : Prop :=
  ∀ (t : Reg4) (x : Bit) (a d : Reg4) (s : State) (p : Pip) (ft : FType), laneFloat t = some ft →
    s.Ready (mk t x a d) { v := [a], vs := syncV x a, vd := [d], fullBit := true } p →
    ∃ (r : VWord) (fl : FFlags),
      exec (mk t x a d) s = .next (s.effect { v := [a], vs := syncV x a, vd := [d] } p (fun q => (q.addFlags fl).issue
        { id := 0, kind := .pure, dest := .v d, born := s.cycle, phase := .done, result := r })) ∧
      LanesAre t r fl (fun i => (f (p.lane ft (lane t (p.vv a) i).toNat)).round ft 0 false p.ftz)

/-- Whenever it can be executed, the floating-point instruction of two registers writes the exact result rounded once by
RM, f32 sign-extended, and raises its flags (R369). -/
def RoundsOfTwo (mk : Bit → Bit → Bit → Reg → Reg → Reg → Instr) (f : Nat → Val → Val → Res) : Prop :=
  ∀ (w y x : Bit) (b a d : Reg) (s : State) (p : Pip), s.Ready (mk w y x b a d) (usesR x y a b d) p →
    let ft := floatType w
    let r := (f p.rm (p.operand ft (p.gv a)) (p.operand ft (p.gv b))).round ft p.rm false p.ftz
    exec (mk w y x b a d) s = .next (s.effect (usesR x y a b d) p (fun q => (q.setG d (scalarWord ft r.1)).addFlags r.2))

/-- `r` is the one of two encodings that FMIN or FMAX returns (R376): the other one beside a NaN, the canonical NaN for two,
and else the operand that is before the other in the order `before`; an f32 subnormal counts as zero under FTZ (R133). -/
def ExtremeOf (t : FType) (ftz : Bool) (before : Nat → Nat → Bool) (x y r : Nat) : Prop :=
  let u := flushBits t ftz x
  let v := flushBits t ftz y
  if decodeF t u = .nan ∧ decodeF t v = .nan then r = t.nan
  else if decodeF t u = .nan then r = v
  else if decodeF t v = .nan then r = u
  else (r = u ∧ before v u = false) ∨ (r = v ∧ before u v = false)

/-- The condition of an integer compare of two words (R164): codes 0 to 7. -/
def wordCondition (c : BitVec 3) (x y : Word) : Bool :=
  match c.toNat with
  | 0 => x == y
  | 1 => x != y
  | 2 => x.slt y
  | 3 => !x.slt y
  | 4 => x.ult y
  | 5 => !x.ult y
  | 6 => x.getLsbD (y.toNat % 64)
  | _ => !x.getLsbD (y.toNat % 64)

/-! ### What an effect leaves alone -/

/-- The registers that only traps, events and status-register writes change are the same. -/
structure Pip.SameSpecial (p q : Pip) : Prop where
  identity : q.launch = p.launch ∧ q.pipid = p.pipid ∧ q.coord = p.coord ∧ q.extent = p.extent
  status : q.status = p.status
  trap : q.tvec = p.tvec ∧ q.tcause = p.tcause ∧ q.tval = p.tval ∧ q.tpc = p.tpc
  event : q.tcmp = p.tcmp ∧ q.ipend = p.ipend ∧ q.msg = p.msg ∧ q.deferredTrap = p.deferredTrap
  other : q.hsave = p.hsave ∧ q.asid = p.asid ∧ q.refused = p.refused ∧ q.engerr = p.engerr

/-- The machine outside the pip of slot `k` and the L1 lines and fabric is the same: every other pip, every byte of HBM, every
cluster with each byte of its scratchpad, every deque, the die units, the launches, the registers of the module, time. -/
structure State.SameOutside (s t : State) (k : Nat) : Prop where
  pips : ∀ j, j ≠ k → t.pip j = s.pip j
  memory : ∀ a, readByte t.hbm a = readByte s.hbm a
  scratchpad : ∀ cl off, readByte (t.cluster cl).sp off = readByte (s.cluster cl).sp off
  clusters : t.clusters = s.clusters
  deques : ∀ c, (t.core c).deque = (s.core c).deque ∧ (t.core c).reds = (s.core c).reds
  units : t.nmas = s.nmas ∧ t.launches = s.launches ∧ t.jobs = s.jobs ∧ t.saved = s.saved ∧ t.host = s.host
  registers : t.age = s.age ∧ t.preemptWait = s.preemptWait ∧ t.rampUp = s.rampUp ∧ t.rampDown = s.rampDown
  clock : t.cycle = s.cycle ∧ t.time = s.time

/-- The full bits after an instruction wrote the registers `u` names as destinations: they are full (or, with `later`, empty
until their result arrives), those read with `.s` are empty, the others are as they were (R31). -/
structure Uses.FullBits (u : Uses) (later : Bool) (p q : Pip) : Prop where
  g : ∀ r : Reg, r ≠ 0 → q.gf r = (if r ∈ u.gd then !later else if r ∈ u.gs then false else p.gf r)
  v : ∀ r : Reg4, q.vf r = (if r ∈ u.vd then !later else if r ∈ u.vs then false else p.vf r)

/-- What every instruction on registers leaves alone: the machine outside the pip, the special registers, every register
that is no destination, the steer registers, RM, FTZ and the flags already raised; it goes on at the next instruction. -/
structure State.OnlyRegisters (s : State) (u : Uses) (p : Pip) (t : State) (q : Pip) : Prop where
  outside : s.SameOutside t s.cur ∧ t.net = s.net
  pip : t.pip s.cur = some q
  next : q.pc = p.pc + 4 ∧ q.cond = .ready
  special : p.SameSpecial q
  g : ∀ r, r ∉ u.gd → q.gv r = p.gv r
  v : ∀ r, r ∉ u.vd → q.vv r = p.vv r
  steer : ∀ n, q.steer n = p.steer n
  mode : ∀ k, k < 3 ∨ 8 ≤ k → q.fpmode.getLsbD k = p.fpmode.getLsbD k
  sticky : ∀ k, p.fpmode.getLsbD k = true → q.fpmode.getLsbD k = true

/-- What the issue of an access leaves alone: no register changes its value and no byte of memory its content; only full bits,
the PC, the queues of the pip and, for an operation sent to another cluster, the fabric change. -/
structure State.Issued (s : State) (u : Uses) (p : Pip) (t : State) (q : Pip) : Prop where
  outside : s.SameOutside t s.cur
  pip : t.pip s.cur = some q
  next : q.pc = p.pc + 4 ∧ q.cond = .ready
  special : p.SameSpecial q
  g : ∀ r, q.gv r = p.gv r
  v : ∀ r, q.vv r = p.vv r
  steer : ∀ n, q.steer n = p.steer n
  fpmode : q.fpmode = p.fpmode
  full : u.FullBits true p q

/-- The pip after trap entry (R315): the saved PC, the cause with ASYNC and REPLAY, the value; PPRIV and PIE hold PRIV and IE,
the mode is S with IE 0, the PC is that of the handler; nothing else changes but the bits of SR_IPEND. -/
structure Pip.Trapped (p q : Pip) (code : Nat) (async : Bool) (val : Word) : Prop where
  saved : q.tpc = p.pc ∧ q.tval = val ∧ q.tcause = BitVec.ofNat 64 (code + 256 * async.toNat + 512 * p.replays.toNat)
  mode : q.status.getLsbD 0 = true ∧ q.status.getLsbD 1 = false
  previous : q.status.getLsbD 5 = p.status.getLsbD 0 ∧ q.status.getLsbD 6 = p.status.getLsbD 1
  status : ∀ k, k ≠ 0 → k ≠ 1 → k ≠ 5 → k ≠ 6 → q.status.getLsbD k = p.status.getLsbD k
  pc : q.pc = (p.tvec >>> 2) <<< 2 ∧ q.cond = .ready
  registers : q.g = p.g ∧ q.gFull = p.gFull ∧ q.v = p.v ∧ q.vFull = p.vFull ∧ q.b = p.b ∧ q.ops = p.ops
  special : q.tvec = p.tvec ∧ q.tcmp = p.tcmp ∧ q.msg = p.msg ∧ q.hsave = p.hsave ∧ q.asid = p.asid ∧ q.fpmode = p.fpmode ∧
    q.refused = p.refused ∧ q.engerr = p.engerr ∧ q.pipid = p.pipid ∧ q.coord = p.coord ∧ q.extent = p.extent

/-- Trap entry of the pip of slot `k` (R315): into the handler; without one the pip is held and a launch fault reported. -/
def State.Traps (s : State) (k : Nat) (p : Pip) (code : Nat) (async : Bool) (val : Word) (t : State) : Prop :=
  if p.tvec >>> 2 = 0 then t = (s.setPip k { p with heldFault := true }).report (.launchFault p.launch p.pipid code p.pc)
  else ∃ q, t = s.setPip k q ∧ p.Trapped q code async val

/-- The registers of an MTS word. -/
def mtsUses (x : Bit) (a : Reg) (priv : Bool) : Uses := { g := [a], gs := syncG x a, priv := priv }

/-! ### Issuing operations -/

/-- A canonical address: bits [63:55] are all equal (R62). -/
def Canonical (a : Word) : Prop := ∀ k, 55 ≤ k → k < 64 → a.getLsbD k = a.getLsbD 55

/-- The first `n` bytes of a register, lowest first (R1). -/
def bytesOf {w : Nat} (n : Nat) (x : BitVec w) : List Byte := (List.range n).map (fun k => x.extractLsb' (8 * k) 8)

/-- The operation enters the pip's queues and the pip goes on: what the issue of `i` does to a pip `p`. -/
def State.entered (s : State) (u : Uses) (p : Pip) (o : Op) : State := (u.acquire p s).enter (u.after p) o

/-- The instruction issues the operation `o` on these pieces of global space, each an address and a size; the first piece that
is not canonical or not aligned makes it trap instead (R384). -/
def State.IssuesGlobal (s : State) (i : Instr) (p : Pip) (pieces : List (Word × Nat)) (o : Op) : Prop :=
  ∀ u : Uses, i.uses p = some u → s.Ready i u p →
    ((∀ e ∈ pieces, Canonical e.1 ∧ e.1.toNat % e.2 = 0) → exec i s = .next (s.entered u p o)) ∧
    ∀ before e rest, pieces = before ++ e :: rest → (∀ x ∈ before, Canonical x.1 ∧ x.1.toNat % x.2 = 0) →
      (¬ Canonical e.1 → exec i s = .next (s.takeTrap s.cur p .pageNotPresent false e.1)) ∧
      (Canonical e.1 → e.1.toNat % e.2 ≠ 0 → exec i s = .next (s.takeTrap s.cur p .misaligned false e.1))

/-- The scope of an ordering bit (R104, R107). -/
def orderedBy (bit : Bit) (c : BitVec 3) : Option Nat := if bit = 1 then some c.toNat else none

/-- The elements of an indexed access: base plus lane, for 16 lanes of 4 bytes or 8 lanes of 8 bytes (R386, R426). -/
def indexedPieces (base : Word) (sz : Bit) (x : VWord) : List (Word × Nat) :=
  if sz = 1 then (List.range 8).map (fun k => (base + x.extractLsb' (64 * k) 64, 8))
  else (List.range 16).map (fun k => (base + (x.extractLsb' (32 * k) 32).setWidth 64, 4))

/-- The local load of `n` bytes (R73, R385): the checks at issue; a near stale one traps; a remote one migrates the pip when MG
is 1, and otherwise it issues `o`. -/
def State.IssuesLoad (s : State) (i : Instr) (p : Pip) (a : Word) (n : Nat) (o : Bool → Op) : Prop :=
  ∀ u : Uses, i.uses p = some u → s.Ready i u p →
    let c := s.cluster s.curCl
    let stale := (granulesOf (offsetOf a) n).any (fun g => c.stale a (c.granAtIssue p g) (16 * g))
    (∀ x, s.checkIssue p a n = some x → exec i s = .next (s.takeTrap s.cur p x false a)) ∧
    (s.checkIssue p a n = none →
      (s.near p a = true → stale = true → exec i s = .next (s.takeTrap s.cur p .podStale false a)) ∧
      (s.near p a = false → p.mg = true → p.stay ≠ some p.pc →
        exec i s = .next (s.put { p with cond := .parked (.migrate a) })) ∧
      (s.near p a = true ∧ stale = false ∨ s.near p a = false ∧ (p.mg = false ∨ p.stay = some p.pc) →
        exec i s = .next ((u.acquire p s).enter { u.after p with stay := if p.stay = some p.pc then none else p.stay }
          (o (s.near p a)))))

/-- The local write of `n` bytes (R73, R88, R89): the checks at issue; a near one that a granule refuses traps, and marks a sealed
pod as having refused; otherwise it issues `o`. -/
def State.IssuesWrite (s : State) (i : Instr) (p : Pip) (a : Word) (n : Nat) (setFull : Bool) (o : Bool → Op) : Prop :=
  ∀ u : Uses, i.uses p = some u → s.Ready i u p →
    let c := s.cluster s.curCl
    (∀ x, s.checkIssue p a n = some x → exec i s = .next (s.takeTrap s.cur p x false a)) ∧
    (s.checkIssue p a n = none →
      (∀ r g, s.near p a = true → c.refusalAtIssue p a n setFull = some (r, g) →
        exec i s = .next ((s.setCluster s.curCl (c.markRefused g)).takeTrap s.cur p
          (if r = 2 then .podStale else .podSealed) false a)) ∧
      (s.near p a = false ∨ c.refusalAtIssue p a n setFull = none →
        exec i s = .next (s.entered u p (o (s.near p a)))))

/-! ### Accesses to home L2s -/

/-- An agent may try its access: no write that it has made on another die is under way. -/
def State.Tries (s : State) (who : Asker) : Prop := (s.askOf who).any Ask.closing = false

/-- The access under way lacks nothing of other dies, and no line of its own die that must be recalled first. -/
def State.Whole (s : State) : Prop := s.reach.any Reach.lacks = false

/-- A translation answers so, for an access under way, and lacks nothing. -/
def State.Finds (s : State) (die : Nat) (asid : BitVec 16) (mode : Bool) (need : Need) (a : Word) (x : Except Cause (Nat × Word)) : Prop :=
  (s.translate die asid mode need a).2 = x ∧ (s.translate die asid mode need a).1.Whole

/-- The translations of the pieces of an access, all at once, of which none lacks anything. -/
def State.FindsAll (s : State) (die : Nat) (asid : BitVec 16) (mode : Bool) (need : Need) (ps : List (Word × Nat)) (xs : List (Nat × Word)) :
    Prop :=
  (s.translateAll die asid mode need ps).2 = .ok xs ∧ (s.translateAll die asid mode need ps).1.Whole ∧ xs.length = ps.length ∧
  (∀ e ∈ ps.zip xs, e.2.1 % 128 = e.1.1.toNat % 128 ∧ e.2.1 % 128 + e.1.2 ≤ 128) ∧
  ∀ e ∈ ps.zip xs, ∀ f ∈ ps.zip xs, e.1.1.toNat / 128 = f.1.1.toNat / 128 → e.2.1 / 128 = f.2.1 / 128

/-- A byte of memory after pieces of bytes were written one after another (R426). -/
def writtenInOrder : List (Nat × List Byte) → (Nat → Byte) → Nat → Byte
  | [], m => m
  | (pa, bs) :: rest, m => writtenInOrder rest (fun y => if pa ≤ y ∧ y < pa + bs.length then bs.getD (y - pa) 0 else m y)

/-- The bytes of a store of pieces of `w` bytes, at the physical addresses of its pieces, in lane order. -/
def laneParts (w : Nat) (xs : List (Nat × Word)) (bs : List Byte) : List (Nat × List Byte) :=
  xs.zipIdx.map (fun e => (e.1.1, (bs.drop (w * e.2)).take w))

/-- What a pip's access of one piece, other than a load or a store, asks of its home L2: its address, what it needs of the leaf, and the
work of its AT packet (R276). -/
def OpKind.asks : OpKind → Option (Word × Need × PacketWork)
  | .atomicG a n op b => some (a, .atomic, .atomic op (n == 8) b)
  | .casG a n e x => some (a, .atomic, .cas (n == 8) e x)
  | .pinG a => some (a, .load, .pin)
  | .unpinG a => some (a, .load, .unpin)
  | .flushG a => some (a, .load, .flush)
  | _ => none

/-! ### Commands -/

/-- Command `n` of the pip in slot `k` is at the head of its store queue: nothing holds it back, it names a destination, and no write that
it has made on another die is under way. -/
structure State.AtHead (s : State) (k n : Nat) (p : Pip) (o : Op) (kind : CmdKind) (a : Word) (ch : Nat) : Prop where
  op : s.pip k = some p ∧ p.op n = some o ∧ o.kind = .command kind a ch
  waits : o.phase = .waiting ∧ s.canPerform k p o = true
  names : o.dest ≠ .none
  tries : s.Tries (.op k n)

/-- Command `n` of the pip in slot `k` is over, with this value for rd. -/
def State.Gives (t : State) (k n v : Nat) : Prop :=
  ∃ q y, t.pip k = some q ∧ q.op n = some y ∧ y.phase = .done ∧ y.result = BitVec.ofNat 512 v

/-- Its context takes it up: its queue is not full, and no command of another pip stands before it (R225, R227). -/
def State.Takes (s : State) (e : EngineRef) (k : Nat) (o : Op) : Prop :=
  (s.context e).queue.length < engineDepth e ∧ s.comesFirst k o e = false

/-- It is accepted as a command that meets `P`, under the next identifier of its context, which is its result (R225, R227). -/
def State.Accepts (s : State) (e : EngineRef) (k n : Nat) (P : Cmd → Prop) : Prop :=
  ∃ t c, exec (.engineCommandAccept k n) s = .next t ∧ (t.context e).queue = (s.context e).queue ++ [c] ∧
    (t.context e).counter = (s.context e).counter + 1 ∧ (t.context e).timeline = (s.context e).timeline ∧
    c.id = (s.context e).counter ∧ t.hbm = s.hbm ∧ t.Gives k n (s.context e).counter ∧ P c

/-- It is refused with a code, and its context stays as it is (R227). -/
def State.Refuses (s : State) (e : EngineRef) (k n code : Nat) : Prop :=
  ∃ t, exec (.engineCommandAccept k n) s = .next t ∧ t.context e = s.context e ∧ t.hbm = s.hbm ∧ t.Gives k n (2 ^ 63 + code)

/-- Memory after the bytes `bs` were written at `pa`. -/
def Wrote (s t : State) (pa : Nat) (bs : List Byte) : Prop :=
  ∀ y, readByte t.hbm y = if pa ≤ y ∧ y < pa + bs.length then bs.getD (y - pa) 0 else readByte s.hbm y

/-- The header of a page as memory holds it (R249). -/
def State.headerOf (s : State) (id : Nat) : Header := Header.of (readBytes s.hbm (pageBase id) 36)

/-! ### The slots of a matrix bundle (R201) -/

/-- The value of element 64 × i + j of a block. -/
def Block.at_ (b : Block) (k : Nat) : Val := val32 (b.getD k 0).toNat

/-- A block whose elements have these f32 encodings. -/
def Block.Is (b : Block) (f : Nat → Nat) : Prop := b.length = 4096 ∧ ∀ k < 4096, b.getD k 0 = BitVec.ofNat 32 (f k)

/-- The values of row `i` of the group of blocks of block `n`, in ascending block number (R214). -/
def MatrixUnit.rowOf (m : MatrixUnit) (n i : Nat) : List Val :=
  (groupBlocks m.arr n).flatMap (fun g => (List.range 64).map (fun j => (m.block g).at_ (64 * i + j)))

/-- What a tile load `x` that issues at `t` schedules, and when the read port is free after it (R203): it begins when the port is free
and takes 4 cycles for each of its accesses to the busiest bank, and no less than for its kind. -/
def Cluster.LoadGives (c : Cluster) (r : Run) (t start : Nat) (side : Bool) (x ends : Nat) (ws : List (Nat × MuAct × Bool)) : Prop :=
  if opOf x = 0 then ends = start ∧ ws = []
  else ∃ l, c.load r c.mu.lc side x = .ok l ∧ l.entries ≤ 64 ∧ ends = max t start + 4 * max l.least (bankLoad l.parts) ∧
    ws = [(ends, l.act, true)]

/-- What an MMA-slot operation that meets its geometry and its budget of outliers schedules (R202, R210, R221, R397, R398). -/
def MatrixUnit.MmaGives (m : MatrixUnit) (t x : Nat) (ws : List (Nat × MuAct × Bool)) : Prop :=
  let a := m.tile false (bitsOf x 11 2)
  let b := bitsOf x 13 2
  let regs := mmaRegisters a (bitsOf x 18 3) b
  let bs := regs.map (m.tile true)
  if opOf x = 0 then ws = []
  else a.type.fmt = bitsOf x 15 3 ∧ b % regs.length = 0 ∧
    (∀ y ∈ bs, y.type.fmt = bitsOf x 18 3 ∧ y.type.pruned = 0 ∧ (grouped (bitsOf x 18 3) = true → y.type.grp = a.type.grp)) ∧
    a.buffer.length + (bs.map (fun y => y.buffer.length)).sum ≤ 64 ∧
    ws = (if opOf x = 0x12 then [(t + 72, .acc (bitsOf x 8 3) (mmaBlock a bs false none), false)]
      else [(t + 64, .mma (bitsOf x 8 3) (opOf x == 0x11) a bs, false)])

/-- What a VEC operation schedules (R214, R215, R331 to R346, R393, R412 to R414); a block that is short of 4,096 elements stands for
zeros after it. -/
def MatrixUnit.VecGives (m : MatrixUnit) (t x : Nat) (ws : List (Nat × MuAct × Bool)) : Prop :=
  let d := bitsOf x 8 3
  let n := bitsOf x 11 3
  let u := fun (k : Nat) => (m.block d).at_ k
  let v := fun (k : Nat) => (m.block n).at_ k
  let side := bitsOf x 16 1 == 1
  let reg := bitsOf x 14 2
  let each := fun (after : Nat) (f : Nat → Nat) => ∃ b : Block, b.Is f ∧ ws = [(t + after, .acc d b, false)]
  let rows := fun (f : List Val → Nat) =>
    ∃ b : Block, b.Is (fun k => f (m.rowOf n (k / 64))) ∧ ws = (groupBlocks m.arr d).map (fun g => (t + 16, .acc g b, false))
  match opOf x with
  | 0 => ws = []
  | 0x20 => ws = [(t + 4, .acc d [], false)]
  | 0x21 => each 8 (fun k => vecAdd m.rm (u k) (if bitsOf x 14 1 = 1 then (v k).negate else v k))
  | 0x22 => each 8 (fun k => vecMul m.rm (u k) (v k))
  | 0x23 => each 8 (fun k => vecMul m.rm (u k) (val32 (bitsOf x 16 32)))
  | 0x24 => each 8 (fun k => vecAdd m.rm (u k)
      (val32 (fieldAt (m.tile side reg).data (4 * (if bitsOf x 17 1 = 1 then k / 64 else k % 64)) 4)))
  | 0x25 => if bitsOf x 17 1 = 1 then rows (fun vs => encode32 (maxList vs)) else each 8 (fun k => encode32 (vecMax (u k) (v k)))
  | 0x26 => each 16 (fun k => ((exp2Val (v k)).round .f32 m.rm).1)
  | 0x27 => rows (fun vs => ((alignedSumRes vs).round .f32 m.rm).1)
  | 0x28 =>
    let of := fun (g : Nat) => (List.range 64).flatMap (fun i =>
      if bitsOf x 25 1 = 0 ∨ i = bitsOf x 26 6 then (List.range 64).map (fun j => (m.block g).getD (64 * i + j) 0) else [])
    ws = [(t + 3, .sl (scaleLatch ((groupBlocks m.arr n).flatMap of) (bitsOf x 15 3) (bitsOf x 18 7)), false)]
  | 0x29 =>
    let y := quantTile (m.block n) m.sl (bitsOf x 17 3) (bitsOf x 20 2) (bitsOf x 22 1 == 1) m.rm
    ¬(2 ≤ bitsOf x 17 3 ∧ bitsOf x 20 2 = 2) ∧ y.buffer.length ≤ 64 ∧ ws = [(t + 8, .tile side reg y, false)]
  | 0x2A => ws = [(t + 1, .config (bitsOf x 8 2) (bitsOf x 10 2), false)]
  | _ => False

/-- What an ST operation does at its issue (R204, R217, R218, R432 to R434): a store enters the write port, where it takes 8 cycles for
each write to the busiest bank and at least 16; a signal comes after every earlier store. -/
def Cluster.StoreGives (c : Cluster) (r : Run) (t x : Nat) (saves : List MuSave) (tsigs : List Tsig) : Prop :=
  let stored := fun (y : Saved64) =>
    let ws := schedule (max t r.writeEnd) y.runs
    saves = [⟨max t r.writeEnd + 8 * max 2 (bankLoad (ws.map (fun w => (w.2.1, w.2.2.length)))), ws⟩] ∧ tsigs = []
  match opOf x with
  | 0 => saves = [] ∧ tsigs = []
  | 0x30 => ∃ y, c.storeBlock r c.mu.lc c.mu.rm (c.mu.block (bitsOf x 8 3)) x = .ok y ∧ stored y
  | 0x31 => ∃ y, c.storeTile r c.mu.lc (c.mu.tile (bitsOf x 10 1 == 1) (bitsOf x 8 2)) x = .ok y ∧ stored y
  | 0x32 =>
    let h := handleNumber c.mu.lc x 11 35 36
    saves = [] ∧ ((bitsOf x 15 1 = 0 ∧ tsigs = [⟨max (t + 1) (r.savedBy + 1), none, bitsOf x 16 1 == 1⟩]) ∨
      (bitsOf x 15 1 = 1 ∧ 8 ≤ h ∧ ∃ o, r.h[h]? = some (some o) ∧ tsigs = [⟨max (t + 1) (r.savedBy + 1), some o, bitsOf x 16 1 == 1⟩]))
  | _ => False

/-- What the header of a bundle does (R176, R219): the next position, the loop counter that is written in the next cycle, the stage. -/
def MatrixUnit.HeaderGives (m : MatrixUnit) (r : Run) (t : Nat) (b : BitVec 384) (following pos : Nat) (stage : EndStage)
    (ws : List (Nat × MuAct × Bool)) : Prop :=
  let n := m.lc.getD (counterOf b) 0
  match hopOf b with
  | 1 => pos = following ∧ stage = r.stage ∧ ws = [(t + 1, .lc (counterOf b) (argOf b), false)]
  | 2 => stage = r.stage ∧ if 1 < n then pos = argOf b ∧ ws = [(t + 1, .lc (counterOf b) (n - 1), false)]
      else pos = following ∧ ws = [(t + 1, .lc (counterOf b) 0, false)]
  | 3 => stage = .over ∧ ws = []
  | _ => pos = following ∧ stage = r.stage ∧ ws = []

/-! ### Packets -/

/-- Packet `n` is `q`, of this kind, at its end in this module, with no change of routing under way and not of an old version, and
nothing of it has been served: its endpoint acts on it (R275 to R287). -/
structure State.Arrived (s : State) (n : Nat) (q : Packet) (kind : Byte) : Prop where
  here : mget s.net.packets n = some q ∧ q.kind = kind ∧ s.here q.dst = true ∧ s.standsAt n q.dst = true
  connected : (q.src.toNat, q.dst.toNat) ∉ s.net.unreachable
  stable : s.net.change = none ∧ oldVersion s.net.version q.ver = false
  fresh : s.begun n q = false

/-- The next packet that enters the fabric answers `q` from `src` with this kind, body and cause (R275, R276, R283). -/
def State.Answers (s t : State) (q : Packet) (src : Word) (kind : Byte) (body : List Byte) (cause : Nat) : Prop :=
  ∃ r, mget t.net.packets s.net.nextPacket = some r ∧ r.kind = kind ∧ r.src = src ∧ r.dst = q.origin ∧ r.seq = q.seq ∧
    r.body = body ∧ r.addr = if kind = 0x12 then word cause else q.addr

/-- Packet `n` is the first response to an outstanding request of this module that crosses no die edge. -/
def State.Responds (s : State) (n : Nat) (r : Packet) (kind : Byte) (o : Outstanding) : Prop :=
  s.Arrived n r kind ∧ s.answered r = some o ∧ o.completed = false ∧ o.retained = false

/-- A control packet with this content is under way to an address. -/
def State.Carries (t : State) (dst : Word) (c : Control) : Prop :=
  ∃ m q, mget t.net.packets m = some q ∧ q.kind = 0x18 ∧ q.dst = dst ∧ q.work = .control c

/-! ### Invariants -/

/-- No core holds an update-only line (R70). -/
def State.NoReds (s : State) : Prop := ∀ e ∈ s.cores, e.2.reds = []

/-- Global memory is in its canonical form: equal memories are equal data. -/
def State.MemoryOk (s : State) : Prop := Memory.wf s.hbm = true

end Sys2Proof.Machine
end

