-- ==== Sys2Proof/Certificates/Slice0/Obligations.lean ====
section
/-! DEFINITION. The statements for the provers. Each docstring names the rules of the spec that it formalises. -/

open Sys2Proof Sys2Proof.Machine

/-! ### Registers -/

/-- The registers of a pip (R24, R31, R36): g0 reads zero, is always full and discards writes; a written register holds the value
and is full, and no other register changes; the special registers and the queues are as they were. -/
def Obligations.RegistersHoldWhatIsWritten : Prop :=
  ∀ p : Pip,
    (p.gv 0 = 0 ∧ p.gf 0 = true ∧ p.gBusy 0 = false ∧ (∀ x, p.setG 0 x = p) ∧ p.clearG 0 = p) ∧
    (∀ (r : Reg) (x : Word), r ≠ 0 → (p.setG r x).gv r = x ∧ (p.setG r x).gf r = true ∧ (p.clearG r).gf r = false) ∧
    (∀ (r k : Reg) (x : Word), k ≠ r → (p.setG r x).gv k = p.gv k ∧ (p.setG r x).gf k = p.gf k ∧ (p.clearG r).gf k = p.gf k) ∧
    (∀ (r : Reg) (x : Word), (p.setG r x).v = p.v ∧ (p.setG r x).b = p.b ∧ (p.setG r x).pc = p.pc ∧ (p.setG r x).ops = p.ops ∧
      (p.setG r x).fpmode = p.fpmode ∧ (p.clearG r).g = p.g ∧ p.SameSpecial (p.setG r x)) ∧
    (∀ (r : Reg4) (x : VWord), (p.setV r x).vv r = x ∧ (p.setV r x).vf r = true ∧ (p.clearV r).vf r = false ∧
      (p.setV r x).g = p.g ∧ (p.setV r x).gFull = p.gFull ∧ (p.setV r x).b = p.b ∧ p.SameSpecial (p.setV r x)) ∧
    (∀ (r k : Reg4) (x : VWord), k ≠ r → (p.setV r x).vv k = p.vv k ∧ (p.setV r x).vf k = p.vf k ∧ (p.clearV r).vf k = p.vf k) ∧
    ∀ (n : Nat) (x : Steer), n < 12 → (p.setSteer n x).steer n = x ∧ (p.setSteer n x).g = p.g ∧
      ∀ k, k ≠ n → (p.setSteer n x).steer k = p.steer k

/-! ### The integer instructions (chapter 13) -/

/-- ADD, SUB and MUL with their immediate forms (R335, R427, R401): the sum, difference and product modulo 2^64, or
modulo 2^32 and sign-extended; R335's words. -/
def Obligations.AddSubMulWriteTheWrappedResult : Prop :=
  WritesOfTwo .add (fun _ u v => u + v) ∧ WritesOfTwo .sub (fun _ u v => u - v) ∧ WritesOfTwo .mul (fun _ u v => u * v) ∧
  WritesOfImm .addI (fun _ u v => u + v) ∧ WritesOfImm .mulI (fun _ u v => u * v) ∧
  decode 0x00004602 = .ok (.add 0 0 0 0 4 12) ∧ decode 0x9FFE9483 = .ok (.addI 1 0 0xFFF 9 9)

/-- AND, OR and XOR with their immediate forms (R341, R390, R448), and the words of R341 and R448. -/
def Obligations.AndOrXorWriteTheBitwiseResult : Prop :=
  WritesOfTwo .and (fun _ u v => u &&& v) ∧ WritesOfTwo .or (fun _ u v => u ||| v) ∧ WritesOfTwo .xor (fun _ u v => u ^^^ v) ∧
  WritesOfImm .andI (fun _ u v => u &&& v) ∧ WritesOfImm .orI (fun _ u v => u ||| v) ∧ WritesOfImm .xorI (fun _ u v => u ^^^ v) ∧
  decode 0x024E6282 = .ok (.and 0 0 0 7 6 5) ∧ decode 0x01FE6284 = .ok (.andI 0 0 255 6 5) ∧
  decode 0x02CE6282 = .ok (.xor 0 0 0 7 6 5) ∧ decode 0x1FFE6286 = .ok (.xorI 0 0 0xFFF 6 5)

/-- SHL, SHR, SRA and ROT with their immediate forms (R419, R160): the amount is taken modulo the width; R419's words. -/
def Obligations.ShiftsTakeTheAmountModuloTheWidth : Prop :=
  WritesOfTwo .shl (fun n u v => u <<< (v.toNat % n)) ∧ WritesOfTwo .shr (fun n u v => u >>> (v.toNat % n)) ∧
  WritesOfTwo .sra (fun n u v => u.sshiftRight (v.toNat % n)) ∧ WritesOfTwo .rot (fun n u v => u.rotateLeft (v.toNat % n)) ∧
  WritesOfImm .shlI (fun n u v => u <<< (v.toNat % n)) ∧ WritesOfImm .shrI (fun n u v => u >>> (v.toNat % n)) ∧
  WritesOfImm .sraI (fun n u v => u.sshiftRight (v.toNat % n)) ∧ WritesOfImm .rotI (fun n u v => u.rotateLeft (v.toNat % n)) ∧
  decode 0x00066287 = .ok (.shlI 0 0 3 6 5) ∧ decode 0x83CE6282 = .ok (.rot 1 0 0 7 6 5)

/-- MULH, MIN, MAX and their `.z` forms (R402, R390): the high half of the exact product of 2n bits, the smaller and the larger
operand, signed or unsigned. CLZ, CTZ and POPC (R358, R362, R390): the zero bits above the highest 1 bit, those below the
lowest, the 1 bits; within 64 bits, or within bits [31:0]. -/
def Obligations.HighProductsExtremesAndBitCountsAreExact : Prop :=
  (WritesOfTwo .mulh (fun n u v => (u.signExtend (2 * n) * v.signExtend (2 * n)).extractLsb' n n) ∧
   WritesOfTwo .mulhZ (fun n u v => (u.setWidth (2 * n) * v.setWidth (2 * n)).extractLsb' n n) ∧
   WritesOfTwo .min (fun _ u v => if v.slt u then v else u) ∧ WritesOfTwo .minZ (fun _ u v => if v.ult u then v else u) ∧
   WritesOfTwo .max (fun _ u v => if u.slt v then v else u) ∧ WritesOfTwo .maxZ (fun _ u v => if u.ult v then v else u)) ∧
  (WritesOfOne .clz (fun n u => BitVec.ofNat n (((List.range n).takeWhile (fun i => !u.getLsbD (n - 1 - i))).length)) ∧
   WritesOfOne .ctz (fun n u => BitVec.ofNat n (((List.range n).takeWhile (fun i => !u.getLsbD i)).length)) ∧
   WritesOfOne .popc (fun n u => BitVec.ofNat n ((List.range n).countP (fun i => u.getLsbD i))))

/-- DIV, DIV.z, REM and REM.z (R364, R417), all of the full-bit class: truncating division, all ones for a zero
divisor, whose remainder is the dividend; −2^(n−1) by −1 gives −2^(n−1) with remainder 0. Always a = q × b + r. -/
def Obligations.DivisionTruncatesWithItsCorners : Prop :=
  ComputesOfTwo .div (fun n u v => if v = 0 then BitVec.allOnes n else u.sdiv v) ∧
  ComputesOfTwo .divZ (fun n u v => if v = 0 then BitVec.allOnes n else u.udiv v) ∧
  ComputesOfTwo .rem (fun _ u v => if v = 0 then u else u.srem v) ∧
  ComputesOfTwo .remZ (fun _ u v => if v = 0 then u else u.umod v) ∧
  decode 0x01528502 = .ok (.div 0 0 0 9 8 10) ∧ decode 0x81928502 = .ok (.divZ 1 0 0 9 8 10) ∧
  ∀ (n : Nat) (u v : BitVec n),
    (v = BitVec.allOnes n → u = BitVec.intMin n → v ≠ 0 → u.sdiv v = BitVec.intMin n ∧ u.srem v = 0) ∧
    u = (if v = 0 then BitVec.allOnes n else u.sdiv v) * v + (if v = 0 then u else u.srem v) ∧
    u = (if v = 0 then BitVec.allOnes n else u.udiv v) * v + (if v = 0 then u else u.umod v)

/-- EXT (R368), BFX (R353), LI (R163), SEL (R422) and HASH (R157) write their result to `d`; BFI and LIH (R352, R388, R163) replace
one field of the destination, which they read, and keep its other bits. -/
def Obligations.FieldsConstantsAndChoicesWriteTheirResult : Prop :=
  ((∀ (x : Bit) (k a d : Reg) (s : State) (p : Pip), s.Ready (.ext x k a d) (usesA x a d) p →
     exec (.ext x k a d) s = .next (s.effect (usesA x a d) p (fun q => q.setG d
       (match k.toNat with
         | 0 => ((p.gv a).setWidth 8).signExtend 64
         | 1 => ((p.gv a).setWidth 16).signExtend 64
         | 2 => ((p.gv a).setWidth 32).signExtend 64
         | 3 => ((p.gv a).setWidth 8).setWidth 64
         | 4 => ((p.gv a).setWidth 16).setWidth 64
         | _ => ((p.gv a).setWidth 32).setWidth 64)))) ∧
   (∀ (x : Bit) (l pos : BitVec 6) (a d : Reg) (s : State) (p : Pip), s.Ready (.bfx x l pos a d) (usesA x a d) p →
     exec (.bfx x l pos a d) s = .next (s.effect (usesA x a d) p (fun q => q.setG d
       (((p.gv a).extractLsb' pos.toNat (l.toNat + 1)).setWidth 64)))) ∧
   (∀ (i : BitVec 20) (d : Reg) (s : State) (p : Pip), s.Ready (.li i d) { gd := [d] } p →
     exec (.li i d) s = .next (s.effect { gd := [d] } p (fun q => q.setG d (i.signExtend 64)))) ∧
   (∀ (w y x : Bit) (n : Reg4) (b a d : Reg) (s : State) (p : Pip),
     s.Ready (.sel w y x n b a d) (usesR x y a b d) p →
     exec (.sel w y x n b a d) s = .next (s.effect (usesR x y a b d) p (fun q => q.setG d
       (atWidth w (fun _ u v => if (p.steer n.toNat).c then u else v) (p.gv a) (p.gv b))))) ∧
   (∀ (w y x : Bit) (b a d : Reg) (s : State) (p : Pip), s.Ready (.hash w y x b a d) (usesR x y a b d) p →
     exec (.hash w y x b a d) s = .next (s.effect (usesR x y a b d) p (fun q => q.setG d
       (let h := hash64 ((p.gv a).rotateLeft 17 ^^^ p.gv b)
        if w = 1 then (h.setWidth 32).signExtend 64 else h))))) ∧
  ((∀ (x : Bit) (l pos : BitVec 6) (a d : Reg) (s : State) (p : Pip),
     s.Ready (.bfi x l pos a d) { g := [a, d], gs := syncG x a, gd := [d] } p →
     ∃ v : Word, exec (.bfi x l pos a d) s =
         .next (s.effect { g := [a, d], gs := syncG x a, gd := [d] } p (fun q => q.setG d v)) ∧
       ∀ j < 64, v.getLsbD j =
         if pos.toNat ≤ j ∧ j ≤ pos.toNat + l.toNat then (p.gv a).getLsbD (j - pos.toNat) else (p.gv d).getLsbD j) ∧
   (∀ (h : BitVec 2) (i : BitVec 16) (d : Reg) (s : State) (p : Pip), s.Ready (.lih h i d) { g := [d], gd := [d] } p →
     ∃ v : Word, exec (.lih h i d) s = .next (s.effect { g := [d], gd := [d] } p (fun q => q.setG d v)) ∧
       ∀ j < 64, v.getLsbD j = if j / 16 = h.toNat then i.getLsbD (j % 16) else (p.gv d).getLsbD j)) ∧
  decode 0x0398848C = .ok (.bfx 0 7 12 8 9)

/-! ### Compares, steer registers and branches -/

/-- CMP, CMP.i and FCMP (R359, R371, R164) write the condition to bit C of the steer register and nothing else: for CMP on
all 64 bits, equal, not equal, less and not less, signed and unsigned, bit set and bit clear. -/
def Obligations.ComparesWriteTheConditionBit : Prop :=
  (∀ (c : BitVec 3) (b a : Reg) (e : Reg4) (s : State) (p : Pip), s.Ready (.cmp c b a e) { g := [a, b] } p →
    exec (.cmp c b a e) s = .next (s.effect { g := [a, b] } p (fun q => q.setSteer e.toNat { p.steer e.toNat with
      c := wordCondition c (p.gv a) (p.gv b) }))) ∧
  (∀ (c : BitVec 3) (i : BitVec 12) (a : Reg) (e : Reg4) (s : State) (p : Pip), s.Ready (.cmpI c i a e) { g := [a] } p →
    exec (.cmpI c i a e) s = .next (s.effect { g := [a] } p (fun q => q.setSteer e.toNat { p.steer e.toNat with
      c := wordCondition c (p.gv a) (i.signExtend 64) }))) ∧
  (∀ (c : BitVec 3) (f : Bit) (b a : Reg) (e : Reg4) (s : State) (p : Pip), s.Ready (.fcmp c f b a e) { g := [a, b] } p →
    ∃ r : Bool, exec (.fcmp c f b a e) s =
        .next (s.effect { g := [a, b] } p (fun q => q.setSteer e.toNat { p.steer e.toNat with c := r })) ∧
      (let t := if f = 1 then FType.f32 else FType.f64
       let u := decodeF t ((p.gv a).toNat % 2 ^ t.width)
       let v := decodeF t ((p.gv b).toNat % 2 ^ t.width)
       if u = .nan ∨ v = .nan then (r = true ↔ c = 1 ∨ c = 4)
       else r = match c.toNat with
         | 0 => compareVal u v == .eq
         | 1 => compareVal u v != .eq
         | 2 => compareVal u v == .lt
         | 3 => compareVal u v != .lt
         | 4 => false
         | _ => true))

/-- PREP and PREPR (R37) set the target half of the steer register; a PREPR whose target is no multiple of 4 traps MISALIGNED with
SR_TVAL the target. BR (R38), CALL (R355), RET (R418) and NOP (R170): where the PC goes, the return address in g1, and the
traps STEER_INVALID and MISALIGNED. -/
def Obligations.BranchesGoToTheTargetThatAPrepSet : Prop :=
  ((∀ (i : BitVec 20) (e : Reg4) (s : State) (p : Pip), s.Ready (.prep i e) {} p →
     exec (.prep i e) s = .next ((s.fetchAhead p (p.pc + (i.signExtend 64 <<< 2))).put
       (p.advance.setSteer e.toNat { p.steer e.toNat with tv := true, t := p.pc + (i.signExtend 64 <<< 2) }))) ∧
   (∀ (i : BitVec 12) (a : Reg) (e : Reg4) (s : State) (p : Pip), s.Ready (.prepr i a e) { g := [a] } p →
     let u : Uses := { g := [a] }
     let t := p.gv a + (i.signExtend 64 <<< 2)
     if t.extractLsb' 0 2 = 0 then
       exec (.prepr i a e) s = .next (((u.acquire p s).fetchAhead p t).put
         ((u.after p).setSteer e.toNat { p.steer e.toNat with tv := true, t := t }))
     else exec (.prepr i a e) s = .next (s.takeTrap s.cur p .misaligned false t))) ∧
  ((∀ (k : BitVec 2) (e : Reg4) (s : State) (p : Pip), s.Ready (.br k e) {} p →
     let b := p.steer e.toNat
     if k = 2 ∨ (k = 0 ∧ b.c = true) ∨ (k = 1 ∧ b.c = false) then
       if b.tv then exec (.br k e) s = .next (s.put { p with pc := b.t, cond := .ready })
       else exec (.br k e) s = .next (s.takeTrap s.cur p .steerInvalid false (e.setWidth 64))
     else exec (.br k e) s = .next (s.put { p with pc := p.pc + 4, cond := .ready })) ∧
   (∀ e : Reg4, (Instr.br 3 e).wf = false) ∧
   (∀ (e : Reg4) (s : State) (p : Pip), s.Ready (.call e) { gd := [1] } p →
     let b := p.steer e.toNat
     if b.tv then exec (.call e) s = .next (s.put { (p.setG 1 (p.pc + 4)) with pc := b.t, cond := .ready })
     else exec (.call e) s = .next (s.takeTrap s.cur p .steerInvalid false (e.setWidth 64))) ∧
   (∀ (s : State) (p : Pip), s.Ready .ret { g := [1] } p →
     let u : Uses := { g := [1] }
     if (p.gv 1).extractLsb' 0 2 = 0 then
       exec .ret s = .next (s.effect u p (fun q => { q with pc := p.gv 1 }))
     else exec .ret s = .next (s.takeTrap s.cur p .misaligned false (p.gv 1))) ∧
   (∀ (s : State) (p : Pip), s.Ready .nop {} p →
     exec .nop s = .next (s.put { p with pc := p.pc + 4, cond := .ready })))

/-! ### Floating point (chapter 14) -/

/-- FADD, FSUB, FMUL, FDIV, FSQRT and FFMA (R369, R375, R133): the exact result, rounded once by RM to f64 or f32; FDIV and FSQRT
belong to the full-bit class; that they raise their flags at issue is the model's reading (log entry 41). FMIN and FMAX (R376, R372) return an operand, or the canonical
NaN for two NaNs, and raise no flag; FCVT (R373) converts by RM between the type that w names and the other one. -/
def Obligations.ScalarFloatRoundsTheExactResultOnce : Prop :=
  (RoundsOfTwo .fadd (fun m u v => addVal u v m) ∧ RoundsOfTwo .fsub (fun m u v => addVal u v.negate m) ∧
   RoundsOfTwo .fmul (fun _ u v => mulVal u v) ∧
   (∀ (w y x : Bit) (b a d : Reg) (s : State) (p : Pip),
     s.Ready (.fdiv w y x b a d) { usesR x y a b d with fullBit := true } p →
     let ft := floatType w
     let r := (divVal (p.operand ft (p.gv a)) (p.operand ft (p.gv b))).round ft p.rm false p.ftz
     exec (.fdiv w y x b a d) s = .next (s.effect (usesR x y a b d) p (fun q => (q.addFlags r.2).issue
       { id := 0, kind := .pure, dest := .g d, born := s.cycle, phase := .done,
         result := (scalarWord ft r.1).setWidth 512 }))) ∧
   (∀ (w x : Bit) (a d : Reg) (s : State) (p : Pip), s.Ready (.fsqrt w x a d) { usesA x a d with fullBit := true } p →
     let ft := floatType w
     let r := (sqrtVal (p.operand ft (p.gv a))).round ft p.rm false p.ftz
     exec (.fsqrt w x a d) s = .next (s.effect (usesA x a d) p (fun q => (q.addFlags r.2).issue
       { id := 0, kind := .pure, dest := .g d, born := s.cycle, phase := .done,
         result := (scalarWord ft r.1).setWidth 512 }))) ∧
   (∀ (w y x : Bit) (c b a d : Reg) (s : State) (p : Pip) (u : Uses),
     u = { g := [a, b, c], gs := syncG x a ++ syncG y b, gd := [d] } → s.Ready (.ffma w y x c b a d) u p →
     let ft := floatType w
     let r := (fmaVal (p.operand ft (p.gv a)) (p.operand ft (p.gv b)) (p.operand ft (p.gv c)) p.rm).round ft p.rm false p.ftz
     exec (.ffma w y x c b a d) s = .next (s.effect u p (fun q => (q.setG d (scalarWord ft r.1)).addFlags r.2)))) ∧
  ((∀ (w y x : Bit) (b a d : Reg) (s : State) (p : Pip), s.Ready (.fmin w y x b a d) (usesR x y a b d) p →
     ∃ r : Nat, exec (.fmin w y x b a d) s =
         .next (s.effect (usesR x y a b d) p (fun q => q.setG d (scalarWord (floatType w) r))) ∧
       ExtremeOf (floatType w) p.ftz (fun u v => lessF (floatType w) u v)
         ((p.gv a).toNat % 2 ^ (floatType w).width) ((p.gv b).toNat % 2 ^ (floatType w).width) r) ∧
   (∀ (w y x : Bit) (b a d : Reg) (s : State) (p : Pip), s.Ready (.fmax w y x b a d) (usesR x y a b d) p →
     ∃ r : Nat, exec (.fmax w y x b a d) s =
         .next (s.effect (usesR x y a b d) p (fun q => q.setG d (scalarWord (floatType w) r))) ∧
       ExtremeOf (floatType w) p.ftz (fun u v => lessF (floatType w) v u)
         ((p.gv a).toNat % 2 ^ (floatType w).width) ((p.gv b).toNat % 2 ^ (floatType w).width) r) ∧
   (∀ (w x sat back : Bit) (t : BitVec 3) (a d : Reg) (s : State) (p : Pip),
     s.Ready (.fcvt w x sat back t a d) (usesA x a d) p →
     let here := ScalarType.flt (floatType w)
     let src := if back = 1 then scalarType t else here
     let dst := if back = 1 then here else scalarType t
     let r := convertScalar src dst (p.gv a).toNat p.rm (sat == 1) p.ftz
     exec (.fcvt w x sat back t a d) s =
       .next (s.effect (usesA x a d) p (fun q => (q.setG d (convertedWord dst r.1)).addFlags r.2))))

/-! ### Vectors (chapter 17) -/

/-- The arithmetic group and VBIT on integer lanes (R435, R436): every lane wraps; larger and smaller are signed for s types
and unsigned for z types; a shift takes its amount modulo the lane width. -/
def Obligations.IntegerLanesAreComputedLaneByLane : Prop :=
  LanesOfTwo .vadd (fun _ u v => u + v) ∧ LanesOfTwo .vsub (fun _ u v => u - v) ∧ LanesOfTwo .vmul (fun _ u v => u * v) ∧
  LanesOfTwo .vmax (fun t u v => if laneSigned t then (if u.slt v then v else u) else (if u.ult v then v else u)) ∧
  LanesOfTwo .vmin (fun t u v => if laneSigned t then (if v.slt u then v else u) else (if v.ult u then v else u)) ∧
  LanesOfTwo .vbitAnd (fun _ u v => u &&& v) ∧ LanesOfTwo .vbitOr (fun _ u v => u ||| v) ∧
  LanesOfTwo .vbitXor (fun _ u v => u ^^^ v) ∧ LanesOfTwo .vbitAndn (fun _ u v => u &&& ~~~v) ∧
  LanesOfTwo .vshfL (fun t u v => u <<< (v.toNat % laneWidth t)) ∧
  LanesOfTwo .vshfR (fun t u v => u >>> (v.toNat % laneWidth t)) ∧
  LanesOfTwo .vshfRa (fun t u v => u.sshiftRight (v.toNat % laneWidth t))

/-- The arithmetic group and VFMA on floating-point lanes (R435, R436, R441, R154): each lane is rounded once to the lane
type, and each flag is the OR over the lanes; VMAX and VMIN compare and do not round. That VEXP, VRCP and VRSQ raise their
flags at issue is the model's reading (log entry 41). -/
def Obligations.FloatLanesAreRoundedLaneByLane : Prop :=
  FloatLanesOfTwo .vadd (fun m u v => addVal u v m) ∧ FloatLanesOfTwo .vsub (fun m u v => addVal u v.negate m) ∧
  FloatLanesOfTwo .vmul (fun _ u v => mulVal u v) ∧
  FloatLanesOfOne .vexp exp2Val ∧ FloatLanesOfOne .vrcp recipVal ∧ FloatLanesOfOne .vrsq rsqrtVal ∧
  (∀ (t : Reg4) (y : Bit) (b : Reg4) (x : Bit) (a d : Reg4) (s : State) (p : Pip) (ft : FType), laneFloat t = some ft →
    (s.Ready (.vmax t y b x a d) (usesV x y a b d) p →
      ∃ r : VWord, exec (.vmax t y b x a d) s = .next (s.effect (usesV x y a b d) p (fun q => q.setV d r)) ∧
        ∀ i < laneCount t, ExtremeOf ft p.ftz (fun u v => lessF ft v u) (lane t (p.vv a) i).toNat (lane t (p.vv b) i).toNat
          (lane t r i).toNat) ∧
    (s.Ready (.vmin t y b x a d) (usesV x y a b d) p →
      ∃ r : VWord, exec (.vmin t y b x a d) s = .next (s.effect (usesV x y a b d) p (fun q => q.setV d r)) ∧
        ∀ i < laneCount t, ExtremeOf ft p.ftz (fun u v => lessF ft u v) (lane t (p.vv a) i).toNat (lane t (p.vv b) i).toNat
          (lane t r i).toNat)) ∧
  (∀ (t : Reg4) (y : Bit) (b : Reg4) (x : Bit) (a d : Reg4) (s : State) (p : Pip) (ft : FType) (u : Uses),
    u = { v := [a, b, d], vs := syncV x a ++ syncV y b, vd := [d] } → laneFloat t = some ft →
    s.Ready (.vfma t y b x a d) u p →
    ∃ (r : VWord) (fl : FFlags),
      exec (.vfma t y b x a d) s = .next (s.effect u p (fun q => (q.setV d r).addFlags fl)) ∧
      LanesAre t r fl (fun i => (fmaVal (p.lane ft (lane t (p.vv a) i).toNat) (p.lane ft (lane t (p.vv b) i).toNat)
        (p.lane ft (lane t (p.vv d) i).toNat) p.rm).round ft p.rm false p.ftz))

/-- VCVT (R440): the leading lanes are converted one by one, every lane beyond them becomes zero; integers to integers
saturate, and floats to integers too. -/
def Obligations.VectorConversionsConvertTheLeadingLanes : Prop :=
  ∀ (u : Bit) (src dst : Reg4) (x : Bit) (a v : Reg4) (s : State) (p : Pip),
    let n := 512 / Nat.max (laneWidth src) (laneWidth dst)
    let sat := u == 1 || (laneFloat dst).isNone
    s.Ready (.vcvt u src dst x a v) { v := [a], vs := syncV x a, vd := [v] } p →
    ∃ (r : VWord) (fl : FFlags),
      exec (.vcvt u src dst x a v) s =
        .next (s.effect { v := [a], vs := syncV x a, vd := [v] } p (fun q => (q.setV v r).addFlags fl)) ∧
      LanesAre dst r fl (fun i => if n ≤ i then (0, {}) else
        convertScalar (laneScalar src) (laneScalar dst) (lane src (p.vv a) i).toNat p.rm sat p.ftz)

/-- VCMP, VSEL, VPERM, VCOMP, VBCAST and the forms of VMOV (R438, R446, R444, R439, R437, R443), lane by lane. -/
def Obligations.LanesAreSelectedMovedAndCompared : Prop :=
  (∀ (all : Bit) (c : BitVec 3) (t : Reg4) (y : Bit) (b : Reg4) (x : Bit) (a e : Reg4) (s : State) (p : Pip) (u : Uses),
    u = { v := [a, b], vs := syncV x a ++ syncV y b } → s.Ready (.vcmp all c t y b x a e) u p →
    ∃ r : Bool, exec (.vcmp all c t y b x a e) s =
        .next (s.effect u p (fun q => q.setSteer e.toNat { p.steer e.toNat with c := r })) ∧
      (r = true ↔ if all = 1 then ∀ i < laneCount t, laneCond t c.toNat (lane t (p.vv a) i).toNat (lane t (p.vv b) i).toNat = true
        else ∃ i < laneCount t, laneCond t c.toNat (lane t (p.vv a) i).toNat (lane t (p.vv b) i).toNat = true)) ∧
  (∀ (m t : Reg4) (y : Bit) (b : Reg4) (x : Bit) (a d : Reg4) (s : State) (p : Pip) (u : Uses),
    u = { v := [a, b, m], vs := syncV x a ++ syncV y b, vd := [d] } → s.Ready (.vsel m t y b x a d) u p →
    ∃ r : VWord, exec (.vsel m t y b x a d) s = .next (s.effect u p (fun q => q.setV d r)) ∧
      ∀ i < laneCount t, lane t r i = if lane t (p.vv m) i = 0 then lane t (p.vv b) i else lane t (p.vv a) i) ∧
  (∀ (t : Reg4) (y : Bit) (b : Reg4) (x : Bit) (a d : Reg4) (s : State) (p : Pip),
    (s.Ready (.vperm t y b x a d) (usesV x y a b d) p →
      ∃ r : VWord, exec (.vperm t y b x a d) s = .next (s.effect (usesV x y a b d) p (fun q => q.setV d r)) ∧
        ∀ i < laneCount t, lane t r i = lane t (p.vv a) ((lane t (p.vv b) i).toNat % laneCount t)) ∧
    (s.Ready (.vcomp t y b x a d) (usesV x y a b d) p →
      ∃ r : VWord, exec (.vcomp t y b x a d) s = .next (s.effect (usesV x y a b d) p (fun q => q.setV d r)) ∧
        let chosen := (List.range (laneCount t)).filter (fun i => lane t (p.vv b) i != 0)
        ∀ i < laneCount t, lane t r i = (chosen[i]?).elim 0 (fun j => lane t (p.vv a) j))) ∧
  (∀ (t : Reg4) (g : Reg) (d : Reg4) (s : State) (p : Pip), s.Ready (.vbcast t g d) { g := [g], vd := [d] } p →
    ∃ r : VWord, exec (.vbcast t g d) s = .next (s.effect { g := [g], vd := [d] } p (fun q => q.setV d r)) ∧
      ∀ i < laneCount t, lane t r i = (p.gv g).setWidth (laneWidth t)) ∧
  (∀ (t : Reg4) (x : Bit) (a d : Reg4) (s : State) (p : Pip),
    s.Ready (.vmov t x a d) { v := [a], vs := syncV x a, vd := [d] } p →
    exec (.vmov t x a d) s =
      .next (s.effect { v := [a], vs := syncV x a, vd := [d] } p (fun q => q.setV d (p.vv a)))) ∧
  (∀ (t : Reg4) (l g : Reg) (d : Reg4) (s : State) (p : Pip),
    s.Ready (.vmovIns t l g d) { g := [g], v := [d], vd := [d] } p →
    ∃ r : VWord, exec (.vmovIns t l g d) s = .next (s.effect { g := [g], v := [d], vd := [d] } p (fun q => q.setV d r)) ∧
      ∀ i < laneCount t, lane t r i = if i = l.toNat then (p.gv g).setWidth (laneWidth t) else lane t (p.vv d) i) ∧
  (∀ (t : Reg4) (l : Reg) (a : Reg4) (g : Reg) (s : State) (p : Pip),
    s.Ready (.vmovExt t l a g) { v := [a], gd := [g] } p →
    exec (.vmovExt t l a g) s = .next (s.effect { v := [a], gd := [g] } p (fun q => q.setG g
      (if laneSigned t ∨ t = 0 then (lane t (p.vv a) l.toNat).signExtend 64 else (lane t (p.vv a) l.toNat).setWidth 64))))

/-- VMAXI (R442) finds the lowest lane that no lane is above and writes its value, the lane of vb beside it and its number;
VRED (R445) reduces every lane into lane 0, and both write zero to the lanes beyond. That VMAXI reads an f32 subnormal as
zero under FTZ follows R133; that VRED raises its flags at issue is the model's reading (log entry 41). -/
def Obligations.ReductionsLookAtEveryLane : Prop :=
  (∀ (t : Reg4) (y : Bit) (b : Reg4) (x : Bit) (a d : Reg4) (s : State) (p : Pip),
    s.Ready (.vmaxi t y b x a d) (usesV x y a b d) p →
    let val := fun i => flushBits (if t = 0 then .f32 else .f64) p.ftz (lane t (p.vv a) i).toNat
    ∃ (r : VWord) (j : Nat), exec (.vmaxi t y b x a d) s = .next (s.effect (usesV x y a b d) p (fun q => q.setV d r)) ∧
      j < laneCount t ∧ (∀ i < laneCount t, laneAbove t (val i) (val j) = false) ∧
      (∀ i < j, laneAbove t (val j) (val i) = true) ∧
      lane t r 0 = BitVec.ofNat _ (val j) ∧ lane t r 1 = lane t (p.vv b) j ∧ lane t r 2 = BitVec.ofNat _ j ∧
      ∀ i < laneCount t, 3 ≤ i → lane t r i = 0) ∧
  (∀ (o : BitVec 3) (t : Reg4) (x : Bit) (a d : Reg4) (s : State) (p : Pip),
    s.Ready (.vred o t x a d) { v := [a], vs := syncV x a, vd := [d], fullBit := true } p →
    let lanes := (List.range (laneCount t)).map (fun i => (lane t (p.vv a) i).toNat)
    ∃ (r : VWord) (fl : FFlags),
      exec (.vred o t x a d) s = .next (s.effect { v := [a], vs := syncV x a, vd := [d] } p (fun q => (q.addFlags fl).issue
        { id := 0, kind := .pure, dest := .v d, born := s.cycle, phase := .done, result := r })) ∧
      (∀ i < laneCount t, 1 ≤ i → lane t r i = 0) ∧
      (∀ ft, o = 0 → laneFloat t = some ft →
        let z := (sumLanes (lanes.map (p.lane ft))).round ft p.rm false p.ftz
        lane t r 0 = BitVec.ofNat _ z.1 ∧ fl = z.2) ∧
      (o = 0 → laneFloat t = none → lane t r 0 = BitVec.ofNat _ lanes.sum ∧ fl = {}) ∧
      (o ≠ 0 → fl = {} ∧
        lane t r 0 = BitVec.ofNat _ (lanes.tail.foldl (minMaxLane t p.ftz (o == 1)) (lanes.headD 0))))

/-! ### Order of examination, parking, frames -/

/-- A word of a pip instruction whose fields are out of range traps ILLEGAL_INSTRUCTION with SR_TVAL the word; a privileged one in
mode U traps PRIVILEGED with SR_TVAL the word (R161, R311). An instruction with an empty source, with a destination whose
operation is outstanding, or that would be the seventeenth operation of the full-bit class, parks (R31, R30). Nothing else
has happened. -/
def Obligations.ExaminationComesBeforeAnyEffect : Prop :=
  (∀ (i : Instr) (u : Uses) (s : State) (p : Pip), s.pip s.cur = some p → i.uses p = some u →
     (i.wf = false → exec i s = .next (s.takeTrap s.cur p .illegal false (word i.word))) ∧
     (i.wf = true → u.priv = true → p.mode = false →
       exec i s = .next (s.takeTrap s.cur p .privileged false (word i.word)))) ∧
  (∀ (i : Instr) (u : Uses) (s : State) (p : Pip), s.pip s.cur = some p → i.uses p = some u → i.wf = true →
     (u.priv = true → p.mode = true) →
     ((∃ r ∈ u.g, p.gf r = false) ∨ (∃ r ∈ u.v, p.vf r = false) →
       exec i s = .next (s.put { p with cond := .parked (.sources u.g u.v) })) ∧
     ((∀ r ∈ u.g, p.gf r = true) → (∀ r ∈ u.v, p.vf r = true) →
       ((∃ r ∈ u.gd, p.gBusy r = true) ∨ (∃ r ∈ u.vd, p.vBusy r = true) →
         exec i s = .next (s.put { p with cond := .parked (.written u.gd u.vd) })) ∧
       ((∀ r ∈ u.gd, p.gBusy r = false) → (∀ r ∈ u.vd, p.vBusy r = false) → u.fullBit = true → 16 ≤ p.fullBits →
         exec i s = .next (s.put { p with cond := .parked .slots }))))

/-- The frame of the instructions on registers that raise no flag (R334, R31): only the destination changes its value, no
flag changes, and the destination ends full. -/
def Obligations.PlainInstructionsChangeOnlyTheirDestination : Prop :=
  ∀ (i : Instr) (u : Uses) (s : State) (p : Pip), i.plain = true → i.uses p = some u → s.Ready i u p →
    ∃ t q, exec i s = .next t ∧ s.OnlyRegisters u p t q ∧ q.fpmode = p.fpmode ∧ q.ops = p.ops ∧ u.FullBits false p q

/-- The frame of the instructions that round and write at issue, and of those of the full-bit class: beside the destination only
the sticky flags may rise, and an operation joins those outstanding. -/
def Obligations.RoundingInstructionsChangeOnlyDestinationAndFlags : Prop :=
  ∀ (i : Instr) (u : Uses) (s : State) (p : Pip), i.uses p = some u → s.Ready i u p →
    (i.rounding = true → ∃ t q, exec i s = .next t ∧ s.OnlyRegisters u p t q ∧ q.ops = p.ops ∧ u.FullBits false p q) ∧
    (i.later = true → ∃ t q, exec i s = .next t ∧ s.OnlyRegisters u p t q ∧ u.FullBits true p q ∧
      (∀ r, q.gv r = p.gv r) ∧ (∀ r, q.vv r = p.vv r) ∧ ∃ o, q.ops = p.ops ++ [o] ∧ o.fullBit = true ∧ o.phase = .done)

/-- The frame of the instructions that only issue an operation (loads, stores, atomics, fences, barriers, waits, commands): they
trap with no other effect, or with the REFUSED bit of the sealed pod of one granule (R89), park, or change no register's
value, no special register and no byte of memory at issue (R99). -/
def Obligations.IssuingAnAccessChangesNoValue : Prop :=
  ∀ (i : Instr) (u : Uses) (s : State) (p : Pip), i.access = true → i.uses p = some u → s.Ready i u p →
    ∃ t, exec i s = .next t ∧
      ((∃ (s' : State) (c : Cause) (v : Word), t = s'.takeTrap s.cur p c false v ∧
          (s' = s ∨ ∃ g, s' = s.setCluster s.curCl ((s.cluster s.curCl).markRefused g))) ∨
        (∃ why, t = s.put { p with cond := .parked why }) ∨ ∃ q, s.Issued u p t q)

/-! ### Traps and status registers (chapters 11 and 13) -/

/-- ECALL and BRK (R366, R354): they trap precisely, with cause ECALL_U or ECALL_S by the mode, or BREAKPOINT, and value 0. A word of
theirs with a nonzero bit in [31:7] is no instruction. -/
def Obligations.SystemCallsAndBreakpointsTakeTheirTrap : Prop :=
  (∀ (s : State) (p : Pip),
    (s.Ready .ecall {} p → ∃ t, exec .ecall s = .next t ∧
      s.Traps s.cur p (if p.status.getLsbD 0 then 9 else 8) false 0 t ∧ ∀ q, t.pip s.cur = some q → q.ipend = p.ipend) ∧
    (s.Ready .brk {} p → ∃ t, exec .brk s = .next t ∧ s.Traps s.cur p 10 false 0 t ∧
      ∀ q, t.pip s.cur = some q → q.ipend = p.ipend)) ∧
  ∀ w : Nat, w % 128 = 0x78 ∨ w % 128 = 0x7A → 128 ≤ w → w < 2 ^ 32 → ∃ e, decode w = .error e

/-- TRAP_ENTRY (R313, R315, R311): of what is pending at an instruction boundary the pip takes a deferred trap first, then
ENGINE_REJECT, and with IE = 1 ENGINE_ERROR, REMOTE_REFUSED, TIMER and MESSAGE in this order; the bit of what it takes
is cleared in SR_IPEND unless it is TIMER's. With nothing to take, nothing happens. -/
def Obligations.PendingEventsAreTakenInTheirOrder : Prop :=
  ∀ (k : Nat) (s : State) (p : Pip), s.pip k = some p → p.held = false → p.cond ≠ .idle → p.cond ≠ .inTransit →
    (∀ c a, p.deferredTrap = some (c, a) → c = 3 ∨ c = 4) →
    (p.eret ≠ none → exec (.trapEntry k) s = .next s) ∧ (p.eret = none →
    let take := fun (code : Nat) (val : Word) (bit : Option Nat) =>
      ∃ t, exec (.trapEntry k) s = .next t ∧ s.Traps k { p with deferredTrap := none } code true val t ∧
        (p.tvec >>> 2 ≠ 0 → ∀ q, t.pip k = some q →
          ∀ n, q.ipend.getLsbD n = (p.ipend.getLsbD n && bit != some n))
    match p.deferredTrap with
    | some (c, a) => take c a none
    | none =>
      if p.ipend.getLsbD 4 then take 0x0C p.rejectVal (some 4)
      else if p.status.getLsbD 1 = false then exec (.trapEntry k) s = .next s
      else if p.ipend.getLsbD 3 then take 0x0E p.engerrVal (some 3)
      else if p.ipend.getLsbD 2 then take 0x0B p.refusedVal (some 2)
      else if p.ipend.getLsbD 0 then take 0x10 0 none
      else if p.ipend.getLsbD 1 then take 0x11 0 (some 1)
      else exec (.trapEntry k) s = .next s)

/-- ERET (R317): without replay entries it restores the PC from SR_TPC, PRIV from PPRIV and IE from PIE, clears PPRIV and PIE, and
changes nothing else; with replay entries it performs them again first, each before the next, and parks at the ERET while one has to
wait. A system call and the return from its handler bring
back the PC, the mode and IE of the caller (R315). -/
def Obligations.ReturnRestoresPcModeAndInterruptEnable : Prop :=
  (∀ (s : State) (p : Pip), s.Ready .eret { priv := true } p →
     (∀ n ns, p.eret.getD p.replayOps = n :: ns →
       let u := s.replay s.cur n
       (u.replayOver s.cur n = true → exec .eret s = .next (u.eretGoOn s.cur ns)) ∧
       (u.replayOver s.cur n = false → ∀ q, u.pip s.cur = some q →
         exec .eret s = .next (u.setPip s.cur { q with eret := some ns, cond := .parked (.replay n) }))) ∧
     (p.eret.getD p.replayOps = [] → exec .eret s = .next (s.put { p with
       pc := p.tpc, status := returnStatus p.status, cond := .ready, eret := none })) ∧
     (p.replays = false → p.eret = none → ∃ q, exec .eret s = .next (s.put q) ∧ q = { p with pc := p.tpc, status := q.status, cond := .ready } ∧
       q.status.getLsbD 0 = p.status.getLsbD 5 ∧ q.status.getLsbD 1 = p.status.getLsbD 6 ∧
       q.status.getLsbD 5 = false ∧ q.status.getLsbD 6 = false ∧
       ∀ n, n ≠ 0 → n ≠ 1 → n ≠ 5 → n ≠ 6 → q.status.getLsbD n = p.status.getLsbD n)) ∧
  (∀ (s : State) (p : Pip), s.Ready .ecall {} p → p.tvec >>> 2 ≠ 0 → p.replays = false → p.eret = none →
     ∃ t u q, exec .ecall s = .next t ∧ exec .eret t = .next u ∧ u.pip s.cur = some q ∧
       q.pc = p.pc ∧ q.mode = p.mode ∧ q.ie = p.ie ∧ q.g = p.g ∧ q.gFull = p.gFull ∧ q.v = p.v ∧ q.b = p.b)

/-- WFI (R318) parks until an event is pending, and goes on at once when one is; PAUSE (R403) parks for 64 cycles, or goes
on at once. -/
def Obligations.WaitingParksUnlessAnEventIsPending : Prop :=
  ∀ (s : State) (p : Pip),
    (s.Ready .wfi { priv := true } p → exec .wfi s = .next (s.put { p with
      pc := p.pc + 4, cond := if p.deferredTrap.isSome ∨ p.ipend.setWidth 5 ≠ 0 then .ready else .parked .wfi })) ∧
    (s.Ready .pause {} p → exec .pause s = .next (s.put { p with
      pc := p.pc + 4,
      cond := if p.deferredTrap.isSome ∨ p.ipend.setWidth 5 ≠ 0 then .ready else .parked (.pause (s.cycle + 64)) }))

/-- MFS (R395, R319): the value of every register of the map; SR_SLOT names the slot, the cluster, the die and the module's rank
(R27), SR_TIME is the cluster's reading of global time, SR_IPEND.TIMER says whether that has reached SR_TCMP, and
SR_RAMPDOWN counts the filler MMAs in its upper half, in units of 65,536 (R329). -/
def Obligations.StatusRegistersReadTheirValue : Prop :=
  ∀ (n : BitVec 12) (d : Reg) (s : State) (p : Pip), s.Ready (.mfs n d) { gd := [d], priv := noneInU n.toNat } p →
    ∃ v : Word, exec (.mfs n d) s = .next (s.effect { gd := [d], priv := noneInU n.toNat } p (fun q => q.setG d v)) ∧
      (n = 0x000 → v = p.status) ∧ (n = 0x001 → v = p.pipid) ∧ (n = 0x003 → v = p.coord) ∧ (n = 0x004 → v = p.extent) ∧
      (n = 0x002 → v.setWidth 8 = BitVec.ofNat 8 s.cur ∧ v.extractLsb' 8 14 = BitVec.ofNat 14 (s.cur / 256) ∧
        ∀ r, s.curCl < 16384 → (s.jobOf (s.jobOfLaunch p.launch)).ownRank = r → r < 65536 →
          v.extractLsb' 22 16 = BitVec.ofNat 16 r ∧ v.extractLsb' 38 26 = 0) ∧
      (n = 0x005 → v.setWidth 32 = p.launch ∧
        ∀ l, s.launch p.launch = some l → l.prio < 64 → v.extractLsb' 32 32 = BitVec.ofNat 32 l.prio) ∧
      (n = 0x008 → v = BitVec.ofNat 64 (s.timeAt s.curCl)) ∧ (n = 0x009 → v = p.tcmp) ∧ (n = 0x010 → v = p.tvec) ∧
      (n = 0x011 → v = p.tcause) ∧ (n = 0x012 → v = p.tval) ∧ (n = 0x013 → v = p.tpc) ∧
      (n = 0x014 → (v.getLsbD 0 = true ↔ p.tcmp.toNat ≤ s.timeAt s.curCl) ∧ ∀ k, k ≠ 0 → v.getLsbD k = p.ipend.getLsbD k) ∧
      (n = 0x015 → v = p.msg) ∧ (n = 0x016 → v = p.hsave) ∧ (n = 0x018 → v = p.asid.setWidth 64) ∧
      (n = 0x020 → v = p.fpmode) ∧ (n = 0x021 → v = p.refused) ∧ (n = 0x022 → v = p.engerr) ∧
      (n = 0x030 → v = BitVec.ofNat 64 ((s.cluster s.curCl).spres - (s.cluster s.curCl).podBytes)) ∧
      (n = 0x031 → v = BitVec.ofNat 64 (s.cluster s.curCl).spres) ∧
      (n = 0x040 → v = (s.cluster s.curCl).lvlInt) ∧ (n = 0x041 → v = (s.cluster s.curCl).muCheck) ∧
      (n = 0x042 → v = (s.cluster s.curCl).pBound) ∧ (n = 0x050 → v = s.age) ∧ (n = 0x051 → v = s.preemptWait) ∧
      (n = 0x058 → v = s.rampUp) ∧
      (n = 0x059 → v.setWidth 32 = s.rampDown.setWidth 32 ∧ v.extractLsb' 32 32 = BitVec.ofNat 32 (s.fillers / 65536))

/-- MTS to the pip's registers (R400, R26, R320, R243, R132): an RW field takes the written bits, an RO field ignores them, a W1C
bit is cleared by a 1; in mode U SR_STATUS takes AE, MG and VL only. With REPLAY written 0 in SR_TCAUSE while replay entries
are held (R316), each load or atomic among them writes 0 to its destination and sets it full, and no entry is left. -/
def Obligations.StatusWritesGoFieldByField : Prop :=
  ((∀ (x : Bit) (n : BitVec 12) (a : Reg) (s : State) (p : Pip),
     s.Ready (.mts x n a) (mtsUses x a (!writableInU n.toNat)) p →
     exec (.mts x n a) s = .next (s.effect (mtsUses x a (!writableInU n.toNat)) p (fun q =>
       if n = 0x010 then { q with tvec := (p.gv a >>> 2) <<< 2 } else if n = 0x012 then { q with tval := p.gv a }
       else if n = 0x013 then { q with tpc := (p.gv a >>> 2) <<< 2 } else if n = 0x016 then { q with hsave := p.gv a }
       else if n = 0x020 then { q with fpmode := ((p.gv a).setWidth 8).setWidth 64 }
       else if n = 0x021 then { q with refused := p.gv a } else q))) ∧
   (∀ (x : Bit) (a : Reg) (s : State) (p : Pip), s.Ready (.mtsSrStatus x a) (mtsUses x a false) p →
     ∃ v : Word, exec (.mtsSrStatus x a) s = .next (s.effect (mtsUses x a false) p (fun q => { q with status := v })) ∧
       ∀ k, v.getLsbD k = if 2 ≤ k ∧ k ≤ 4 ∨ p.status.getLsbD 0 = true ∧ k ≤ 6 then (p.gv a).getLsbD k else p.status.getLsbD k) ∧
   (∀ (x : Bit) (a : Reg) (s : State) (p : Pip), s.Ready (.mtsSrTcmp x a) (mtsUses x a false) p →
     exec (.mtsSrTcmp x a) s = .next (s.effect (mtsUses x a false) p (fun q => { q with tcmp := p.gv a }))) ∧
   (∀ (x : Bit) (a : Reg) (s : State) (p : Pip), s.Ready (.mtsSrIpend x a) (mtsUses x a true) p →
     ∃ v : Word, exec (.mtsSrIpend x a) s = .next (s.effect (mtsUses x a true) p (fun q => { q with ipend := v })) ∧
       ∀ k, v.getLsbD k = (p.ipend.getLsbD k && !(decide (1 ≤ k ∧ k ≤ 4) && (p.gv a).getLsbD k))) ∧
   (∀ (x : Bit) (a : Reg) (s : State) (p : Pip), s.Ready (.mtsSrAsid x a) (mtsUses x a true) p →
     exec (.mtsSrAsid x a) s = .next (s.effect (mtsUses x a true) p (fun q => { q with asid := (p.gv a).setWidth 16 }))) ∧
   (∀ (x : Bit) (a : Reg) (s : State) (p : Pip), s.Ready (.mtsSrEngerr x a) (mtsUses x a false) p →
     ∃ v : Word, exec (.mtsSrEngerr x a) s = .next (s.effect (mtsUses x a false) p (fun q => { q with engerr := v })) ∧
       ∀ k, v.getLsbD k = (p.engerr.getLsbD k && !(decide (k ≤ 1) && (p.gv a).getLsbD k)))) ∧
  (∀ (x : Bit) (a : Reg) (s : State) (p : Pip), s.Ready (.mtsSrTcause x a) (mtsUses x a true) p →
     (p.replays = false ∨ (p.gv a).getLsbD 9 = true →
       exec (.mtsSrTcause x a) s =
         .next (s.effect (mtsUses x a true) p (fun q => { q with tcause := ((p.gv a).setWidth 10).setWidth 64 }))) ∧
     (p.replays = true → (p.gv a).getLsbD 9 = false → ∃ t q, exec (.mtsSrTcause x a) s = .next t ∧ t.pip s.cur = some q ∧
       q.replays = false ∧ q.deferredTrap = none ∧ q.tcause = ((p.gv a).setWidth 10).setWidth 64 ∧
       (∀ o ∈ p.ops, o.isDeferred = true → ∀ r : Reg, o.dest = .g r → q.gv r = 0 ∧ q.gf r = true) ∧
       ∀ o ∈ p.ops, o.isDeferred = true → ∀ r : Reg4, o.dest = .v r → q.vv r = 0 ∧ q.vf r = true))

/-- MTS to the registers of the cluster and of the module (R400, R27, R206, R223, R301, R329): each takes its RW bits; the
die controllers adopt SR_AGE and SR_PREEMPTWAIT within 1,200 cycles; that each applies till then what it had is the model's reading
(log entry 47). -/
def Obligations.ClusterAndModuleRegistersTakeTheirFields : Prop :=
  (∀ (x : Bit) (a : Reg) (s : State) (p : Pip) (u : Uses), u = mtsUses x a true →
    let t := s.effect u p id
    let c := (u.acquire p s).cluster s.curCl
    (s.Ready (.mtsSrLvlint x a) u p → exec (.mtsSrLvlint x a) s =
      .next (t.setCluster s.curCl { c with lvlInt := ((p.gv a).setWidth 16).setWidth 64 })) ∧
    (s.Ready (.mtsSrPbound x a) u p → exec (.mtsSrPbound x a) s =
      .next (t.setCluster s.curCl { c with pBound := ((p.gv a).setWidth 24).setWidth 64 })) ∧
    (s.Ready (.mtsSrRampup x a) u p → exec (.mtsSrRampup x a) s =
      .next { t with rampUp := ((p.gv a).setWidth 16).setWidth 64 }) ∧
    (s.Ready (.mtsSrRampdown x a) u p → exec (.mtsSrRampdown x a) s =
      .next { t with rampDown := ((p.gv a).setWidth 16).setWidth 64 }) ∧
    (s.Ready (.mtsSrAge x a) u p → ∃ r, exec (.mtsSrAge x a) s = .next r ∧ r.pips = t.pips ∧ r.hbm = s.hbm ∧
      r.age = ((p.gv a).setWidth 32).setWidth 64 ∧ r.preemptWait = s.preemptWait ∧ (∀ die < 64, r.schedOf die = s.schedOf die) ∧
      r.adoptBy = some (s.adoptBy.getD (s.cycle + 1200)) ∧ ∀ die < 64, (r.adopt die).schedOf die = (r.age, r.preemptWait)) ∧
    (s.Ready (.mtsSrPreemptwait x a) u p → ∃ r, exec (.mtsSrPreemptwait x a) s = .next r ∧ r.pips = t.pips ∧ r.hbm = s.hbm ∧
      r.preemptWait = p.gv a ∧ r.age = s.age ∧ (∀ die < 64, r.schedOf die = s.schedOf die) ∧
      r.adoptBy = some (s.adoptBy.getD (s.cycle + 1200)) ∧ ∀ die < 64, (r.adopt die).schedOf die = (r.age, r.preemptWait))) ∧
  (∀ (x : Bit) (a : Reg) (s : State) (p : Pip), s.Ready (.mtsSrMucheck x a) (mtsUses x a false) p →
    let u := mtsUses x a false
    exec (.mtsSrMucheck x a) s = .next ((s.effect u p id).setCluster s.curCl
      { (u.acquire p s).cluster s.curCl with muCheck := ((p.gv a).setWidth 1).setWidth 64 }))

/-! ### Issuing accesses and commands -/

/-- LD, ST, LDV, STV, LDVX, STVX, AMO, CAS and RED (R384, R424, R386, R426, R338, R356, R415, R165): the addresses, the checks
at issue and the operation that enters the queues of the pip. -/
def Obligations.GlobalAccessesAreCheckedAndIssued : Prop :=
  ∀ (s : State) (p : Pip),
    (∀ (x o : Bit) (sz : BitVec 2) (c : BitVec 3) (i : Byte) (a t : Reg),
      let ps := [(p.gv a + i.signExtend 64 <<< sz.toNat, 2 ^ sz.toNat)]
      s.IssuesGlobal (.ld x o sz c i a t) p ps { id := 0, kind := .loadG ps, dest := .g t, acq := orderedBy o c } ∧
      s.IssuesGlobal (.st x o sz c i a t) p ps
        { id := 0, kind := .storeG ps (bytesOf (2 ^ sz.toNat) (p.gv t)), rel := orderedBy o c }) ∧
    (∀ (x o : Bit) (c : BitVec 3) (i : Byte) (a : Reg) (v : Reg4),
      let ps := [(p.gv a + i.signExtend 64 <<< 6, 64)]
      s.IssuesGlobal (.ldv x o c i a v) p ps { id := 0, kind := .loadG ps, dest := .v v, acq := orderedBy o c } ∧
      s.IssuesGlobal (.stv x o c i a v) p ps { id := 0, kind := .storeG ps (bytesOf 64 (p.vv v)), rel := orderedBy o c }) ∧
    (∀ (x o sz : Bit) (c : BitVec 3) (j : Reg4) (a : Reg) (v : Reg4),
      let ps := indexedPieces (p.gv a) sz (p.vv j)
      s.IssuesGlobal (.ldvx x o sz c j a v) p ps { id := 0, kind := .loadG ps, dest := .v v, acq := orderedBy o c } ∧
      s.IssuesGlobal (.stvx x o sz c j a v) p ps
        { id := 0, kind := .storeG ps (bytesOf 64 (p.vv v)), rel := orderedBy o c }) ∧
    (∀ (w r q : Bit) (c : BitVec 3) (o : Reg4) (b a d : Reg),
      let n := if w = 1 then 4 else 8
      s.IssuesGlobal (.amo w r q c o b a d) p [(p.gv a, n)]
        { id := 0, kind := .atomicG (p.gv a) n o.toNat (p.gv b), dest := .g d, acq := orderedBy q c, rel := orderedBy r c } ∧
      s.IssuesGlobal (.cas w r q c b a d) p [(p.gv a, n)]
        { id := 0, kind := .casG (p.gv a) n (p.gv d) (p.gv b), dest := .g d, acq := orderedBy q c, rel := orderedBy r c }) ∧
    ∀ (w y x : Bit) (o : Reg4) (b a : Reg),
      let n := if w = 1 then 4 else 8
      s.IssuesGlobal (.red w y x o b a) p [(p.gv a, n)] { id := 0, kind := .redG (p.gv a) n o.toNat (p.gv b) }

/-- CPIN, CUNPIN, CFLUSH (R361, R363, R357), PREF (R408), MARK (R103) and FENCE (R374): CPIN and CUNPIN trap as a load of 8 bytes
does (R71), CFLUSH as one of a byte; a prefetch never traps and changes no byte of memory; MARK and FENCE are over at once
when nothing is outstanding. -/
def Obligations.LinesArePinnedFlushedAndFenced : Prop :=
  ∀ (s : State) (p : Pip),
    (∀ (x : Bit) (i : Byte) (a d : Reg),
      let l := p.gv a + i.signExtend 64 <<< 3
      s.IssuesGlobal (.cpin x i a d) p [(l, 8)] { id := 0, kind := .pinG l, dest := .g d } ∧
      s.IssuesGlobal (.cunpin x i a) p [(l, 8)] { id := 0, kind := .unpinG l } ∧
      s.IssuesGlobal (.cflush x i a) p [(l, 1)] { id := 0, kind := .flushG l }) ∧
    (∀ (x : Bit) (i : Byte) (a h : Reg) (u : Uses), u = { g := [a], gs := syncG x a } → s.Ready (.pref x i a h) u p →
      exec (.pref x i a h) s = .next (((u.acquire p s).put (u.after p)).prefetch (s.cur / 16) p.asid p.mode
        (p.gv a + i.signExtend 64 <<< 3) (h == 0)) ∧
      (s.NoReds → ∃ t, exec (.pref x i a h) s = .next t ∧ t.hbm = s.hbm ∧ t.clusters = s.clusters ∧
        t.pip s.cur = some (u.after p) ∧ ∀ j, j ≠ s.cur → t.pip j = s.pip j)) ∧
    (s.Ready .mark {} p → exec .mark s = .next (s.entered {} p { id := 0, kind := .mark })) ∧
    (∀ (k : BitVec 2) (c : BitVec 3), s.Ready (.fence k c) {} p →
      exec (.fence k c) s = .next (s.entered {} p
        { id := 0, kind := .fence k.toNat, acq := if k = 2 then none else some c.toNat,
          rel := if k = 1 then none else some c.toNat })) ∧
    (∀ i : Instr, i = .mark ∨ (∃ k c, i = .fence k c) → s.Ready i {} p → p.ops = [] →
      ∃ t q, exec i s = .next t ∧ t.pip s.cur = some q ∧ q.ops = [] ∧ q.pc = p.pc + 4 ∧ q.g = p.g ∧ t.hbm = s.hbm)

/-- LDL, LDLV, STL, STLV and AMOL (R385, R425, R339, R73, R88, R105): the checks at issue, the refusals of the pip's own cluster,
the migration of a pip, and the operation issued with its ordering scope: cluster when near and j is 0, else job. -/
def Obligations.LocalAccessesAreCheckedAndIssued : Prop :=
  ∀ (s : State) (p : Pip),
    (∀ (x j : Bit) (sz : BitVec 2) (q : BitVec 3) (i : Byte) (a t : Reg),
      let n := 2 ^ sz.toNat
      let l := p.gv a + i.signExtend 64 <<< sz.toNat
      s.IssuesLoad (.ldl x j sz q i a t) p l n (fun near =>
        { id := 0, kind := .loadL l n q.toNat, dest := .g t,
          acq := if q = 0 then none else some (if near = true ∧ j = 0 then 2 else 6) }) ∧
      s.IssuesWrite (.stl x j sz q i a t) p l n (q == 1 || q == 3) (fun near =>
        { id := 0, kind := .storeL l (bytesOf n (p.gv t)) (q == 1 || q == 3),
          rel := if q = 2 ∨ q = 3 then some (if near = true ∧ j = 0 then 2 else 6) else none })) ∧
    (∀ (x j : Bit) (q : BitVec 3) (i : Byte) (a : Reg) (v : Reg4),
      let l := p.gv a + i.signExtend 64 <<< 6
      s.IssuesLoad (.ldlv x j q i a v) p l 64 (fun near =>
        { id := 0, kind := .loadL l 64 q.toNat, dest := .v v,
          acq := if q = 0 then none else some (if near = true ∧ j = 0 then 2 else 6) }) ∧
      s.IssuesWrite (.stlv x j q i a v) p l 64 (q == 1 || q == 3) (fun near =>
        { id := 0, kind := .storeL l (bytesOf 64 (p.vv v)) (q == 1 || q == 3),
          rel := if q = 2 ∨ q = 3 then some (if near = true ∧ j = 0 then 2 else 6) else none })) ∧
    ∀ (w r q : Bit) (c : BitVec 3) (o : Reg4) (b a d : Reg),
      let n := if w = 1 then 4 else 8
      s.IssuesWrite (.amol w r q c o b a d) p (p.gv a) n false (fun _ =>
        { id := 0, kind := .atomicL (p.gv a) n o.toNat (p.gv b), dest := .g d, acq := orderedBy q c, rel := orderedBy r c })

/-- The commands LAUNCH, COPY, MCAST, GATHER, SCATTER, MERGE, MTASK, MLOAD, TINV, the page instructions, KVLD and ATTN (R167, R56):
a record whose address is no multiple of 64 traps MISALIGNED, one not wholly in the plain region of the pip's cluster
LOCAL_RANGE; otherwise the command enters the store queue. -/
def Obligations.CommandsCheckTheirRecordAndEnterTheQueue : Prop :=
  ∀ (i : Instr) (a : Reg) (n : Nat) (o : Word → Op) (u : Uses) (s : State) (p : Pip),
    i.commandOp = some (a, n, o) → i.uses p = some u → s.Ready i u p →
    let r := p.gv a
    let fits := r.toNat < 2 ^ 61 ∧ s.near p r = true ∧
      offsetOf r + n ≤ (s.cluster s.curCl).spres - (s.cluster s.curCl).podBytes
    if r.toNat % 64 ≠ 0 then exec i s = .next (s.takeTrap s.cur p .misaligned false r)
    else if fits then exec i s = .next (s.entered u p (o r))
    else exec i s = .next (s.takeTrap s.cur p .localRange false r)

/-! ### Pods, barriers and tasks -/

/-- POPEN (R86, R407): the first of its conditions that fails writes 0x8000000000000001 to 0x8000000000000004; otherwise the
lowest free descriptor takes the template with STATE OPEN and the next GEN, and g[D] its handle. SEAL, PSTAT and PFREE of a
live pod, and their answers for a handle that is not live (R93, R94, R95, R421, R411, R404). -/
def Obligations.PodsAreOpenedSealedReadAndFreed : Prop :=
  (∀ (y x : Bit) (b a d : Reg) (u : Uses) (s : State) (p : Pip),
     let i : Instr := .popen y x b a d
     i.uses p = some u → s.Ready i u p →
     let T := p.gv a
     let c := s.cluster s.curCl
     let P : Pod := { w0 := T, w1 := if T.getLsbD 61 = true then p.gv b else 0 }
     let answers := fun (v : Word) => exec i s = .next (s.effect u p (fun q => q.setG d v))
     let lies := P.base % 16 = 0 ∧ c.spres - c.podBytes ≤ P.base ∧ P.base + P.footprint ≤ c.spres
     let taken := ∃ k < P.footprint / 16, (c.podAt (P.base + 16 * k)).isSome = true ∨ c.gran (P.base + 16 * k) ≠ .closed
     (templateOk T = false → answers 0x8000000000000001) ∧
     (templateOk T = true → ¬ lies → answers 0x8000000000000002) ∧
     (templateOk T = true → lies → taken → answers 0x8000000000000003) ∧
     (templateOk T = true → lies → ¬ taken → (∀ n < c.podDesc, (c.pod n).state ≠ 0) → answers 0x8000000000000004) ∧
     ∀ n, templateOk T = true → lies → ¬ taken → n < c.podDesc → (c.pod n).state = 0 →
       (∀ m < n, (c.pod m).state ≠ 0) →
       ∃ e : Pod, e.w1 = P.w1 ∧ e.w2 = 0 ∧ e.w3 = 0 ∧
         (∀ k < 64, e.w0.getLsbD k = if k = 43 then true else if k = 44 then false
           else if 45 ≤ k ∧ k < 53 then ((c.pod n).gen + 1).testBit (k - 45) else T.getLsbD k) ∧
         exec i s = .next (((u.acquire p s).setCluster s.curCl { c.setPod n e with opened := mset c.opened n s.cycle }).enter
           ((u.after p).setG d (BitVec.ofNat 64 (((c.pod n).gen + 1) % 256 * 256 + n)))
           { id := 0, kind := .footL (P.base / 16) (P.footprint / 16) .empty P.banks })) ∧
  (∀ (s : State) (p : Pip) (x : Bit) (a d : Reg),
     let u := usesA x a d
     let c := s.cluster s.curCl
     (s.Ready (.seal x a d) u p → s.released s.cur p 2 = true →
       (c.live (p.gv a) = none → exec (.seal x a d) s = .next (s.effect u p (fun q => q.setG d 0x8000000000000010))) ∧
       ∀ n, c.live (p.gv a) = some n →
         ((c.pod n).state = 1 →
           exec (.seal x a d) s = .next ((s.effect u p (fun q => q.setG d 0)).beginSeal s.curCl n false none)) ∧
         ((c.pod n).state = 2 → (∀ e ∈ c.seals, e.pod = n → e.timer = false ∨ e.point ≠ s.cycle) →
           exec (.seal x a d) s = .next (s.effect u p (fun q => q.setG d 0x8000000000000011)))) ∧
     (∀ w : BitVec 2, s.Ready (.pstat x w a d) u p →
       (c.live (p.gv a) = none → exec (.pstat x w a d) s = .next (s.takeTrap s.cur p .podStale false (p.gv a))) ∧
       ∀ n, c.live (p.gv a) = some n →
         (c.sealing n = true → exec (.pstat x w a d) s = .next (s.put { p with cond := .parked (.seal n) })) ∧
         (c.sealing n = false → ∃ v t, exec (.pstat x w a d) s = .next t ∧
           t.pip s.cur = some ((u.after p).setG d v) ∧ (w = 0 → v = (c.pod n).w0) ∧ (w = 1 → v = (c.pod n).w1) ∧
           ((c.pod n).state = 2 → (w = 2 → v = (c.pod n).w2) ∧ (w = 3 → v = (c.pod n).w3)) ∧
           ((c.pod n).state ≠ 2 → ∀ r < 128, r / 64 + 2 = w.toNat →
             (v.getLsbD (r % 64) = true ↔ r < (c.pod n).rows ∧
               ∀ g < (c.pod n).rowBytes / 16, c.gran ((c.pod n).base + r * (c.pod n).rowBytes + 16 * g) = .full)))) ∧
     (s.Ready (.pfree x a d) u p →
       (c.live (p.gv a) = none → exec (.pfree x a d) s = .next (s.effect u p (fun q => q.setG d 0x8000000000000010))) ∧
       ∀ n, c.live (p.gv a) = some n → c.sealing n = false →
         let P := c.pod n
         (c.namesPod (P.handle n) = true →
           exec (.pfree x a d) s = .next (s.effect u p (fun q => q.setG d 0x8000000000000012))) ∧
         (c.namesPod (P.handle n) = false →
           exec (.pfree x a d) s = .next (((u.acquire p s).setCluster s.curCl
             { (c.setPod n (P.setState 0)) with freeing := c.freeing ++ [P] }).enter
             ((u.after p).setG d 0)
             { id := 0, kind := .footL (P.base / 16) (P.footprint / 16) .closed P.banks }))))

/-- PRESET (R96, R410), BARI, BARA, BARW (R348 to R350, R119) and WAITGE (R447): the checks at issue, and the operation issued. That
a barrier's own cluster asks for the plain region and nothing of CHECK at issue is the model's reading (log entry 42). -/
def Obligations.PresetsBarriersAndWaitsAreIssued : Prop :=
  ∀ (s : State) (p : Pip) (u : Uses),
    let c := s.cluster s.curCl
    let inPlain := fun (l : Word) (n : Nat) => offsetOf l + n ≤ c.spres - c.podBytes
    (∀ (y x : Bit) (b a : Reg), (Instr.preset y x b a).uses p = some u → s.Ready (.preset y x b a) u p →
      let l := p.gv a
      let n := (p.gv b).toNat
      let traps := fun (k : Cause) => exec (.preset y x b a) s = .next (s.takeTrap s.cur p k false l)
      if ¬(l.toNat < 2 ^ 61 ∧ s.near p l = true) then traps .localRange
      else if l.toNat % 16 ≠ 0 then traps .misaligned
      else if l.getLsbD 60 = true then traps .podStale
      else if n ≠ 0 ∧ ¬ inPlain l (16 * n) then traps .localRange
      else if n = 0 then exec (.preset y x b a) s = .next ((u.acquire p s).put (u.after p))
      else exec (.preset y x b a) s = .next (s.entered u p { id := 0, kind := .presetL (offsetOf l / 16) n })) ∧
    (∀ (i : Instr) (a : Reg) (o : Bool → Op),
      ((∃ y x b, i = .bari y x b a ∧ 1 ≤ (p.gv b).toNat ∧ (p.gv b).toNat ≤ 65535 ∧
          o = fun _ => { id := 0, kind := .bariL (p.gv a) (p.gv b).toNat }) ∨
        (∃ x, i = .bara x a ∧
          o = fun near => { id := 0, kind := .baraL (p.gv a), rel := some (if near then 2 else 6) }) ∨
        (∃ d, i = .barw a d ∧
          o = fun near => { id := 0, kind := .barwL (p.gv a) none, dest := .g d, acq := some (if near then 2 else 6) })) →
      i.uses p = some u → s.Ready i u p →
      (∀ k, s.checkIssue p (p.gv a) 16 = some k → exec i s = .next (s.takeTrap s.cur p k false (p.gv a))) ∧
      (s.checkIssue p (p.gv a) 16 = none →
        (s.near p (p.gv a) = true → ¬ inPlain (p.gv a) 16 →
          exec i s = .next (s.takeTrap s.cur p .localRange false (p.gv a))) ∧
        (s.near p (p.gv a) = false ∨ inPlain (p.gv a) 16 →
          exec i s = .next (s.entered u p (o (s.near p (p.gv a))))))) ∧
    (∀ (y x : Bit) (b a : Reg), (Instr.bari y x b a).uses p = some u → s.Ready (.bari y x b a) u p →
      s.checkBarrier p (p.gv a) = none → (p.gv b = 0 ∨ 65535 < (p.gv b).toNat) →
      exec (.bari y x b a) s = .next (s.takeTrap s.cur p .localRange false (p.gv b))) ∧
    (∀ (m : Reg4) (k n : BitVec 3) (b a d : Reg), (Instr.waitge m k n b a d).uses p = some u →
      s.Ready (.waitge m k n b a d) u p →
      if m = 4 ∧ 4095 < (p.gv b).toNat then
        exec (.waitge m k n b a d) s = .next (s.entered u p
          { id := 0, kind := .pure, dest := .g d, phase := .done, result := (0x8000000000000001 : Word).setWidth 512 })
      else exec (.waitge m k n b a d) s = .next (s.entered u p
        { id := 0, kind := .waitge (match m.toNat with
            | 0 => .copy s.curCl n.toNat | 1 => .gather s.curCl | 2 => .merge s.curCl | 3 => .matrix s.curCl
            | _ => .nma (p.gv b).toNat) (p.gv a),
          dest := .g d, acq := some k.toNat }))

/-- SENDR (R34, R423): the value goes into an empty register of a pip of the cluster and sets it full; a slot that does not exist
or is free traps LOCAL_RANGE. DONE (R43): the pip becomes idle once its results are written. FORK (R41, R377) pushes the
target and g4 to g7 and adds 1 to the counter, or clears C when the deque is full; JOIN (R42, R380) subtracts 1, and the pip
goes on when the counter reached 0 and ends its task otherwise, once its results are written. That SENDR parks for the
accesses before it, and FORK and a near JOIN for what holds back an atomic on the counter, is the model's reading of the
releases that act at issue (log entry 20). -/
def Obligations.TasksForkJoinSendAndEnd : Prop :=
  (∀ (s : State) (p : Pip),
     (∀ (y x : Bit) (b a d : Reg) (u : Uses), (Instr.sendr y x b a d).uses p = some u → s.Ready (.sendr y x b a d) u p →
       let i : Instr := .sendr y x b a d
       let k := 256 * s.curCl + (p.gv a).toNat
       (256 ≤ (p.gv a).toNat ∨ s.pip k = none →
         exec i s = .next (s.takeTrap s.cur p .localRange false (p.gv a))) ∧
       ((p.gv a).toNat < 256 → ∀ z, s.pip k = some z → k ≠ s.cur →
         (s.released s.cur p 2 = false → exec i s = .next (s.put { p with cond := .parked (.release 2) })) ∧
         (s.released s.cur p 2 = true →
           let free := z.gf d = false ∧ z.gBusy d = false ∧ z.cond ≠ .inTransit ∧ z.heldDebug = false
           (¬ free → exec i s = .next (s.put { p with cond := .parked (.target k d) })) ∧
           (free → ∃ q, exec i s = .next (((u.acquire p s).put (u.after p)).setPip k q) ∧ q.gv d = p.gv b ∧ q.gf d = true ∧
             q.delivered.getLsbD d.toNat = true ∧ (∀ r, r ≠ d → q.gv r = z.gv r ∧ q.gf r = z.gf r) ∧ q.ops = z.ops ∧
             q.pc = z.pc ∧ z.SameSpecial q))) ∧
       ((p.gv a).toNat < 256 → k = s.cur →
         (p.gBusy d = true → exec i s = .next (s.put { p with cond := .parked (.written [d] []) })) ∧
         (p.gBusy d = false → s.released s.cur p 2 = false → exec i s = .next (s.put { p with cond := .parked (.release 2) })) ∧
         (p.gBusy d = false → s.released s.cur p 2 = true → exec i s = .next (s.effect u p (fun q => q.setG d (p.gv b)))))) ∧
     (s.Ready .done {} p →
       (p.fullBits = 0 → exec .done s = .next (s.put { p with pc := p.pc + 4, cond := .idle })) ∧
       (p.fullBits ≠ 0 → exec .done s = .next (s.put { p with cond := .parked .drain })))) ∧
  (∀ (s : State) (p : Pip) (a : Reg),
     let c := s.cluster s.curCl
     let l := p.gv a
     let n := leNat (readBytes c.sp (offsetOf l) 4)
     let core := s.cur / 16
     let counts := fun (t : State) (m : Nat) => ∀ o, readByte (t.cluster s.curCl).sp o =
       if offsetOf l ≤ o ∧ o < offsetOf l + 4 then BitVec.ofNat 8 (m % 2 ^ 32 / 256 ^ (o - offsetOf l)) else readByte c.sp o
     (∀ (e : Reg4) (u : Uses), u = { g := [a, 4, 5, 6, 7] } → s.Ready (.fork a e) u p →
       let b := p.steer e.toNat
       (b.tv = false → exec (.fork a e) s = .next (s.takeTrap s.cur p .steerInvalid false (e.setWidth 64))) ∧
       (b.tv = true →
         let traps := fun (k : Cause) => exec (.fork a e) s = .next (s.takeTrap s.cur p k false l)
         if l.toNat % 4 ≠ 0 then traps .misaligned
         else if ¬(l.toNat < 2 ^ 61 ∧ s.near p l = true ∧ offsetOf l + 4 ≤ c.spres - c.podBytes) then traps .localRange
         else if l.getLsbD 60 = true then traps .podStale
         else if 64 ≤ (s.core core).deque.length then
           exec (.fork a e) s = .next (s.effect u p (fun q => q.setSteer e.toNat { b with c := false }))
         else if s.mayCount s.cur p l = false then
           exec (.fork a e) s = .next (s.put { p with cond := .parked (.counter l) })
         else ∃ t, exec (.fork a e) s = .next t ∧
           (t.core core).deque = ⟨b.t, p.gv 4, p.gv 5, p.gv 6, p.gv 7, l⟩ :: (s.core core).deque ∧ counts t (n + 1) ∧
           t.pip s.cur = some ((u.after p).setSteer e.toNat { b with c := true }) ∧ t.hbm = s.hbm)) ∧
     (∀ u : Uses, u = { g := [a] } → s.Ready (.join a) u p →
       let ends := fun (q : Pip) (m : Nat) =>
         (m = 0 → q.cond = .ready ∧ q.pc = p.pc + 4 ∧ q.joined = p.joined.filter (fun j => j.pc != p.pc)) ∧
         (m ≠ 0 → p.fullBits = 0 → q.cond = .idle) ∧
         (m ≠ 0 → p.fullBits ≠ 0 → q.cond = .parked .drain ∧ q.pc = p.pc ∧ q.joinHere.bind Joined.result = some m)
       (p.joinHere = none →
         (∀ k, s.checkIssue p l 4 = some k → exec (.join a) s = .next (s.takeTrap s.cur p k false l)) ∧
         (s.checkIssue p l 4 = none → s.near p l = true →
           let fits := offsetOf l + 4 ≤ c.spres - c.podBytes
           (¬ fits → exec (.join a) s = .next (s.takeTrap s.cur p .localRange false l)) ∧
           (fits → l.getLsbD 60 = true → exec (.join a) s = .next (s.takeTrap s.cur p .podStale false l)) ∧
           (fits → l.getLsbD 60 = false → s.mayCount s.cur p l = false →
             exec (.join a) s = .next (s.put { p with cond := .parked (.counter l) })) ∧
           (fits → l.getLsbD 60 = false → s.mayCount s.cur p l = true →
             ∃ t q, exec (.join a) s = .next t ∧ t.pip s.cur = some q ∧ q.g = p.g ∧ q.ops = p.ops ∧ t.hbm = s.hbm ∧
               counts t (n + (2 ^ 32 - 1)) ∧ ends q ((n + (2 ^ 32 - 1)) % 2 ^ 32))) ∧
         (s.checkIssue p l 4 = none → s.near p l = false →
           exec (.join a) s = .next ((u.acquire p s).enter
             { p with joined := p.joined ++ [⟨p.pc, p.nextOp, none⟩], cond := .parked (.join p.nextOp) }
             { id := 0, kind := .joinL l, acq := some 6, rel := some 6 }))) ∧
       ∀ j, p.joinHere = some j →
         (j.result = none → exec (.join a) s = .next (s.put { p with cond := .parked (.join j.op) })) ∧
         ∀ m, j.result = some m → ∃ t q, exec (.join a) s = .next t ∧ t.pip s.cur = some q ∧ q.g = p.g ∧ q.ops = p.ops ∧
           t.clusters = s.clusters ∧ ends q m))

/-! ### Performing accesses -/

/-- FULL_BIT_RESULT_WRITE (R30, R31): the result of a performed operation, or a timeline that has reached the value of a WAITGE
(R447), goes into the destination, which becomes full; the operation is over and nothing else of the pip changes. -/
def Obligations.ResultsAreWrittenAndFillTheirRegister : Prop :=
  ∀ (k n : Nat) (s : State) (p : Pip) (o : Op) (x : VWord), s.pip k = some p → p.op n = some o → o.dest ≠ .none →
    ((o.phase = .done ∧ x = o.result) ∨
      (∃ e v, o.phase = .waiting ∧ o.kind = .waitge e v ∧ v.toNat ≤ (s.context e).timeline ∧
        x = BitVec.ofNat 512 ((s.context e).timeline % 2 ^ 64))) →
    ∃ t q, exec (.fullBitResultWrite k n) s = .next t ∧ t.pip k = some q ∧
      (∀ r, q.gv r = if o.dest = .g r ∧ r ≠ 0 then x.setWidth 64 else p.gv r) ∧
      (∀ r, q.gf r = (p.gf r || decide (o.dest = .g r))) ∧
      (∀ r, q.vv r = if o.dest = .v r then x else p.vv r) ∧
      (∀ r, q.vf r = (p.vf r || decide (o.dest = .v r))) ∧
      (∀ y ∈ q.ops, y.id ≠ n) ∧ q.pc = p.pc ∧ q.status = p.status ∧ q.fpmode = p.fpmode ∧ q.b = p.b ∧
      t.hbm = s.hbm ∧ t.clusters = s.clusters ∧ ∀ j, j ≠ k → t.pip j = s.pip j

/-- HOME_L2_ACCESS (R98, R68, R71, R338, R356, R386, R426), in a machine whose cores hold no update-only line and for an access whose
translation lacks nothing of other dies. Lines whose home L2 lies on the pip's own die: a store writes its bytes at the physical
addresses, piece after piece in lane order, and no other byte; a load of one or several pieces, an atomic and a compare and swap have the
bytes there as their result; CPIN, CUNPIN and CFLUSH act on the pins and on what is not written back. A load all of whose lines the L1
holds, with their rights, has their bytes as its result. A home L2 on another die is asked by packets (R276): for a load two RDs of 64
bytes for each line, for a store a WR with the piece, for the others an AT; a load whose lines have come has their bytes. A RED lies in an
update-only line (R415). DEFERRED_FAULT (R316): a failing access, or one of an L1 line without the right, becomes a replay entry and its
trap is due with the address of the older entry, with no byte changed. RED_MERGE (R70, R415): the partial values of an update-only
line of the core's own die are combined with the elements of its line as one update; no byte of another line changes, and the line leaves
the core; one of another die goes there as an AT packet. That one copy of each byte stands for L2 and HBM (log entry 53), that CPIN's
value 2 comes before 3 (log entry 55), and the layout of a merge's packet (log entry 57), is the model's. -/
def Obligations.GlobalAccessesReadAndWriteTheirBytes : Prop :=
  (∀ (k n : Nat) (lines drops : List Nat) (s : State) (p : Pip) (o : Op),
     s.NoReds → s.pip k = some p → p.op n = some o → o.phase = .waiting → s.canPerform k p o = true → s.Tries (.op k n) →
     let src := s.clusterAddr (k / 256)
     let u := (s.evict k lines drops).opened (.op k n) src
     let finds := fun (need : Need) (a : Word) (x : Nat × Word) => u.Finds (k / 65536) o.asid o.mode need a (.ok x)
     let findsAll := fun (need : Need) (ps : List (Word × Nat)) (xs : List (Nat × Word)) =>
       o.fetch = [] ∧ o.parts = [] ∧ (need = .load → ∀ e ∈ ps, (u.core (k / 16)).line o.asid e.1 = none) ∧
       u.FindsAll (k / 65536) o.asid o.mode need ps xs
     let near := fun (pa : Nat) => homeDie pa = k / 65536
     let runs := fun (t : State) => exec (.homeL2Access k n lines drops) s = .next t
     let wrote := fun (t : State) (pa : Nat) (bs : List Byte) =>
       ∀ x, readByte t.hbm x = if pa ≤ x ∧ x < pa + bs.length then bs.getD (x - pa) 0 else readByte s.hbm x
     let hasResult := fun (t : State) (r : VWord) => ∃ q y, t.pip k = some q ∧ q.op n = some y ∧ y.phase = .done ∧ y.result = r
     let isOver := fun (t : State) => ∃ q, t.pip k = some q ∧ q.g = p.g ∧ ∀ y ∈ q.ops, y.id ≠ n
     let sends := fun (t : State) (kind : Byte) (addr : Nat) (body : List Byte) (len : Nat) (from_ : Origin → Prop) =>
       ∃ x ∈ t.net.outstanding, from_ x.origin ∧ x.packet.kind = kind ∧ x.packet.src = src ∧ x.packet.dst = s.sliceAddr addr ∧
         x.packet.addr = word addr ∧ x.packet.body = body ∧ x.packet.len.val = len
     let waitsSent := fun (t : State) => ∃ q y, t.pip k = some q ∧ q.op n = some y ∧ y.phase = .sent ∧ y.kind = o.kind ∧ y.dest = o.dest ∧ q.g = p.g
     (∀ (w : Nat) (as : List Word) (bs : List Byte) (xs : List (Nat × Word)), let ps := as.map (fun a => (a, w))
       o.kind = .storeG ps bs → o.dest = .none → findsAll .store ps xs →
       ((∀ x ∈ xs, near x.1) → ∃ t, runs t ∧ (∀ y, readByte t.hbm y = writtenInOrder (laneParts w xs bs) (readByte s.hbm) y) ∧ isOver t) ∧
       (∀ x rest, xs = x :: rest → ¬ near x.1 → w ≤ 64 → w ≤ bs.length → s.mayInject src (s.sliceAddr x.1) w 1 = true →
         ∃ t, runs t ∧ wrote t 0 [] ∧ waitsSent t ∧ sends t 3 x.1 (bs.take w) w (· = .pip k n))) ∧
     (∀ (ps : List (Word × Nat)) (bs : List Byte) (parts : List (Word × Nat × List Byte)), o.kind = .storeG ps bs → o.dest = .none →
       o.parts = parts → parts ≠ [] → (∀ x ∈ parts, near x.2.1) →
       ∃ t, runs t ∧ (∀ y, readByte t.hbm y = writtenInOrder (parts.map Prod.snd) (readByte s.hbm) y) ∧ isOver t) ∧
     (∀ (ps : List (Word × Nat)), o.kind = .loadG ps → o.dest ≠ .none →
       (∀ xs, findsAll .load ps xs →
         ((∀ x ∈ xs, near x.1 ∧ mget s.bad (x.1 / 128) = none) → ∃ t, runs t ∧ wrote t 0 [] ∧
           hasResult t (BitVec.ofNat 512 (leNat ((ps.zip xs).flatMap (fun e => readBytes s.hbm e.2.1 e.1.2))))) ∧
         (ps ≠ [] → (∀ x ∈ xs, ¬ near x.1 ∧ ∀ m ≤ ps.length,
             s.mayInject src (s.sliceAddr (x.1 / 128 * 128)) (64 * m) (2 * m) = true) → ∃ t, runs t ∧ wrote t 0 [] ∧ waitsSent t ∧
           ∀ x ∈ xs, sends t 1 (x.1 / 128 * 128) [] 64 (fun y => ∃ i, y = .part k n i) ∧
             sends t 1 (x.1 / 128 * 128 + 64) [] 64 (fun y => ∃ i, y = .part k n i))) ∧
       (∀ ls : List Line, ls.length = ps.length →
         (∀ e ∈ ps.zip ls, (u.core (k / 16)).line o.asid e.1.1 = some e.2 ∧ e.2.r = true ∧ (o.mode = true ∨ e.2.u = true)) →
         ∃ t, runs t ∧ wrote t 0 [] ∧ hasResult t (BitVec.ofNat 512 (leNat
           ((ps.zip ls).flatMap (fun e => (e.2.data.drop (e.1.1.toNat % 128)).take e.1.2))))) ∧
       (∀ a w f x y, ps = [(a, w)] → (u.core (k / 16)).line o.asid a = none → o.fetch = [f] → f.vline = a.toNat / 128 →
         f.halves = [some x, some y] → ∃ t, runs t ∧ wrote t 0 [] ∧
           hasResult t (BitVec.ofNat 512 (leNat (((x ++ y).drop (a.toNat % 128)).take w))))) ∧
     (∀ a need w pa leaf, o.kind.asks = some (a, need, w) → finds need a (pa, leaf) → ¬ near pa → s.mayInject src (s.sliceAddr pa) 20 1 = true →
       ∃ t, runs t ∧ wrote t 0 [] ∧ waitsSent t ∧ sends t 2 pa (w.body o.acq o.rel) 20 (· = .pip k n)) ∧
     (∀ a w op b pa leaf, o.kind = .redG a w op b → finds .atomic a (pa, leaf) →
       ∃ t q y r, runs t ∧ wrote t 0 [] ∧ t.pip k = some q ∧ q.op n = some y ∧ y.phase = .deposited ∧ r ∈ (t.core (k / 16)).reds ∧
         r.pline = pa / 128 ∧ r.op = op ∧ r.bytes = w ∧ r.by_ = [(k, n)] ∧
         r.elems = [(a.toNat % 128, word (b.toNat % 2 ^ (8 * w)))]) ∧
     (∀ a w op b pa leaf, o.kind = .atomicG a w op b → o.dest ≠ .none → finds .atomic a (pa, leaf) → near pa →
       mget s.bad (pa / 128) = none →
       let old := leNat (readBytes s.hbm pa w)
       ∃ t, runs t ∧ wrote t pa (natBytes w (atomicNew op (8 * w) old (b.toNat % 2 ^ (8 * w)))) ∧
         hasResult t ((atomicResult w old).setWidth 512)) ∧
     (∀ a w e x pa leaf, o.kind = .casG a w e x → o.dest ≠ .none → finds .atomic a (pa, leaf) → near pa →
       mget s.bad (pa / 128) = none →
       let old := leNat (readBytes s.hbm pa w)
       ∃ t, runs t ∧ (if old = e.toNat % 2 ^ (8 * w) then wrote t pa (natBytes w x.toNat) else wrote t 0 []) ∧
         hasResult t ((atomicResult w old).setWidth 512)) ∧
     (∀ a pa leaf, finds .load a (pa, leaf) → near pa →
       (o.kind = .pinG a → o.dest ≠ .none → ∃ t, runs t ∧ wrote t 0 [] ∧
         hasResult t (BitVec.ofNat 512 (s.pinValue p.launch (pa / 128))) ∧
         (s.pinValue p.launch (pa / 128) = 0 → mget t.pins (pa / 128) = some p.launch)) ∧
       (o.kind = .unpinG a → o.dest = .none → ∃ t, runs t ∧ wrote t 0 [] ∧ isOver t ∧
         t.pins = if mget s.pins (pa / 128) = some p.launch then merase s.pins (pa / 128) else s.pins) ∧
       (o.kind = .flushG a → o.dest = .none → ∃ t, runs t ∧ wrote t 0 [] ∧ isOver t ∧ t.dirty = merase s.dirty (pa / 128))) ∧
     (∀ a c, o.fetch = [] → o.parts = [] →
       let v := s.opened (.op k n) src
       ((∃ w, o.kind = .loadG [(a, w)] ∧ (s.core (k / 16)).line o.asid a = none ∧ v.Finds (k / 65536) o.asid o.mode .load a (.error c)) ∨
         (∃ w l, o.kind = .loadG [(a, w)] ∧ (s.core (k / 16)).line o.asid a = some l ∧ c = .pagePermission ∧
           (l.r = false ∨ (o.mode = false ∧ l.u = false))) ∨
         (∃ w bs, o.kind = .storeG [(a, w)] bs ∧ v.Finds (k / 65536) o.asid o.mode .store a (.error c))) →
       ∃ t q, exec (.deferredFault k n) s = .next t ∧ t.pip k = some q ∧ q.op n = some { o with phase := .deferred c.code a } ∧
         ((∀ y ∈ p.before n, y.isDeferred = false) → q.deferredTrap = some (c.code, a)) ∧
         (∀ b y r c' a', p.before n = b ++ y :: r → (∀ z ∈ b, z.isDeferred = false) → y.phase = .deferred c' a' →
           q.deferredTrap = some (c', a')) ∧
         q.g = p.g ∧ q.pc = p.pc ∧ wrote t 0 [])) ∧
  (∀ (core line : Nat) (r : RedLine) (s : State), (s.core core).reds[line]? = some r → r.way = .here →
     (∀ e ∈ s.cores, ∀ x ∈ e.2.reds, x.way ≠ .leaving) →
     (homeDie (128 * r.pline) ≠ core / 4096 → (∀ x ∈ (s.core core).reds, x.pline = r.pline → x.way ≠ .sent) →
       s.mayInject (s.clusterAddr (core / 16)) (s.sliceAddr (128 * r.pline)) r.body.length 1 = true →
       ∃ t x, exec (.redMerge core line) s = .next t ∧ t.hbm = s.hbm ∧ x ∈ t.net.outstanding ∧ x.origin = .merge core r.pline ∧
         x.packet.kind = 2 ∧ x.packet.dst = s.sliceAddr (128 * r.pline) ∧ x.packet.addr = word (128 * r.pline) ∧ x.packet.body = r.body ∧
         (t.core core).reds = (s.core core).reds.map (fun y => if y = r then { r with way := .sent } else y)) ∧
     (homeDie (128 * r.pline) = core / 4096 → ∃ t, exec (.redMerge core line) s = .next t ∧
       t.hbm = mergeElems s.hbm (128 * r.pline) r.op r.bytes r.elems ∧
       (t.core core).reds = (s.core core).reds.filter (fun x => x != r) ∧ t.clusters = s.clusters ∧
       ((∀ e ∈ r.elems, e.1 + r.bytes ≤ 128) → ∀ y, y / 128 ≠ r.pline → readByte t.hbm y = readByte s.hbm y) ∧
       (∀ off x, r.elems = [(off, x)] → ∀ i < r.bytes, readByte t.hbm (128 * r.pline + off + i) =
         (natBytes r.bytes (combineRed r.op r.bytes (leNat (readBytes s.hbm (128 * r.pline + off) r.bytes)) x.toNat)).getD i 0)))

/-- NEAR_LOCAL_ACCESS and WAIT_FULL_READ (R77 to R80, R98): in its bank slot a store writes its bytes and with set-full fills the
EMPTY granules it touches, a load reads its bytes and with q = 2 empties the FULL ones, an atomic updates its bytes. -/
def Obligations.NearAccessesReadAndWriteTheScratchpad : Prop :=
  ∀ (k n : Nat) (s : State) (p : Pip) (o : Op), s.pip k = some p → p.op n = some o → s.nearWaiting k p o = true →
    s.pipSlot (k / 256) (o.kind.bank?.getD 0) = true → s.oldest k o = true →
    let cl := k / 256
    let c := s.cluster cl
    let wrote := fun (t : State) (off : Nat) (bs : List Byte) => t.hbm = s.hbm ∧
      ∀ x, readByte (t.cluster cl).sp x = if off ≤ x ∧ x < off + bs.length then bs.getD (x - off) 0 else readByte c.sp x
    let hasResult := fun (t : State) (r : VWord) => ∃ q y, t.pip k = some q ∧ q.op n = some y ∧ y.phase = .done ∧ y.result = r
    let granules := fun (t : State) (gs : List Nat) (old new : Gran) =>
      ∀ g, (t.cluster cl).gran (16 * g) = if g ∈ gs ∧ c.gran (16 * g) = old then new else c.gran (16 * g)
    (∀ a bs f, o.kind = .storeL a bs f → o.dest = .none → ∃ t, exec (.nearLocalAccess k n) s = .next t ∧
      wrote t (offsetOf a) bs ∧ granules t (if f = true then granulesOf (offsetOf a) bs.length else []) .empty .full) ∧
    (∀ a w q, o.kind = .loadL a w q → o.dest ≠ .none →
      ∃ t, exec (if q = 1 ∨ q = 2 then .waitFullRead k n else .nearLocalAccess k n) s = .next t ∧ wrote t 0 [] ∧
        hasResult t (BitVec.ofNat 512 (leNat (readBytes c.sp (offsetOf a) w))) ∧
        granules t (if q = 2 then granulesOf (offsetOf a) w else []) .full .empty) ∧
    (∀ a w op x, o.kind = .atomicL a w op x → o.dest ≠ .none →
      let old := leNat (readBytes c.sp (offsetOf a) w)
      ∃ t, exec (.nearLocalAccess k n) s = .next t ∧
        wrote t (offsetOf a) (natBytes w (atomicNew op (8 * w) old (x.toNat % 2 ^ (8 * w)))) ∧
        hasResult t ((atomicResult w old).setWidth 512))

/-! ### Events of the pips -/

/-- TIMER (R320), MESSAGE_POST and MESSAGE_DELIVER (R314), ILLEGAL_INSTRUCTION and FETCH_FAULT (R161, R317): SR_IPEND and SR_MSG
take the event, or the pip traps at its PC. That a posting to a pip with MESSAGE 0 goes behind messages that still wait, and
one to a pip in transit waits with it, is the model's reading of R314 (log entry 55). -/
def Obligations.TimersMessagesAndFetchFaultsReachThePip : Prop :=
  ∀ (s : State) (k : Nat) (p : Pip), s.pip k = some p →
    let marked := fun (q : Pip) (n : Nat) => ∀ i, q.ipend.getLsbD i = (p.ipend.getLsbD i || decide (i = n))
    (p.tcmp.toNat ≤ s.timeAt (k / 256) → ∃ q, exec (.timer k) s = .next (s.setPip k q) ∧ marked q 0 ∧
      q = { p with ipend := q.ipend }) ∧
    (s.managed = true → ∀ (l : BitVec 32) (id v : Word), s.findPip l id false = some k →
      (p.ipend.getLsbD 1 = false → p.messages = [] → p.cond ≠ .inTransit → ∃ q, exec (.messagePost l id v) s =
        .next ((s.setPip k q).report (.messagePosted 0)) ∧ marked q 1 ∧ q = { p with ipend := q.ipend, msg := v }) ∧
      (p.ipend.getLsbD 1 = true ∨ p.messages ≠ [] → p.messages.length < 16 → exec (.messagePost l id v) s =
        .next ((s.setPip k { p with messages := p.messages ++ [v] }).report (.messagePosted 0))) ∧
      (16 ≤ p.messages.length → exec (.messagePost l id v) s = .next (s.report (.messagePosted 2)))) ∧
    (s.managed = true → ∀ (l : BitVec 32) (id v : Word), s.findPip l id false = none →
      (s.findMigrant l id = none → s.findPip l id true = some k → p.cond = .inTransit →
        (p.messages.length < 16 → exec (.messagePost l id v) s =
          .next ((s.setPip k { p with messages := p.messages ++ [v] }).report (.messagePosted 0))) ∧
        (16 ≤ p.messages.length → exec (.messagePost l id v) s = .next (s.report (.messagePosted 2)))) ∧
      (s.findMigrant l id = none → s.findPip l id true = none →
        exec (.messagePost l id v) s = .next (s.report (.messagePosted 1)))) ∧
    (∀ v vs, p.messages = v :: vs → p.ipend.getLsbD 1 = false → p.cond ≠ .inTransit →
      ∃ q, exec (.messageDeliver k) s = .next (s.setPip k q) ∧ marked q 1 ∧
        q = { p with ipend := q.ipend, msg := v, messages := vs }) ∧
    (∀ (w : BitVec 32) (e : Reject), k = s.cur → decode w.toNat = .error e →
      exec (.illegalInstruction w) s = .next (s.takeTrap k p .illegal false (w.setWidth 64))) ∧
    (∀ (c : Cause) (t : State), k = s.cur → s.fetchWord k p = (t, some (.error c)) →
      exec .fetchFault s = .next (t.takeTrap k p c false p.pc))

/-- TASK_START (R44) and DEQUE_LEVELLING (R45): an idle pip takes the most recent entry of its core's deque, with g4 to g8, its PC
and steer registers set and an acquire, unless the deques have been sampled in this cycle (R377); levelling loses and repeats no entry and leaves no deque above 64.
Which entries of an offer move that is accepted in part is the model's choice (log entry 55). -/
def Obligations.TasksStartAndAreLevelled : Prop :=
  (∀ (core k : Nat) (s : State) (p : Pip) (e : Task4) (es : List Task4), (s.core core).deque = e :: es →
    (s.cluster (core / 16)).lastLevel ≠ some s.cycle →
    s.pips.find? (fun x => x.1 / 16 == core && x.2.cond == .idle && !x.2.held) = some (k, p) →
    ∃ t q, exec (.taskStart core) s = .next t ∧ (t.core core).deque = es ∧ (t.core core).lines = [] ∧ t.pip k = some q ∧
      q.pc = e.t ∧ q.cond = .ready ∧ q.gv 4 = e.g4 ∧ q.gv 5 = e.g5 ∧ q.gv 6 = e.g6 ∧ q.gv 7 = e.g7 ∧ q.gv 8 = e.counter ∧
      (∀ r : Reg, q.gf r = (p.gf r || decide (4 ≤ r ∧ r ≤ 8))) ∧ (∀ r : Reg, ¬(4 ≤ r ∧ r ≤ 8) → q.gv r = p.gv r) ∧
      (∀ n, q.steer n = {}) ∧ q.status = p.status ∧ q.v = p.v ∧ ∀ j, j ≠ k → t.pip j = s.pip j) ∧
  ∀ (cl : Nat) (s : State), s.levelDue cl = true → (∀ k < 16, (s.core (16 * cl + k)).deque.length ≤ 64) →
    ∃ t, exec (.dequeLevelling cl) s = .next t ∧ (t.cluster cl).lastLevel = some s.cycle ∧ t.pips = s.pips ∧
      (∀ k < 16, (t.core (16 * cl + k)).deque =
        (levelled ((List.range 16).map (fun k => (s.core (16 * cl + k)).deque))).getD k []) ∧
      (∀ k < 16, (t.core (16 * cl + k)).deque.length ≤ 64) ∧
      ((List.range 16).flatMap (fun k => (t.core (16 * cl + k)).deque)).Perm
        ((List.range 16).flatMap (fun k => (s.core (16 * cl + k)).deque))

/-- MIGRATION_DEPART and MIGRANT_RESUME (R47, R49): the pip leaves as a MIG packet once nothing is outstanding, and resumes in the
lowest free slot of the target; the packet brings back its PC, special registers, steer registers and full registers, and
with VL 0 every v register zero and full. MIG (R48), MACK (R294) and MREF (R47): a migrant enters the lowest free inbox entry
of a cluster where its launch runs and is acknowledged, or is refused; the origin slot becomes free, or the pip goes on where
it was. UNKNOWN_KIND_PACKET (R276). -/
def Obligations.MigrationCarriesThePipsRegisters : Prop :=
  ((∀ (k : Nat) (s : State) (p : Pip) (a dst : Word), s.pip k = some p → p.cond = .parked (.migrate a) → p.ops = [] →
     p.deferredTrap = none → p.held = false → s.resolve (s.jobOfLaunch p.launch) a = some dst →
     s.mayInject (s.clusterAddr (k / 256)) dst p.pack.length 1 = true →
     ∃ q : Packet, exec (.migrationDepart k) s =
         .next ((s.inject (.migrant k) q).setPip k { p with cond := .inTransit }) ∧
       q.kind = 5 ∧ q.src = s.clusterAddr (k / 256) ∧ q.dst = dst ∧ q.addr = a ∧ q.body = p.pack ∧ q.launch = p.launch) ∧
   (∀ (cl e n : Nat) (s : State) (m : Migrant), mget (s.cluster cl).inbox e = some m → n < 256 →
     s.pip (256 * cl + n) = none → (∀ j < n, s.pip (256 * cl + j) ≠ none) → s.takesMigrants cl m.launch = true →
     m.notBefore ≤ s.timeAt cl → ∃ t, exec (.migrantResume cl e) s = .next t ∧ mget (t.cluster cl).inbox e = none ∧
       (t.core ((256 * cl + n) / 16)).lines = [] ∧ t.hbm = s.hbm ∧
       t.pip (256 * cl + n) = some { Pip.unpack m.bytes with
         extent := s.extentOf m.launch, messages := m.messages, refusedVal := m.refusedVal, engerrVal := m.engerrVal,
         rejectVal := m.rejectVal }) ∧
   ∀ p : Pip, p.masked = p →
     let q := Pip.unpack p.pack
     q.pc = p.pc ∧ q.status = p.status ∧ q.pipid = p.pipid ∧ q.coord = p.coord ∧ q.asid = p.asid ∧ q.ipend = p.ipend ∧
     q.launch = p.launch ∧ q.fpmode = p.fpmode ∧ q.refused = p.refused ∧ q.engerr = p.engerr ∧ q.tvec = p.tvec ∧
     q.tcmp = p.tcmp ∧ q.tcause = p.tcause ∧ q.tval = p.tval ∧ q.tpc = p.tpc ∧ q.hsave = p.hsave ∧ q.msg = p.msg ∧
     (∀ n, q.steer n = p.steer n) ∧ (∀ r, q.gf r = p.gf r ∧ (p.gf r = true → q.gv r = p.gv r)) ∧
     (p.status.getLsbD 4 = true → ∀ r, q.vf r = p.vf r ∧ (p.vf r = true → q.vv r = p.vv r)) ∧
     (p.status.getLsbD 4 = false → ∀ r, q.vf r = true ∧ q.vv r = 0)) ∧
  (∀ (n : Nat) (q : Packet) (s : State),
     (s.Arrived n q 0x05 → q.crossesDie = false →
       let cl := clusterNamed q.dst
       let m : Migrant := { bytes := q.body }
       (∀ e < 64, s.takesMigrants cl m.launch = true → mget (s.cluster cl).inbox e = none →
         (∀ d < e, mget (s.cluster cl).inbox d ≠ none) → ∃ t x, exec (.migReq n) s = .next t ∧
           mget (t.cluster cl).inbox e = some x ∧ x.bytes = q.body ∧ s.Answers t q q.dst 0x13 [] 0 ∧ t.hbm = s.hbm ∧
           ∀ d, d ≠ e → mget (t.cluster cl).inbox d = mget (s.cluster cl).inbox d) ∧
       (s.takesMigrants cl m.launch = false ∨ (∀ e < 64, mget (s.cluster cl).inbox e ≠ none) →
         ∃ t, exec (.migReq n) s = .next t ∧ s.Answers t q q.dst 0x14 [] 0 ∧ t.clusters = s.clusters ∧ t.pips = s.pips)) ∧
     (∀ (o : Outstanding) (k : Nat), o.origin = .migrant k → s.Responds n q 0x13 o →
       ∃ t, exec (.mackResp n) s = .next t ∧ t.pip k = none ∧ (∀ j, j ≠ k → t.pip j = s.pip j) ∧ t.clusters = s.clusters) ∧
     (∀ (o : Outstanding) (k : Nat) (p : Pip), o.origin = .migrant k → s.Responds n q 0x14 o → s.pip k = some p →
       ∃ t, exec (.mrefResp n) s = .next t ∧ t.pip k = some { p with cond := .ready, stay := some p.pc, news := [] } ∧
         (∀ j, j ≠ k → t.pip j = s.pip j) ∧ t.clusters = s.clusters) ∧
     (mget s.net.packets n = some q → s.here q.dst = true → packetKinds.contains q.kind = false →
       exec (.unknownKindPacket n) s = .next ((s.dropPacket n).report (.moduleFault q.kind.toNat))))

/-- POD_TIMER_EXPIRY, SEAL_SLOT and SEAL_COMPLETE (R90 to R92): the pod is SEALED at the deadline and its seal slots fall due; a
slot makes the granules of its bank SEALED and notes those that were FULL; completion writes the mask of the rows whose
data granules were all FULL. That a deadline which passed while its cluster was saved has its seal point in the cycle after the one of
resumption is the model's reading of R97 (log entry 55). -/
def Obligations.SealsRunThroughTheirBanks : Prop :=
  ∀ (cl n : Nat) (s : State),
    let c := s.cluster cl
    let P := c.pod n
    (P.state = 1 → P.timed = true → P.w1.toNat ≤ s.timeAt cl → c.launch.isSome = true →
      (∀ m, mget c.opened n = some m → m < s.cycle) →
      ∃ t x, exec (.podTimerExpiry cl n) s = .next t ∧ ((t.cluster cl).pod n).state = 2 ∧
        (∀ k, k ≠ 43 → k ≠ 44 → ((t.cluster cl).pod n).w0.getLsbD k = P.w0.getLsbD k) ∧
        (t.cluster cl).seals = c.seals ++ [x] ∧ x.pod = n ∧ x.point = s.cycle ∧ x.timer = true ∧ x.full = [] ∧
        (∀ b, b ∈ x.due ↔ b < 16 ∧ ∃ g < P.footprint / 16, g < 256 ∧ bankOf (16 * (P.base / 16 + g)) = b) ∧
        (t.cluster cl).sp = c.sp ∧ t.pips = s.pips) ∧
    (∀ (b : Nat) (x : Seal), c.seals.find? (fun y => y.pod == n) = some x → s.sealReady cl x b = true →
      ∃ t y, exec (.sealSlot cl n b) s = .next t ∧ (t.cluster cl).seals.find? (fun z => z.pod == n) = some y ∧
        y.due = x.due.filter (· != b) ∧ y.last = s.cycle ∧ y.point = x.point ∧
        (∀ g, g ∈ y.full ↔ g ∈ x.full ∨ (g ∈ P.granules b ∧ c.gran (16 * g) = .full)) ∧
        (∀ g, (t.cluster cl).gran (16 * g) = if g ∈ P.granules b then .sealed else c.gran (16 * g)) ∧
        (t.cluster cl).sp = c.sp) ∧
    (∀ x : Seal, c.seals.find? (fun y => y.pod == n) = some x → x.due = [] → x.last < s.cycle →
      ∃ t e, exec (.sealComplete cl n) s = .next t ∧ (t.cluster cl).pod n = e ∧
        (t.cluster cl).seals = c.seals.filter (fun z => z.pod != n) ∧ e.w1 = P.w1 ∧
        (∀ r < 128, (if r < 64 then e.w2.getLsbD r else e.w3.getLsbD (r - 64)) = true ↔
          r < P.rows ∧ ∀ g ∈ granulesOf (P.base + r * P.rowBytes) P.rowBytes, g ∈ x.full) ∧
        (∀ k, k < 53 ∨ 61 ≤ k → e.w0.getLsbD k = P.w0.getLsbD k) ∧
        (t.cluster cl).sp = c.sp ∧ ∀ g, (t.cluster cl).gran (16 * g) = c.gran (16 * g))

/-! ### Engines -/

/-- ENGINE_COMMAND_ACCEPT (R225, R227, R232, R235, R236, R239, R197, R200, R262): a COPY, MCAST, list GATHER or SCATTER, MERGE, MTASK,
KVLD or ATTN that passes its checks takes the next identifier of its context, which is its result, and one that fails them has
the code of the first. ENGINE_COMMAND_COMPLETE (R117): one with nothing left to do leaves the queue. ENGINE_HANDOFF (R242): a
stopped one goes on in firmware. ENGINE_ACCESS (R230, R236, R238, R240, R241, R264, R267): a piece of a COPY, GATHER or SCATTER
whose source lies in global space reads the bytes at the translated address, and one whose destination does writes its bytes
there; a MERGE writes its entries and its count word; a row of KVLD and a triple of ATTN go to their pod. No other byte of memory
changes. What is read at acceptance (log entry 40), and that KVLD with MASK 0 has the issuer's cluster as its one target (log entry
22), is the model's reading. -/
def Obligations.CommandsAreAcceptedPerformedAndCompleted : Prop :=
  ((∀ (k n ch : Nat) (kind : CmdKind) (a : Word) (s : State) (p : Pip) (o : Op), s.AtHead k n p o kind a ch → s.NoReds →
     let cl := k / 256
     let i := s.issuerOf k p o
     let spres := s.spresOf p.launch
     let r := readBytes (s.cluster cl).sp (offsetOf a) 64
     let b := Box.of r
     let mine := fun (c : Cmd) => c.kind = kind ∧ c.record = r ∧ c.issuer = i
     let v := s.opened (.op k n) (s.clusterAddr cl)
     (∀ e : EngineRef, ((kind = .copy ∨ kind = .mcast) ∧ e = .copy cl ch ∧ ch < (s.cluster cl).copies.length) ∨
         ((kind = .gatherList ∨ kind = .scatterList) ∧ e = .gather cl) → s.Takes e k o →
       let ok := s.addressesOk i.job spres kind b Spr.empty
       let targets := kind = .mcast → b.dsp = true ∧ s.multicastOk i b.aux b.dst = true
       (b.fieldsOk kind Spr.empty = false → s.Refuses e k n 1) ∧
       (b.fieldsOk kind Spr.empty = true → ok = false → s.Refuses e k n 2) ∧
       (b.fieldsOk kind Spr.empty = true → ok = true → ¬ targets → s.Refuses e k n 3) ∧
       (b.fieldsOk kind Spr.empty = true → ok = true → targets → b.bar = 0 → ∀ (u : State) (side : List (Option Byte)),
         v.readSide k n i e kind b (sprFirst r) (sideLength kind b) (sideLength kind b + 1) [] = (u, side, none) → u.Whole →
         s.Accepts e k n (fun c => mine c ∧ c.side = side ∧ (kind = .mcast → c.targets = maskTargets cl b.aux)))) ∧
     (∀ mode, kind = .merge mode → s.Takes (.merge cl) k o →
       let m := MergeRecord.of r
       (m.fieldsOk = false → s.Refuses (.merge cl) k n 1) ∧
       (m.fieldsOk = true → s.mergeOk i spres m = false → s.Refuses (.merge cl) k n 2) ∧
       (m.fieldsOk = true → s.mergeOk i spres m = true → m.bar = 0 → s.Accepts (.merge cl) k n mine)) ∧
     (kind = .mtask → s.comesFirst k o (.matrix cl) = false → (∀ c ∈ mtaskClusters r cl, (s.cluster c).matrix.queue = []) →
       let held := ∀ c ∈ mtaskClusters r cl, (s.cluster c).launch = some p.launch
       let live := ∀ c ∈ mtaskClusters r cl, (s.cluster c).handlesOk r = true
       let apart := distinct (mtaskOuts r) = true ∧ ∀ h ∈ mtaskOuts r, h ∉ mtaskIns r
       let room := ∀ c ∈ mtaskClusters r cl, (s.cluster c).mu.table.length < 32
       (mtaskFieldsOk r = false → s.Refuses (.matrix cl) k n 1) ∧
       (mtaskFieldsOk r = true → ¬ held → s.Refuses (.matrix cl) k n 5) ∧
       (mtaskFieldsOk r = true → held → ¬ live → s.Refuses (.matrix cl) k n 2) ∧
       (mtaskFieldsOk r = true → held → live → ¬ apart → s.Refuses (.matrix cl) k n 3) ∧
       (mtaskFieldsOk r = true → held → live → apart → ¬ room → s.Refuses (.matrix cl) k n 4) ∧
       (mtaskFieldsOk r = true → held → live → apart → room → ∃ t, exec (.engineCommandAccept k n) s = .next t ∧
         t.Gives k n (s.cluster cl).matrix.counter ∧ ∀ c ∈ mtaskClusters r cl,
           (t.cluster c).matrix.counter = (s.cluster c).matrix.counter + 1 ∧ (t.cluster c).mu.table = (s.cluster c).mu.table ++
             [MTask.of r i c (s.cluster c).matrix.counter (s.cluster cl).matrix.counter])) ∧
     (kind = .kvld ∨ kind = .attn → fieldAt r 0x26 2 ≤ 4095 → s.Takes (.nma (fieldAt r 0x26 2)) k o →
       let e : EngineRef := .nma (fieldAt r 0x26 2)
       let near := virtOk (fieldAt r 0 8) 64 && s.barOk i.job spres (word (fieldAt r 0x10 8)) &&
         s.plainOk i spres (word (fieldAt r 8 8)) 4 (4 * fieldAt r 0x20 2)
       (nmaFieldsOk kind r = false → s.Refuses e k n 1) ∧
       (nmaFieldsOk kind r = true → near = false → s.Refuses e k n 2) ∧
       ((v.readPsd i (word (fieldAt r 0 8))).1.Whole →
       (nmaFieldsOk kind r = true → near = true → (v.readPsd i (word (fieldAt r 0 8))).2 = none → s.Refuses e k n 2) ∧
       ∀ psd j, nmaFieldsOk kind r = true → near = true → (v.readPsd i (word (fieldAt r 0 8))).2 = some psd →
         let mask := word (fieldAt r 0x18 8)
         (kind = .attn → s.plainOk i spres mask 16 (fieldAt r 0x24 1 * fieldAt psd 2 2 * 4) = true) →
         (kind = .kvld → ∀ c ∈ maskTargets cl mask, (s.cluster c).launch = some p.launch) →
         (s.cluster cl).live (word (fieldAt r 0x22 2)) = some j →
         (nmaPodOk kind r psd ((s.cluster cl).pod j) = false → s.Refuses e k n 5) ∧
         (nmaPodOk kind r psd ((s.cluster cl).pod j) = true → word (fieldAt r 0x10 8) = 0 → s.Accepts e k n (fun c => mine c ∧
           c.targets = (if kind = .kvld ∧ mask ≠ 0 then maskTargets cl mask else [cl]) ∧
           c.side = (psd ++ [BitVec.ofNat 8 ((s.cluster cl).pod j).fmt]).map some))))) ∧
   (∀ (e : EngineRef) (n : Nat) (s : State) (c : Cmd), s.command? e n = some c →
     (c.kind.byAccess = true → c.accessed = true → c.sealHandle = none → c.error = none → (c.barrier = 0 ∨ c.arrived = true) →
       c.awaiting = [] → (c.kind.multi = true → ∀ x ∈ c.targets, x ∈ c.arrivedIn) → ∃ t, exec (.engineCommandComplete e n) s = .next t ∧
         (t.context e).queue = (s.context e).queue.filter (fun d => d.id != n) ∧
         (s.context e).timeline ≤ (t.context e).timeline ∧
         ((s.context e).timeline + 1 = n → n ≤ (t.context e).timeline) ∧ t.hbm = s.hbm ∧ t.pips = s.pips) ∧
     (c.stopped = true → ∃ t, exec (.engineHandoff e n) s = .next t ∧
       t.command? e n = some { c with stopped := false, firmware := true } ∧ t.hbm = s.hbm ∧ t.pips = s.pips))) ∧
  (∀ (e : EngineRef) (n k : Nat) (s : State) (c : Cmd), s.NoReds → s.command? e n = some c → s.mayBegin e c = true →
     s.Tries (.engine e n k) →
     let v := s.opened (.engine e n k) (s.engineEndpoint e)
     let begun := v.modCommand e n (fun d => { d with begun := true })
     let finds := fun (x : State) (need : Need) (a : Word) (pa : Nat) =>
       (x.engineTranslate e c need a).2 = .ok pa ∧ (x.engineTranslate e c need a).1.Whole
     let after := fun (P : State → Cmd → Prop) => ∃ t d, exec (.engineAccess e n k) s = .next t ∧ t.command? e n = some d ∧
       t.pips = s.pips ∧ P t d
     (c.kind = .copy ∨ c.kind = .gatherList ∨ c.kind = .scatterList ∨ c.kind = .gatherSpr ∨ c.kind = .scatterSpr →
       let b := Box.of c.record
       let same := s.sameSpace c b
       let script := b.script c.kind (sprFirst c.record) c.side same (s.sameAux c b) k (c.have_ k)
       c.eligible same b k c.total = true →
       (∀ x pa, script = .error x → x.loc = false → finds begun .load x.addr pa → homeDie pa = engineDie e →
         after (fun t d => d.begun = true ∧ (∀ y, readByte t.hbm y = readByte s.hbm y) ∧
           d.have_ k = c.have_ k ++ (readBytes s.hbm pa (min x.n (128 - x.addr.toNat % 128))).map some)) ∧
       (∀ a bs pa, script = .ok [(a, bs)] → b.dsp = false → c.barrier = 0 →
         finds begun .store a pa → homeDie pa = engineDie e →
         after (fun t d => d.begun = true ∧ (k < d.next ∨ k ∈ d.finished) ∧ d.left = c.left ∧ Wrote s t pa bs))) ∧
     (∀ mode, c.kind = .merge mode → c.stopped = false → c.awaiting = [] → c.barrier = 0 →
       let m := MergeRecord.of c.record
       (∀ a bs x pa, m.step mode c.merge = .write a bs x → m.localOut = false → finds v .store a pa →
         homeDie pa = engineDie e → after (fun t d => d.merge = x ∧ Wrote s t pa bs)) ∧
       (m.step mode c.merge = .count → s.slotsFor (.live c.issuer.cl) (offsetOf m.count) 1 = true →
         (s.cluster c.issuer.cl).refusalInSlot m.count (offsetOf m.count) 8 true = none →
         after (fun t d => d.merge.counted = true ∧ t.hbm = s.hbm ∧
           ∀ y, readByte (t.cluster c.issuer.cl).sp y = if offsetOf m.count ≤ y ∧ y < offsetOf m.count + 8 then
             (natBytes 8 c.merge.countWord.toNat).getD (y - offsetOf m.count) 0 else readByte (s.cluster c.issuer.cl).sp y))) ∧
     (c.kind = .kvld ∨ c.kind = .attn → ∀ (bs : List Byte) (x : Nat) (a dst : Word), c.stopped = false → c.startNeed = none →
       c.have_ tagTable ≠ [] →
       let per := if c.kind = .kvld then c.pagePositions else c.heads
       let j := k / per
       let layout := fieldAt c.known 4 1
       let freq := c.words tagFreq
       let image : PageImage := ⟨bs, Header.of bs⟩
       let src := s.pageUnit e c j
       let off := if c.kind = .kvld then (fieldAt c.record 0x24 1 + k) * (c.headDim * elementBytes c.podFormat) else k * tripleSize c.headDim
       let triple := image.triple layout c.headDim freq (((c.words tagQuery).drop (k % per * c.headDim)).take c.headDim) (fieldAt c.record 0x25 1)
       let data := if c.kind = .kvld then image.podRow layout c.headDim c.podFormat freq c.unrotated (k % per)
         else tripleBytes c.headDim triple.1 triple.2.1 triple.2.2
       c.have_ (tagPage j) = bs.map some → bs ≠ [] → k < c.total → c.next ≤ k → k ∉ c.finished → (∀ y ∈ c.awaiting, y.1 ≠ k) →
       s.nmaReady src c = true → c.targets = [x] → s.podRuns c x off data = some [(a, data)] → s.resolve c.issuer.job a = some dst →
       after (fun t _ => t.hbm = s.hbm ∧ ∃ q, mget t.net.packets s.net.nextPacket = some q ∧ q.kind = 0x03 ∧ q.src = src ∧
         q.dst = dst ∧ q.addr = a ∧ q.setFull = true ∧ q.body = data)))

/-- MLOAD_PERFORM (R185, R396) and TINV_COMPLETE (R123, R428): the oldest MLOAD installs a program that breaks no rule of bundles,
or leaves the programs as they are, and its identifier is passed; a TINV whose commands ahead have completed leaves no
translation that its record, as it was at acceptance, covers in the TLB of its die, and no L1 line of its address space in its own
cluster. PGALLOC, PGFREE, PGFORK, PGLOOK, PGINS, PGSHIFT and KVAPP (R249, R251, R255 to R260, R405, R406): one that fails gives the code
of R254 and changes nothing; one that succeeds gives its value and changes its page's header, and KVAPP the codes of one position.
That a page instruction translates for its issuer (log entry 40), and how KVAPP's checks are ordered (log entry 48), is the model's
reading. -/
def Obligations.ProgramsAreLoadedAndTranslationsDropped : Prop :=
  (∀ (cl : Nat) (s : State) (c : Cmd), (s.cluster cl).matrix.queue.head? = some c →
    s.Tries (.mload cl c.id) →
    let v := s.opened (.mload cl c.id) (s.clusterAddr cl)
    (∀ slot p u, (mloadStep (s.cluster cl).mu c.issuer c.record).run v = .ok ((slot, p), u) → u.Whole →
      p.check = none ∧ ∃ t, exec (.mloadPerform cl) s = .next t ∧ mget (t.cluster cl).mu.programs slot = some p ∧
        (∀ other, other ≠ slot → mget (t.cluster cl).mu.programs other = mget (u.cluster cl).mu.programs other) ∧
        (t.cluster cl).matrix = (u.cluster cl).matrix.complete c.id) ∧
    (∀ d, (mloadStep (s.cluster cl).mu c.issuer c.record).run v = .error d → d.lacks = false →
      ∃ t, exec (.mloadPerform cl) s = .next t ∧ (t.cluster cl).mu = (s.cluster cl).mu ∧
        (t.cluster cl).matrix = (s.cluster cl).matrix.complete c.id ∧ t.hbm = s.hbm ∧
        ∀ k o p, s.mloadOp c = some (k, o) → s.pip k = some p → p.op o.id = some o → o.dest ≠ .none → t.Gives k o.id ((2 ^ 63 + d.detail) % 2 ^ 64))) ∧
  (∀ (k n mode : Nat) (a : Word) (ahead : List (EngineRef × Nat)) (s : State) (p : Pip) (o : Op), s.NoReds →
    s.pip k = some p → p.op n = some o → o.kind = .tinv mode a → o.phase = .accepted ahead → o.dest ≠ .none →
    (∀ m ∈ ahead, s.command? m.1 m.2 = none) → s.usesOver (k / 65536) (o.rel.getD 0) mode o.data = true → o.modules = [] →
    ∃ t, exec (.tinvComplete k n) s = .next t ∧ t.hbm = s.hbm ∧ t.Gives k n 0 ∧
      (∀ x ∈ mgetD t.tlbs (k / 65536) [], tinvCovers mode o.data x.asid x.vpage x.size = false) ∧
      (2 ≤ o.rel.getD 0 → ∀ core, core / 16 = k / 256 → ∀ l ∈ (t.core core).lines, tinvAsid mode o.data l.asid = false)) ∧
  (∀ (k n ch : Nat) (kind : CmdKind) (a : Word) (s : State) (p : Pip) (o : Op), s.pip k = some p → p.op n = some o →
    o.kind = .command kind a ch → s.canPerform k p o = true → o.dest ≠ .none → o.phase = .fetching [] 6 →
    (s.askOf (.op k n)).any Ask.over = true →
    ∃ t q y, exec (.engineCommandAccept k n) s = .next t ∧ t.hbm = s.hbm ∧ t.pip k = some q ∧ q.op n = some y ∧ y.phase = .done ∧
      y.result = o.result) ∧
  ∀ (k n ch : Nat) (kind : CmdKind) (a : Word) (s : State) (p : Pip) (o : Op), s.AtHead k n p o kind a ch → s.NoReds →
    let i := s.issuerOf k p o
    let r := readBytes (s.cluster (k / 256)).sp (offsetOf a) 64
    let v := s.opened (.op k n) (s.clusterAddr (k / 256))
    let page := fieldAt r 8 4
    let ends := fun (step : PageStep Nat) (P : State → Nat → Prop) =>
      (∀ d, step.run v = .error d → d.lacks = false →
        ∃ t, exec (.engineCommandAccept k n) s = .next t ∧ t.hbm = s.hbm ∧ t.Gives k n ((2 ^ 63 + d.detail) % 2 ^ 64)) ∧
      ∀ x u, step.run v = .ok (x, u) → u.Whole →
        (u.reach.any (fun y => !y.writes.isEmpty) = true → ∃ t q y b, exec (.engineCommandAccept k n) s = .next t ∧ t.pip k = some q ∧
          q.op n = some y ∧ y.phase = .fetching [] 6 ∧ y.result = BitVec.ofNat 512 x ∧ t.askOf (.op k n) = some b ∧ b.closing = true) ∧
        (u.reach.any (fun y => !y.writes.isEmpty) = false → s.askOf (.op k n) = none →
          ∃ t, exec (.engineCommandAccept k n) s = .next t ∧ t.Gives k n x ∧ P t x)
    let h := s.headerOf page
    let allocated := ∀ x u, (readSet i (word (fieldAt r 0 8))).run v = .ok (x, u) → (x.entry page).isSome = true ∧ 0 < h.ref
    (kind = .pgalloc → ends (pgalloc i r) (fun t id =>
      let e := t.headerOf id
      e.tag = 0 ∧ e.ref = 1 ∧ e.tagged = false ∧
      (∀ off, 0x24 ≤ off → off < 0x100 → readByte t.hbm (pageBase id + off) = 0) ∧
      (fieldAt r 0x20 1 < 128 → e.pb = fieldAt r 0x0C 4 ∧ e.fill = 0 ∧ e.ocount = 0 ∧ e.flags = fieldAt r 0x20 1 ∧
        e.kscale = fieldAt r 0x22 2 ∧ e.vscale = fieldAt r 0x24 2 ∧ e.kzero = fieldAt r 0x26 1 ∧ e.vzero = fieldAt r 0x27 1 ∧
        e.skscale = fieldAt r 0x28 2 ∧ (∀ off, 0x100 ≤ off → off < 0x200 → readByte t.hbm (pageBase id + off) = 0) ∧
        ∀ x u, (readSet i (word (fieldAt r 0 8))).run v = .ok (x, u) → e.layout = x.layout ∧ e.hdim = x.d) ∧
      (128 ≤ fieldAt r 0x20 1 → ∀ off, 0x100 ≤ off → off < 0x8000 →
        readByte t.hbm (pageBase id + off) = readByte t.hbm (pageBase page + off)))) ∧
    (kind = .pgfree → ends (pgfree i r) (fun t x => allocated ∧ x = h.ref - 1 ∧ (t.headerOf page).ref = h.ref - 1 ∧
      (1 < h.ref → Wrote s t (pageBase page + 0x14) (natBytes 2 (h.ref - 1))))) ∧
    (kind = .pgfork → ends (pgfork i r) (fun t x => allocated ∧ h.ref < 65535 ∧ x = h.ref + 1 ∧
      Wrote s t (pageBase page + 0x14) (natBytes 2 (h.ref + 1)))) ∧
    (kind = .pglook → ends (pglook i r) (fun t id => (s.headerOf id).ref < 65535 ∧
      Wrote s t (pageBase id + 0x14) (natBytes 2 ((s.headerOf id).ref + 1)))) ∧
    (kind = .pgins → ends (pgins i r) (fun t x => allocated ∧ x = 0 ∧ h.tagged = false ∧ (t.headerOf page).tagged = true ∧
      (t.headerOf page).tag = fieldAt r 0x10 16)) ∧
    (kind = .pgshift → ends (pgshift i r) (fun t x => allocated ∧ h.ref = 1 ∧ x = h.pb ∧ (t.headerOf page).tagged = false ∧
      (h.tagged = false → Wrote s t (pageBase page + 0x10) (natBytes 4 (fieldAt r 0x0C 4))))) ∧
    (kind = .kvapp → ends (kvapp i (s.spresOf p.launch) r) (fun t z => allocated ∧ h.ref = 1 ∧ z = h.fill + 1 ∧ (t.headerOf page).fill = h.fill + 1 ∧
      ∀ x u, (readSet i (word (fieldAt r 0 8))).run v = .ok (x, u) →
        let xs := (List.range (2 * x.d)).map (fun m => leNat (readBytes (s.cluster i.cl).sp (offsetOf (word (fieldAt r 0x10 8)) + 4 * m) 4))
        let row := h.fill * rowStride x.layout
        let ks := kvHalf h.kf h.kscale h.kzero row (xs.take x.d)
        let vs := kvHalf h.vf h.vscale h.vzero (8192 + row) (xs.drop x.d)
        h.fill < positions x.layout ∧ (t.headerOf page).ocount = h.ocount + ks.2.length + vs.2.length ∧
        ∀ m < x.d, readByte t.hbm (pageBase page + 0x200 + row + m) = BitVec.ofNat 8 (ks.1.getD m 0) ∧
          readByte t.hbm (pageBase page + 0x2200 + row + m) = BitVec.ofNat 8 (vs.1.getD m 0)))

/-! ### The matrix unit -/

/-- TASK_DISPATCH (R198, R199), MATRIX_BUNDLE_ISSUE (R201, R176, R219) and FILLER_MMA (R329): an idle unit takes a ready task that
no ready task precedes by PRIORITY or, among equals, by identifier, with its latches cleared; a bundle without a fault, with the
checking of hazards off, schedules what each of its slots schedules and its header's counter (R177 to R181, R203, R204, R217, R218, R331 to
R346, R393, R397, R398, R412 to R414, R430 to R434), and the next bundle after its stall; a slot whose geometry fails, an MMA while the
array is taken, and a bundle beyond the bound between stop points are faults (R220, R221, R223). What a tile load reads: the values of a
vector, and of a dense pod without outliers the codes of its elements by row or by column (R208, R209, R212); a TST writes the elements of
its block in the format of its pod, row by row. A filler occupies the array of a clocked cluster for 64 cycles. That the running task has left
the table, and when a filler begins, are readings of the model (log entries 25 and 38). -/
def Obligations.TasksDispatchAndBundlesIssue : Prop :=
  ∀ (cl : Nat) (s : State),
    let c := s.cluster cl
    let ready := fun (u : MTask) => u ∈ c.mu.table ∧ ∀ h ∈ u.ins, c.sealedPod h = true
    (c.mu.run = none → c.mu.freeAt ≤ s.cycle → s.stopping cl = false → c.mu.halted = false → c.mu.fillerEnd ≤ s.cycle → (∃ u, ready u) →
      ∃ t r, exec (.taskDispatch cl) s = .next t ∧ (t.cluster cl).mu.run = some r ∧ ready r.task ∧
        (∀ u, ready u → u.prio < r.task.prio ∨ (u.prio = r.task.prio ∧ r.task.id ≤ u.id)) ∧
        (t.cluster cl).mu.table = c.mu.table.filter (fun u => u.id != r.task.id) ∧ (t.cluster cl).mu.lc = [0, 0, 0, 0] ∧
        (t.cluster cl).mu.sl = 0 ∧ (t.cluster cl).mu.rm = 0 ∧ (t.cluster cl).mu.arr = 0 ∧ (t.cluster cl).mu.acc = c.mu.acc ∧
        (t.cluster cl).mu.ta = c.mu.ta ∧ (t.cluster cl).mu.tb = c.mu.tb ∧ (t.cluster cl).sp = c.sp ∧
        (∀ i < r.task.ins.length, i < 8 → r.h[i]? = some (r.task.ins[i]?)) ∧
        (∀ i < r.task.outs.length, i < 8 → r.h[8 + i]? = some (r.task.outs[i]?)) ∧
        ((mget c.mu.programs r.task.prog).isSome = true → r.fault = none ∧ r.stage = .running ∧ r.pos = 0) ∧
        (mget c.mu.programs r.task.prog = none → r.fault = some (5, 0, 0) ∧ r.stage = .over)) ∧
    (∀ r : Run, c.mu.run = some r → s.bundleDue cl = true → r.writeDue s.cycle = false → r.saveDue s.cycle = false →
      s.tsigDue cl = false → c.sealEnds s.cycle = false → c.mu.stepping = false →
      let b := (c.mu.bundle r).1
      let t0 := s.cycle
      let runs := fun (P : Run → Prop) => ∃ t q, exec (.matrixBundleIssue cl) s = .next t ∧ (t.cluster cl).mu = { c.mu with run := some q } ∧
        (t.cluster cl).sp = c.sp ∧ t.pips = s.pips ∧ t.hbm = s.hbm ∧ P q
      let faults := fun (code slot : Nat) => runs (fun q => q = { r with fault := some (code, r.pos, slot), stage := .over })
      let shape := fun (ws : List MuWrite) => ws.map (fun w => (w.cycle, w.act, w.port))
      (r.started = true → stopOf b = false → r.bound ≠ 0 → r.bound < t0 - r.lastPoint → faults codeBound 0) ∧
      (r.bound = 0 ∨ t0 - r.lastPoint ≤ r.bound →
        (∀ e, opOf (part b 1) ≠ 0 → c.load r c.mu.lc false (part b 1) = .error e → faults e 1) ∧
        (∀ e, opOf (part b 1) = 0 → opOf (part b 2) ≠ 0 → c.load r c.mu.lc true (part b 2) = .error e → faults e 2) ∧
        (opOf (part b 1) = 0 → opOf (part b 2) = 0 → opOf (part b 3) ≠ 0 → t0 < r.arrayEnd → faults codeStall 3) ∧
        ∀ e1 e2 w1 w2 w3 w4 w6 saves tsigs pos stage, r.check = false → (opOf (part b 3) ≠ 0 → r.arrayEnd ≤ t0) →
          c.LoadGives r t0 r.readEnd false (part b 1) e1 w1 → c.LoadGives r t0 e1 true (part b 2) e2 w2 →
          c.mu.MmaGives t0 (part b 3) w3 → c.mu.VecGives t0 (part b 4) w4 → c.StoreGives r t0 (part b 5) saves tsigs →
          c.mu.HeaderGives r t0 b (c.mu.bundle r).2 pos stage w6 →
          runs (fun q => q.started = true ∧ q.fault = r.fault ∧ q.due = t0 + stallOf b + 1 ∧ q.readEnd = e2 ∧
            q.arrayEnd = (if opOf (part b 3) = 0 then r.arrayEnd else t0 + 64) ∧ q.stage = stage ∧ (hopOf b ≠ 3 → q.pos = pos) ∧
            q.saves = r.saves ++ saves ∧ q.tsigs = r.tsigs ++ tsigs ∧
            shape q.writes = shape r.writes ++ w1 ++ w2 ++ w3 ++ w4 ++ w6))) ∧
    (∀ (r : Run) (side : Bool) (x j : Nat) (l : Loaded), c.bound r (handleNumber c.mu.lc x 10 34 35) = some j →
      c.load r c.mu.lc side x = .ok l →
      let v := c.view r j
      let row := bitsOf x 14 7
      let col := bitsOf x 21 9
      (opOf x = 2 → ∃ bs, l.act = .tileValues side (bitsOf x 8 2) bs ∧ ∀ n < 64,
        let size := if v.pod.fmt = 6 then 4 else 2
        let e := leNat (readBytes c.sp (v.pod.base + row * v.pod.rowBytes + col + size * n) size)
        fieldAt bs (4 * n) 4 = if v.row row = false then 0 else if v.pod.fmt = 6 then e
          else (convertF (decodeF (formatType v.pod.fmt) e) .f32 0 false).1 % 2 ^ 32) ∧
      (opOf x = 1 → bitsOf x 31 3 = 0 → v.entries = [] → v.pod.capacity = 0 → ∃ y, l.act = .tile side (bitsOf x 8 2) y ∧
        y.type = ⟨v.pod.fmt, false, v.pod.grp, 0⟩ ∧ y.buffer = [] ∧ ∀ i < 64, ∀ k < kt v.pod.fmt,
          let byRow := (bitsOf x 30 1 == 1) == side
          let at_ := if byRow then (row + i, formatCount v.pod.fmt col + k) else (row + k, formatCount v.pod.fmt col + i)
          (y.elems i)[k]? = some (if v.row at_.1 then .plain (c.podCode v.pod at_.1 at_.2) else .absent))) ∧
    (∀ (r : Run) (x j : Nat) (y : Saved64), c.bound r (handleNumber c.mu.lc x 11 35 36) = some j →
      c.storeBlock r c.mu.lc c.mu.rm (c.mu.block (bitsOf x 8 3)) x = .ok y → ∀ i < 64,
        y.runs[i]? = some ((c.pod j).base + (bitsOf x 15 7 + i) * (c.pod j).rowBytes + bitsOf x 22 9,
          (List.range 64).flatMap (fun k => storeValue (bitsOf x 31 4) c.mu.rm ((c.mu.block (bitsOf x 8 3)).getD (64 * i + k) 0)))) ∧
    (s.clusterClocked cl = true → c.mu.run = none → c.mu.halted = false → c.mu.fillerEnd ≤ s.cycle → (s.rampDown.setWidth 16 : BitVec 16) ≠ 0 →
      ∃ t, exec (.fillerMma cl) s = .next t ∧ (t.cluster cl).mu = { c.mu with fillerEnd := s.cycle + 64 } ∧
        t.fillers = s.fillers + 1 ∧ t.hbm = s.hbm ∧ t.pips = s.pips)

/-- MU_DELAYED_WRITE (R202, R205), TILE_LOAD_SERVICE_END (R203) and TILE_STORE_SERVICE_END (R204, R217): a write that is due changes
its register and no other; an MMA reads its accumulator and writes it 8 cycles later; a store writes its bytes and fills
the EMPTY granules that it touches; that a refusal is counted for each piece within a bank line is the model's reading (log entry
48). -/
def Obligations.DelayedWritesChangeTheirRegister : Prop :=
  ∀ (cl : Nat) (s : State) (r : Run),
    let c := s.cluster cl
    c.mu.run = some r →
    (∀ w : MuWrite, r.nextWrite s.cycle = some w →
      let i : Instr := if w.port then .tileLoadServiceEnd cl else .muDelayedWrite cl
      ∃ t q, exec i s = .next t ∧ (t.cluster cl).mu.run = some q ∧ (t.cluster cl).sp = c.sp ∧ t.pips = s.pips ∧
        (∀ n v, w.act = .acc n v → q.writes = r.writes.erase w ∧ (∀ m, (t.cluster cl).mu.block m = if m = n then v else c.mu.block m) ∧
          (t.cluster cl).mu.ta = c.mu.ta ∧ (t.cluster cl).mu.tb = c.mu.tb) ∧
        (∀ n minus a bs, w.act = .mma n minus a bs → (t.cluster cl).mu.acc = c.mu.acc ∧ q.writes = r.writes.erase w ++
          [⟨w.cycle + 8, w.order, .acc n (mmaBlock a bs minus (some (c.mu.block n))), false⟩]) ∧
        (∀ side n v, w.act = .tile side n v → q.writes = r.writes.erase w ∧ (t.cluster cl).mu.acc = c.mu.acc ∧
          ∀ z m, (t.cluster cl).mu.tile z m = if z = side ∧ m = n then v else c.mu.tile z m) ∧
        (∀ v, w.act = .sl v → (t.cluster cl).mu.sl = v ∧ q.log = (if r.log.length < 64 then r.log ++ [v] else r.log)) ∧
        (∀ rm arr, w.act = .config rm arr → (t.cluster cl).mu.rm = rm ∧ (t.cluster cl).mu.arr = arr)) ∧
    ∀ (n ends off : Nat) (bs : List Byte), r.saves = [⟨ends, [(n, off, bs)]⟩] → n ≤ s.cycle →
      (c.refusalInSlot (word off) off bs.length true = none →
        ∃ t q, exec (.tileStoreServiceEnd cl) s = .next t ∧ (t.cluster cl).mu.run = some q ∧
          q.saves = (if s.cycle < ends then [⟨ends, []⟩] else []) ∧ q.refused = r.refused ∧
          (∀ x, readByte (t.cluster cl).sp x = if off ≤ x ∧ x < off + bs.length then bs.getD (x - off) 0 else readByte c.sp x) ∧
          ∀ g, (t.cluster cl).gran (16 * g) =
            if g ∈ granulesOf off bs.length ∧ c.gran (16 * g) = .empty then .full else c.gran (16 * g)) ∧
      ((c.refusalInSlot (word off) off bs.length true).isSome = true →
        ∃ t q, exec (.tileStoreServiceEnd cl) s = .next t ∧ (t.cluster cl).mu.run = some q ∧ q.refused = r.refused + 1 ∧
          (t.cluster cl).sp = c.sp)

/-- TSIG_SIGNAL (R218, R432) and TASK_END (R200, R216, R219, R220): a signal seals its OPEN output, and arrives; the end of a task goes
from the scale log, of 64 words in its 256 bytes or an error of geometry, to the seal point of the outputs, and then frees the
consumed inputs unless the task is faulted, writes the result word, and passes the task's identifier and raises its fault; the
issuer's part of a gang task waits for the other members' parts. That the end waits for a remote arrival is the model's reading (log
entry 25). -/
def Obligations.TasksSignalAndEnd : Prop :=
  ∀ (cl : Nat) (s : State) (r : Run),
    let c := s.cluster cl
    c.mu.run = some r →
    (∀ x : Tsig, r.tsigs.find? (fun y => decide (y.cycle ≤ s.cycle)) = some x →
      let t := s.setRun cl { r with tsigs := r.tsigs.erase x }
      (∀ h n, x.output = some h → x.arrive = false → c.live (h.setWidth 64) = some n →
        exec (.tsigSignal cl) s = .next (if (c.pod n).state = 1 then t.beginSeal cl n false none else t)) ∧
      (x.output = none → x.arrive = true → s.checkLocal r.task.issuer.job c.spres r.task.barrier 16 = none →
        r.task.barrier ≠ 0 → s.rankHere r.task.issuer.job (rankOf r.task.barrier) = true →
        (s.barrierPlace r.task.issuer.job (clusterOf r.task.barrier) r.task.barrier).isSome = true →
        exec (.tsigSignal cl) s =
          .next (t.barrierChange r.task.issuer.job (clusterOf r.task.barrier) r.task.barrier Barrier.arrive))) ∧
    (r.stage = .over → r.quiet = true → r.unanswered = 0 →
      let a := r.task.scaleLog
      let there := s.taskPlace cl r.task.issuer.job a 16 256
      (a = 0 → exec (.taskEnd cl) s = .next (s.setRun cl { r with stage := .sealing (s.cycle + 1) })) ∧
      (a ≠ 0 → there = true → r.log.length ≤ 64 → ∃ t, exec (.taskEnd cl) s = .next t ∧ t.pips = s.pips ∧ t.hbm = s.hbm ∧
        (t.cluster cl).mu.run = some { r with stage := .sealing (s.cycle + 1) } ∧ (t.cluster cl).grans = c.grans ∧
        ∀ x, readByte (t.cluster cl).sp x = if offsetOf a ≤ x ∧ x < offsetOf a + 256 then
          (r.log.flatMap (fun w => natBytes 4 w.toNat)).getD (x - offsetOf a) 0 else readByte c.sp x) ∧
      (a ≠ 0 → there = false → ∃ t, exec (.taskEnd cl) s = .next t ∧ (t.cluster cl).sp = c.sp ∧ t.pips = s.pips ∧
        (t.cluster cl).mu.run = some { r with badLog := true, stage := .sealing (s.cycle + 1) })) ∧
    (∀ n, r.stage = .sealing n → n ≤ s.cycle → ∃ t q, exec (.taskEnd cl) s = .next t ∧ (t.cluster cl).mu.run = some q ∧
      q = { r with stage := .closing } ∧ ∀ h ∈ r.task.outs, ∀ j, c.live (h.setWidth 64) = some j → (c.pod j).state = 1 →
        ((t.cluster cl).pod j).state = 2 ∧ (t.cluster cl).sealing j = true) ∧
    (∀ code pos slot, r.fault = some (code, pos, slot) → code < 2 ^ 8 → pos < 2 ^ 16 → slot < 2 ^ 8 →
      (r.resultWord.setWidth 32 : BitVec 32) = BitVec.ofNat 32 (code + 2 ^ 8 * pos + 2 ^ 24 * slot)) ∧
    (r.fault = none → (r.resultWord.setWidth 32 : BitVec 32) = if r.badLog then BitVec.ofNat 32 codeGeometry else 0) ∧
    r.resultWord.getLsbD 63 = true ∧
    let raised := fun (t : State) => ∀ code pos slot k p, r.fault = some (code, pos, slot) → (s.launch r.task.issuer.launch).isSome = true →
      s.pip k = some p → p.launch = r.task.issuer.launch → p.pipid = r.task.issuer.pipid →
      t.pip k = some (p.engineError 3 5 code r.task.gangId 0)
    let passes := fun (t : State) => (t.cluster cl).mu.run = none ∧ (t.cluster cl).mu.freeAt = s.cycle + 1 ∧
      (t.cluster cl).matrix = c.matrix.complete r.task.id ∧ raised t
    (r.stage = .closing → c.outputsSealed r.task = true → ∃ t, exec (.taskEnd cl) s = .next t ∧ t.hbm = s.hbm ∧
      (r.fault = none → ∀ h ∈ r.task.consumed, ∀ j, c.live (h.setWidth 64) = some j → ((t.cluster cl).pod j).state = 0) ∧
      (r.fault.isSome = true → (t.cluster cl).pods = c.pods) ∧
      (r.task.resultAt ≠ 0 → s.taskPlace cl r.task.issuer.job r.task.resultAt 8 8 = true →
        readBytes (t.cluster cl).sp (offsetOf r.task.resultAt) 8 = natBytes 8 r.resultWord.toNat) ∧
      (s.gangWaits cl r.task = false → passes t) ∧
      (s.gangWaits cl r.task = true → (t.cluster cl).mu.run = some { r with stage := .passing } ∧ (t.cluster cl).matrix = c.matrix ∧
        t.pips = s.pips)) ∧
    (r.stage = .passing → s.gangWaits cl r.task = false → ∃ t, exec (.taskEnd cl) s = .next t ∧ t.hbm = s.hbm ∧ passes t ∧
      (t.cluster cl).sp = c.sp ∧ (t.cluster cl).pods = c.pods)

/-! ### Launches -/

/-- HOST_LAUNCH_SUBMIT, FIRMWARE_LAUNCH, a LAUNCH at the head of its store queue, LAUNCH_RECORD_DELIVERY (R56, R57, R298, R303, R322),
LAUNCH_PLACEMENT (R54, R75, R304) and AGING (R300): an accepted record is queued under an identifier that no launch has, and one that is
refused has its code, 0x09 where the controller holds 512 and 0x0A where there is none; a placed launch holds its clusters with
zeroised memory, and its pips start at the entry with their coordinates; aging raises a waiting launch by one priority. That
firmware's launches count with the host's is the model's reading (log entry 32), and which identifier it is is its choice (log entry
8). -/
def Obligations.LaunchesAreQueuedPlacedAndAged : Prop :=
  (∀ (job : Nat) (x : LaunchRecord) (s : State), s.launches.length + 2 ≤ 2 ^ 32 / s.idStride →
    let id := s.freeId
    let queued := fun (t : State) (die : Nat) (device : Bool) => id ≠ 0 ∧ s.launch id = none ∧
      id.toNat % s.idStride = s.host.modid.toNat ∧ ∃ l, t.launch id = some l ∧ l.id = id ∧
      l.job = job ∧ l.record = x ∧ l.prio = x.prio ∧ l.entered = s.cycle ∧ l.device = device ∧ l.die = queuingDie x die ∧
      ((∀ v ∈ x.levels, v.domain ≠ 6) → l.phase = .queued) ∧ t.nextLaunch = s.nextLaunch + 1 ∧ t.hbm = s.hbm
    (∀ (die : Nat) (r : List Byte), s.running = true → r.length = 192 → x = LaunchRecord.of r →
      let code := fun (top : Nat) =>
        if launchCode r ⟨none, top⟩ (s.ranksOf job).length ≠ 0 then launchCode r ⟨none, top⟩ (s.ranksOf job).length
        else if 512 ≤ s.entriesUsed (queuingDie x die) false then 0x09 else if 63 < die then 0x0A else 0
      (code 46 = 0 → ∃ t, exec (.hostLaunchSubmit die job r) s = .next t ∧ queued t die false ∧ t.pips = s.pips ∧
        t.host.reports.getLast? = some (.submitted (id.setWidth 64))) ∧
      (code 47 = 0 → ∃ t, exec (.firmwareLaunch die job r) s = .next t ∧ queued t die false ∧ t.pips = s.pips) ∧
      (code 46 ≠ 0 → exec (.hostLaunchSubmit die job r) s = .next (s.report (.submitted (BitVec.ofNat 64 (2 ^ 63 + code 46))))) ∧
      (code 47 ≠ 0 → exec (.firmwareLaunch die job r) s = .next s)) ∧
    ∀ (k n ch : Nat) (a : Word) (p : Pip) (o : Op), s.AtHead k n p o .launch a ch → job = s.jobOfLaunch p.launch →
      let r := readBytes (s.cluster (k / 256)).sp (offsetOf a) 192
      let code := launchCode r (s.submitter (s.issuerOf k p o)) (s.ranksOf job).length
      let used := s.entriesUsed (queuingDie x (k / 65536)) true
      x = LaunchRecord.of r →
      (code ≠ 0 → ∃ t, exec (.engineCommandAccept k n) s = .next t ∧ t.launches = s.launches ∧ t.Gives k n (2 ^ 63 + code)) ∧
      (code = 0 → 512 ≤ used → ∃ t, exec (.engineCommandAccept k n) s = .next t ∧ t.launches = s.launches ∧ t.Gives k n (2 ^ 63 + 0x09)) ∧
      (code = 0 → used < 512 →
        (∀ e ∈ p.before n, s.releaseWaits job (k / 256) ((x.levels.head?.map Level.domain).getD 0) e = false) →
        ∃ t, exec (.engineCommandAccept k n) s = .next t ∧ queued t (k / 65536) true ∧ t.Gives k n id.toNat)) ∧
  (∀ (id : BitVec 32) (job home mode : Nat) (r : List Byte) (s : State), s.running = true → r.length = 192 → s.launch id = none →
    home ≠ s.host.modid.toNat → id ≠ 0 → ∃ t l, exec (.launchRecordDelivery id job home mode r) s = .next t ∧
      t.launch id = some l ∧ l.home = home ∧ l.job = job ∧ l.record = LaunchRecord.of r ∧ t.nextLaunch = s.nextLaunch ∧ t.pips = s.pips) ∧
  (∀ (die : Nat) (id : BitVec 32) (units : List Nat) (s : State) (l : Launch) (pips : List (List Nat × Nat)) (held : List Nat),
    s.launch id = some l → l.id = id → l.die = die → l.phase = .queued → s.mayDispatch l = true → s.firstInOrder l = true →
    l.resolve s.clusterFree units = some (pips, held) →
    ∃ t m, exec (.launchPlacement die id units) s = .next t ∧ t.launch id = some m ∧ m.phase = .resident ∧ m.clusters = held ∧
      t.hbm = s.hbm ∧
      (∀ cl ∈ held, (t.cluster cl).launch = some id ∧ (t.cluster cl).spres = l.record.spres ∧ (t.cluster cl).mu.run = none ∧
        (t.cluster cl).grans = [] ∧ ∀ off < l.record.spres, readByte (t.cluster cl).sp off = 0) ∧
      (∀ e ∈ pips, ∃ cs, (cs, e.2) ∈ pips ∧ t.pip e.2 = some (l.newPip cs)) ∧
      ∀ cs, let q := l.newPip cs
        q.pc = l.record.entry ∧ q.launch = id ∧ q.asid = l.record.asid ∧ q.pipid = word (pipIndex l.record.levels cs) ∧
        q.coord = word (packCoords l.record.levels cs) ∧ q.extent = l.record.extentWord ∧ q.cond = .ready ∧ q.tvec = 0 ∧
        (∀ k, q.status.getLsbD k = (decide (k < 5) && l.record.flags.testBit k)) ∧ (∀ r, q.gf r = true) ∧
        (∀ r, q.gv r = if r = 3 then l.record.args else 0) ∧ (∀ r, q.vf r = true ∧ q.vv r = 0) ∧ ∀ n, q.steer n = {}) ∧
  ∀ (die : Nat) (id : BitVec 32) (s : State) (l : Launch), s.launch id = some l → l.id = id → l.waiting = true → l.die = die →
    s.ageCycles die ≠ 0 → l.prio < 46 → s.ageCycles die ≤ l.queuedFor s.cycle →
    ∃ t, exec (.aging die id) s = .next t ∧ t.pips = s.pips ∧ t.launch id = some { l with
      prio := l.prio + 1, waited := l.waited + l.queuedFor s.cycle, entered := s.cycle, atHead := false }

/-- PREEMPTION_START, CONTEXT_SAVE and CONTEXT_RESUME (R306 to R310): the victims' pips are held; a drained context is saved with
its pips, its clusters become free and it stands at the head of its queue; it resumes in the same slots and clusters with
the same registers and memory. That the image of a saved context is kept whole is the model's choice (log entry 26), and when the
drain is over its reading (log entry 27). -/
def Obligations.ContextsAreStoppedSavedAndResumed : Prop :=
  ∀ (s : State) (id : BitVec 32) (l : Launch), s.launch id = some l → l.id = id →
    (∀ (die : Nat) (gone : List (BitVec 32)), (∀ e ∈ s.launches, e.1 = e.2.id.toNat) → l.die = die → s.mayDispatch l = true →
      s.firstSomewhere l = true → s.mayPreempt die l = true →
      s.victims l (s.eligible die l) ((s.launches.filter (fun e => e.2.phase == .stopping)).map (fun e => e.2.id)) = some gone →
      ∃ t, exec (.preemptionStart die id) s = .next t ∧ t.hbm = s.hbm ∧ t.clusters = s.clusters ∧
        ∀ v ∈ gone, ∀ m, s.launch v = some m → m.phase = .resident →
          (∃ n, t.launch v = some n ∧ n = { m with phase := .stopping }) ∧
          ∀ k p, s.pip k = some p → p.launch = v → t.pip k = some { p with heldPreempt := true }) ∧
    (l.phase = .stopping → s.drained l = true → (∀ e ∈ s.pips, e.2.launch = id → ∀ o ∈ e.2.ops, o.phase ≠ .sent) →
      ∃ t x m, exec (.contextSave id) s = .next t ∧ t.saved = s.saved ++ [x] ∧ x.launch = id ∧
        x.pips = s.pips.filter (fun e => e.2.launch == id) ∧ x.clusters = s.clusters.filter (fun e => l.clusters.contains e.1) ∧
        (∀ k p, t.pip k = some p → p.launch ≠ id) ∧ (∀ cl ∈ l.clusters, (t.cluster cl).launch = none) ∧
        t.launch id = some m ∧ m.phase = .saved ∧ m.atHead = true ∧ t.hbm = s.hbm) ∧
    ∀ x : Saved, s.saved.find? (fun y => y.launch == id) = some x → l.phase = .saved → s.mayDispatch l = true →
      s.firstInOrder l = true → (∀ cl ∈ l.clusters, s.clusterFree cl = true) →
      (x.pips.map Prod.fst).Nodup → (x.clusters.map Prod.fst).Nodup →
      ∃ t m, exec (.contextResume id) s = .next t ∧ t.launch id = some m ∧ m.phase = (if l.partOver then .partDone else .resident) ∧ t.hbm = s.hbm ∧
        (∀ y ∈ t.saved, y.launch ≠ id) ∧
        (∀ k p, (k, p) ∈ x.pips → ∃ q, t.pip k = some q ∧ q.heldPreempt = false ∧ q.g = p.g ∧ q.gFull = p.gFull ∧ q.v = p.v ∧
          q.vFull = p.vFull ∧ q.b = p.b ∧ q.pc = p.pc ∧ q.fpmode = p.fpmode ∧ p.SameSpecial q) ∧
        ∀ cl c, (cl, c) ∈ x.clusters → (t.cluster cl).sp = c.sp ∧ (t.cluster cl).grans = c.grans ∧
          (t.cluster cl).pods = c.pods ∧ (t.cluster cl).launch = c.launch

/-- LAUNCH_COMPLETE and PART_COMPLETE_REPORT (R59, R97), RANK_RELOCATION (R291): at the home module a launch whose parts are complete
stores DONEVAL, is reported, and leaves its slots and clusters free; another module's part is noted; a moving rank's entry
is marked, and names its new module afterwards. -/
def Obligations.LaunchesCompleteAndRanksMove : Prop :=
  (∀ (s : State) (id : BitVec 32) (l : Launch), s.NoReds → s.launch id = some l → l.id = id → l.phase = .resident →
    s.partComplete l = true → l.home = s.host.modid.toNat → (∀ r ∈ l.partsLeft, r = (s.jobOf l.job).ownRank) →
    (∀ cl ∈ l.clusters, (s.cluster cl).mu.table = [] ∧ (s.cluster cl).launch = some id) →
    let a := l.record.doneAddr
    let done := fun (t : State) => exec (.launchComplete id) s = .next t ∧ t.launch id = none ∧
      t.host.reports = s.host.reports ++ [.launchComplete id l.discarded] ∧ (∀ k p, t.pip k = some p → p.launch ≠ id) ∧
      ∀ cl ∈ l.clusters, (t.cluster cl).launch = none ∧ ∀ n, ((t.cluster cl).pod n).state = 0
    (a = 0 → ∃ t, done t ∧ t.hbm = s.hbm) ∧
    (∀ pa leaf, a ≠ 0 → a.toNat % 8 = 0 → s.Tries (.launch id) →
      (s.opened (.launch id) (s.controllerAddr 0)).Finds 0 l.record.asid (l.record.flags.testBit 0) .store a (.ok (pa, leaf)) →
      homeDie pa = 0 → ∃ t, done t ∧
        ∀ x, readByte t.hbm x = if pa ≤ x ∧ x < pa + 8 then (natBytes 8 l.record.doneVal.toNat).getD (x - pa) 0 else readByte s.hbm x)) ∧
  (∀ (s : State) (id : BitVec 32) (rank n : Nat) (l : Launch), s.launch id = some l → l.id = id → l.home = s.host.modid.toNat →
    rank ∈ l.partsLeft → rank ≠ (s.jobOf l.job).ownRank →
    ∃ t, exec (.partCompleteReport id rank n) s = .next t ∧ t.pips = s.pips ∧ t.hbm = s.hbm ∧
      t.launch id = some { l with partsLeft := l.partsLeft.filter (· != rank), discarded := l.discarded + n }) ∧
  ∀ (s : State) (job rank : Nat) (modid : BitVec 20) (epoch gate : Option Nat) (e : Word),
    (s.jobs.map Prod.fst).Nodup → mget (s.jobOf job).ranks rank = some e → e.getLsbD 20 = true →
    (∃ t v, exec (.rankRelocation job rank modid true epoch gate) s = .next t ∧ mget (t.jobOf job).ranks rank = some v ∧
      v.getLsbD 20 = true ∧ v.getLsbD 21 = true ∧ (v.setWidth 20 : BitVec 20) = e.setWidth 20 ∧ t.saved = s.saved ∧ t.hbm = s.hbm) ∧
    (modid ≠ s.host.modid → ∃ t v, exec (.rankRelocation job rank modid false epoch gate) s = .next t ∧
      mget (t.jobOf job).ranks rank = some v ∧ v.getLsbD 20 = true ∧ v.getLsbD 21 = false ∧
      (v.setWidth 20 : BitVec 20) = modid ∧ t.hbm = s.hbm ∧ (rank ≠ (s.jobOf job).ownRank → t.saved = s.saved) ∧
      (rank = (s.jobOf job).ownRank → ∀ x ∈ t.saved, x.job ≠ job)) ∧
    (modid = s.host.modid → ∃ t, exec (.rankRelocation job rank modid false epoch gate) s = .next t ∧
      (t.jobOf job).ownRank = rank ∧ (t.jobOf job).epoch = epoch ∧ t.saved = s.saved ∧ t.hbm = s.hbm)

/-! ### Packets -/

/-- RD, AT, WR, MCW and FWD (R276, R88, R292, R293, R73): at its target a read is answered with the bytes there, an atomic with the
old bytes, a write with ACK once its bytes are written, one bank line after another; a refused one with its cause, with no byte
written; at a home L2 on another die (R67) they read and write the line. That a write is served and refused line by line is the model's
reading (log entry 56). -/
def Obligations.RequestsAreServedAtTheirTarget : Prop :=
  (∀ (n cl : Nat) (q : Packet) (s : State),
    let c := s.cluster cl
    let off := offsetOf q.addr
    let len := q.len.val
    let p := Place.live cl
    let t := s.dropPacket n
    let kept := fun (u : State) => u.hbm = s.hbm ∧ u.pips = s.pips
    let wrote := fun (u : State) (bs : List Byte) =>
      ∀ x, readByte (u.cluster cl).sp x = if off ≤ x ∧ x < off + bs.length then bs.getD (x - off) 0 else readByte c.sp x
    s.place q.job cl = some p →
    (cl = clusterNamed q.dst → endType q.dst = 0 → q.crossesDie = false →
      (s.Arrived n q 0x01 → t.slotsFor p off len = true →
        (off + len ≤ c.spres → c.staleLoad q.addr off len = false → q.work = .load 0 →
          ∃ u, exec (.rdReq n) s = .next u ∧ s.Answers u q q.dst 0x11 (readBytes c.sp off len) 0 ∧ wrote u [] ∧ kept u) ∧
        (c.spres < off + len → ∃ u, exec (.rdReq n) s = .next u ∧ s.Answers u q q.dst 0x12 [] 3 ∧ wrote u [] ∧ kept u) ∧
        (off + len ≤ c.spres → c.staleLoad q.addr off len = true →
          ∃ u, exec (.rdReq n) s = .next u ∧ s.Answers u q q.dst 0x12 [] 2 ∧ wrote u [] ∧ kept u)) ∧
      (s.Arrived n q 0x02 → ∀ op wide x, q.work = .atomic op wide x →
        let w := if wide then 8 else 4
        let old := readBytes c.sp off w
        t.slotsFor p off w = true → off + w ≤ c.spres → c.refusalInSlot q.addr off w false = none →
        ∃ u, exec (.atReq n) s = .next u ∧ s.Answers u q q.dst 0x11 old 0 ∧ kept u ∧
          wrote u (natBytes w (atomicNew op (8 * w) (leNat old) (x.toNat % 2 ^ (8 * w)))))) ∧
    (∀ i bs src, (i = .wrReq n ∧ bs = q.body ∧ src = q.dst ∧ cl = clusterNamed q.dst ∧ endType q.dst = 0 ∧ q.crossesDie = false ∧
          s.Arrived n q 0x03 ∧ s.requestFor q = none) ∨
        (i = .mcwReq n cl ∧ bs = q.body.drop 8 ∧ src = s.clusterAddr cl ∧ mget s.net.packets n = some q ∧ q.kind = 0x04 ∧
          s.here q.dst = true ∧ cl ∈ q.targets ∧ q.crossesDie = false ∧ s.standsAt n src = true ∧ mget s.net.sinks n = none ∧
          s.requestFor { q with dst := src } = none) →
      (off % 64 + bs.length ≤ 64 → s.slotsFor p off bs.length = true → off + bs.length ≤ c.spres →
        (c.refusalInSlot q.addr off bs.length q.setFull = none → ∃ u, exec i s = .next u ∧ s.Answers u q src 0x10 [] 0 ∧
          wrote u bs ∧ kept u) ∧
        (∀ r g, c.refusalInSlot q.addr off bs.length q.setFull = some (r, g) →
          ∃ u, exec i s = .next u ∧ s.Answers u q src 0x12 [] r ∧ wrote u [] ∧ kept u)) ∧
      (64 < off % 64 + bs.length →
        let line := bs.take (64 - off % 64)
        s.slotsFor p off line.length = true → off + line.length ≤ c.spres →
        c.refusalInSlot q.addr off line.length q.setFull = none → ∃ u, exec i s = .next u ∧ mget u.net.packets n = some q ∧
          mget u.net.sinks n = some ⟨1, [], none⟩ ∧ wrote u line ∧ kept u))) ∧
  (∀ (n i at_ : Nat) (f : Packet) (s : State), s.Arrived n f 0x08 → f.crossesDie = false → f.work = .load 0 →
    let q := packetOf f.body f.tag
    q.kind = 0x01 → q.crossesDie = false → endType q.dst = 0 → s.place f.job (clusterNamed q.dst) = some (.kept i at_) →
    let d := s.placed (.kept i at_)
    offsetOf q.addr + q.len.val ≤ d.spres → d.staleLoad q.addr (offsetOf q.addr) q.len.val = false →
    ∃ u, exec (.fwdReq n) s = .next u ∧ u.hbm = s.hbm ∧ u.pips = s.pips ∧
      s.Answers u q q.dst 0x11 (readBytes d.sp (offsetOf q.addr) q.len.val) 0) ∧
  ∀ (n : Nat) (q : Packet) (s : State), s.NoReds → endType q.dst = 1 → q.crossesDie = false → s.requestFor q = none →
    mget s.bad (q.addr.toNat / 128) = none →
    let pa := q.addr.toNat
    (s.Arrived n q 0x01 → q.work = .fill → ∃ u, exec (.rdReq n) s = .next u ∧ u.hbm = s.hbm ∧
      s.Answers u q q.dst 0x11 (readBytes s.hbm pa q.len.val) 0) ∧
    (s.Arrived n q 0x03 → q.work = .plain ∨ q.work = .bulk → ∃ u, exec (.wrReq n) s = .next u ∧ Wrote s u pa q.body ∧
      s.Answers u q q.dst 0x10 [] 0) ∧
    (s.Arrived n q 0x02 → ∀ op wide x, q.work = .atomic op wide x →
      let w := if wide then 8 else 4
      let old := readBytes s.hbm pa w
      ∃ u, exec (.atReq n) s = .next u ∧ s.Answers u q q.dst 0x11 old 0 ∧
        Wrote s u pa (natBytes w (atomicNew op (8 * w) (leNat old) (x.toNat % 2 ^ (8 * w)))))

/-- ACK, DATA and REFUSE complete the access of a pip (R284, R89): a store is over, a load has the bytes of the body, a refused access
counts in SR_REFUSED, or raises REMOTE_REFUSED, and reads 0. CONF (R284) deletes the receipts that it names. -/
def Obligations.ResponsesCompleteTheirAccess : Prop :=
  (∀ (n k op : Nat) (r : Packet) (s : State) (p : Pip) (x : Op) (o : Outstanding), o.origin = .pip k op → s.pip k = some p →
    p.op op = some x →
    let ended := fun (t : State) (v : VWord) => ∃ q, t.pip k = some q ∧ q.g = p.g ∧ q.pc = p.pc ∧ t.hbm = s.hbm ∧
      t.clusters = s.clusters ∧ (x.dest = .none → ∀ y ∈ q.ops, y.id ≠ op) ∧
      (x.dest ≠ .none → ∃ y, q.op op = some y ∧ y.phase = .done ∧ y.result = v)
    (s.Responds n r 0x10 o → (∃ a bs f, x.kind = .storeL a bs f) → ∃ t, exec (.ackResp n) s = .next t ∧ ended t 0) ∧
    (∀ a w q, s.Responds n r 0x11 o → x.kind = .loadL a w q →
      ∃ t, exec (.dataResp n) s = .next t ∧ ended t (BitVec.ofNat 512 (leNat r.body))) ∧
    (∀ a w op' b, s.Responds n r 0x11 o → x.kind = .atomicL a w op' b →
      ∃ t, exec (.dataResp n) s = .next t ∧ ended t ((atomicResult w (leNat r.body)).setWidth 512)) ∧
    (s.Responds n r 0x12 o → (∃ a w q, x.kind = .loadL a w q) ∨ (∃ a bs f, x.kind = .storeL a bs f) →
      ∃ t, exec (.refuseResp n) s = .next t ∧ ended t 0 ∧ ∃ q, t.pip k = some q ∧
        (p.status.getLsbD 2 = false ∨ p.ipend.getLsbD 2 = true → q.refused = p.refused + 1 ∧ q.ipend = p.ipend) ∧
        (p.status.getLsbD 2 = true → p.ipend.getLsbD 2 = false → q.refused = p.refused ∧ q.ipend.getLsbD 2 = true ∧
          q.refusedVal = x.address))) ∧
  ∀ (n : Nat) (r : Packet) (s : State), s.Arrived n r 0x15 → ∃ t, exec (.confResp n) s = .next t ∧ t.pips = s.pips ∧
    t.clusters = s.clusters ∧ ∀ x, x ∈ t.net.receipts ↔ x ∈ s.net.receipts ∧
      ¬(x.src = r.src ∧ x.dst = r.dst ∧ ∃ i < r.body.length / 2, x.seq = BitVec.ofNat 16 (fieldAt r.body (2 * i) 2))

/-! ### Links, routing and time -/

/-- LINK_FLIT_RECEIVE, IDLE_FLIT and LINK_DEAD (R272, R273, R277, R281): a bad flit is counted, after eight retries it kills the
link; a good one brings its returns, and with the last of its packet the packet, once. A change of routing version:
ROUTE_CHANGE_START, ROUTE_TABLES_INSTALL, FLIP_BROADCAST, FLIP and ROUTE_VERSION_FREE (R286, R287), each by control packets.
That a die's routers act as one node (log entry 37) and that flits are taken in order (log entry 56) are the model's. -/
def Obligations.LinksAndRoutingVersionsChange : Prop :=
  ∀ (s : State) (l : Nat),
    let x := s.link l
    let dies := fun (t : State) =>
      (l < meshLinks → ∀ y, y = l ∨ otherEnd l = some y →
        (t.link y).dead = true ∧ t.Carries s.masterAddr (.linkDead y)) ∧
      (meshLinks ≤ l → t.host.reports = s.host.reports ++ [.moduleFault l])
    let same := fun (t : State) => t.pips = s.pips ∧ t.clusters = s.clusters ∧ t.hbm = s.hbm
    let stands : Transit := { spot := .router (linkFrom l).1 (linkFrom l).2, held := none }
    (linkExists l = true → x.dead = false → s.host.power ≠ .p4 →
      (∀ f : Flit, s.wasSent l f = false → exec (.linkFlitReceive l f) s = .next s) ∧
      (∀ f : Flit, s.wasSent l f = true → flitOk l f = false → ∃ t, exec (.linkFlitReceive l f) s = .next t ∧ same t ∧
        (s.failsTry l f = false → t.net.packets = s.net.packets ∧ (t.link l).retries = x.retries) ∧
        (s.failsTry l f = true → x.retries < 8 → t.net.packets = s.net.packets ∧ (t.link l).retries = x.retries + 1) ∧
        (s.failsTry l f = true → 8 ≤ x.retries → dies t)) ∧
      (∀ f : Flit, s.wasSent l f = true → flitOk l f = true → ∃ t, exec (.linkFlitReceive l f) s = .next t ∧ same t ∧
        (t.link l).retries = (if s.inOrder l f = true then 0 else x.retries) ∧
        (∀ v < 8, (t.link l).returned[v]? = some (adoptReturn (x.used.getD v 0) (x.returned.getD v 0) (flitReturn l f v))) ∧
        (f.channel = none ∨ s.inOrder l f = false → t.net.packets = s.net.packets) ∧
        (∀ v, f.channel = some v → s.inOrder l f = true → s.net.change = none →
          (∀ n k q h, 32 ≤ l → f.ends = some n → mget s.net.packets n = some q → mget s.net.transit n = some ⟨.link k, h⟩ →
            otherEnd k = some l → s.discards (linkFrom l).1 n q = false →
            t.net.packets = s.net.packets ∧ mget t.net.transit n = some { stands with held := some (l, v) }) ∧
          (l < 32 →
            let bs := mgetD x.partly v [] ++ (f.raw.drop 16).take 232
            (f.tag = none → t.net.packets = s.net.packets ∧ mget (t.link l).partly v = some bs) ∧
            ∀ tag, f.tag = some tag → s.discards (linkFrom l).1 s.net.nextPacket (packetOf bs tag) = false →
              mget t.net.packets s.net.nextPacket = some (packetOf bs tag) ∧
              mget t.net.transit s.net.nextPacket = some { stands with held := some (l, v) }))) ∧
      (∃ t, exec (.idleFlit l) s = .next t ∧ same t ∧ (t.link l).buffer = x.buffer ++ [x.flit l [] none none none] ∧
        (t.link l).sent = x.sent ∧ t.net.packets = s.net.packets) ∧
      ∃ t, exec (.linkDead l) s = .next t ∧ same t ∧ dies t) ∧
    (∀ (plan : Tables) (pairs : List (Nat × Nat)),
      let may := s.net.change = none ∧ s.net.routeMaster = s.host.modid.toNat ∧ s.planOk plan = true
      (may → ∃ t c, exec (.routeChangeStart plan pairs) s = .next t ∧ same t ∧ t.net.change = some c ∧
        c = { version := s.net.version + 1, plan := plan, unreachable := pairs } ∧ t.net.version = s.net.version ∧
        ∀ e ∈ plan, t.Carries (nodeAddr e.1) (.tables (s.net.version + 1) e.2)) ∧
      (¬ may → exec (.routeChangeStart plan pairs) s = .next s)) ∧
    (∀ (d n : Nat) (q : Packet) (table : DieTable), d < 64 →
      s.controlAt d (Control.isTables (s.net.version + 1)) = some (n, q) →
      q.work = .control (.tables (s.net.version + 1) table) →
      ∃ t c, exec (.routeTablesInstall d) s = .next t ∧ same t ∧ t.net.change = some c ∧ mget c.tables d = some table ∧
        t.net.version = s.net.version ∧ t.Carries q.src (.installed (s.net.version + 1) (s.nodeNumber d))) ∧
    ∀ c : RouteChange, s.net.change = some c →
      (c.plan ≠ [] → c.broadcast = false → (∀ e ∈ c.plan, e.1 ∈ c.ackInstalled) →
        ∃ t, exec .flipBroadcast s = .next t ∧ same t ∧ t.net.change = some { c with broadcast := true } ∧
          ∀ e ∈ c.plan, t.Carries (nodeAddr e.1) (.flip c.version)) ∧
      (∀ (d n : Nat) (q : Packet), d < 64 → d ∉ c.flipped → s.controlAt d (Control.isFlip c.version) = some (n, q) →
        let mine := fun (o : Outstanding) => o.retained = true ∧ s.here o.packet.src = true ∧ dieOf o.packet.src = d
        ∃ t, exec (.flip d) s = .next t ∧ same t ∧ t.versionAt d = c.version ∧
          t.net.outstanding.length = s.net.outstanding.length ∧
          (∀ o ∈ t.net.outstanding, mine o → oldVersion c.version o.packet.ver = false) ∧
          (∀ o ∈ s.net.outstanding, mine o → oldVersion c.version o.packet.ver = true →
            ∃ m, mget t.net.packets m = some { o.packet with ver := c.version }) ∧
          t.Carries s.masterAddr (.flipped c.version (s.nodeNumber d))) ∧
      (c.plan ≠ [] → (∀ e ∈ c.plan, e.1 ∈ c.ackFlipped) → ∃ t, exec .routeVersionFree s = .next t ∧ same t ∧
        t.net.version = c.version ∧ t.net.tables = c.tables ∧ t.net.unreachable = c.unreachable ∧ t.net.change = none ∧
        t.host.reports = s.host.reports ++ c.unreachable.map (fun e => .unreachable e.1 e.2))

/-- TIME_SYNC_EXCHANGE, TIME_SYNC_LOSS (R295), STAGGER, STAGGER_SUBMIT, START_GATE_OPEN (R296, R297), RANK_TABLE_INSTALL (R290): time
never steps back, and is steered and not stepped while synchronisation is held, a newer epoch sets the gate of the module's rank, a gate
opens at its time, a table replaces the old one. That steering is no act of its own, and how the bound of 20 ns is compared with what an
exchange measures, is the model's reading (log entry 56). -/
def Obligations.TimeGatesAndRankTablesFollowTheControlNode : Prop :=
  ∀ s : State,
    (∀ reference within : Nat, s.host.ready = true →
      (s.host.synced = false → ∃ t, exec (.timeSyncExchange reference within) s = .next t ∧ t.time = max s.time reference ∧
        (t.host.synced = true ↔ t.time + within ≤ reference + 20) ∧ t.host.lastExchange = t.time ∧ t.pips = s.pips ∧
        t.host.reports = s.host.reports ++ (if t.time + within ≤ reference + 20 then [.syncRecovered] else [])) ∧
      (s.host.synced = true → ∃ t, exec (.timeSyncExchange reference within) s = .next t ∧ t.time = s.time ∧
        t.host = { s.host with lastExchange := s.time } ∧ t.pips = s.pips)) ∧
    (s.host.synced = true → s.host.lastExchange + 10000000 ≤ s.time → exec .timeSyncLoss s = .next { s with
      host := { s.host with synced := false, reports := s.host.reports ++ [.syncLost] } }) ∧
    (∀ (job epoch t0 interval : Nat), epoch < 2 ^ 32 → interval < 2 ^ 32 →
      let j := s.jobOf job
      let opens := t0 + j.ownRank * interval
      let taken := fun (t : State) => t.jobOf job = (if ∀ e, j.epoch = some e → e < epoch then
          { j with epoch := some epoch, gate := if opens ≤ s.time then none else some opens } else j) ∧
        (∀ other, other ≠ job → t.jobOf other = s.jobOf other) ∧ t.pips = s.pips ∧ t.time = s.time
      (∃ t, exec (.stagger job epoch t0 interval) s = .next t ∧ taken t ∧ t.host = s.host) ∧
      (s.managed = true → ∃ t, exec (.staggerSubmit job epoch t0 interval) s = .next t ∧ taken t ∧
        t.host.reports = s.host.reports ++ [.stagger job epoch t0 interval] ∧
        ∀ m ∈ s.otherModules job, t.Carries (nodeAddr (64 * m)) (.stagger job epoch t0 interval))) ∧
    (∀ (job g : Nat), (s.jobOf job).gate = some g → g ≤ s.time → ∃ t, exec (.startGateOpen job) s = .next t ∧
      t.jobOf job = { s.jobOf job with gate := none } ∧ (∀ other, other ≠ job → t.jobOf other = s.jobOf other) ∧
      t.pips = s.pips) ∧
    ∀ (job ownRank : Nat) (entries : List (Nat × Word)), s.managed = true →
      ∃ t, exec (.rankTableInstall job ownRank entries) s = .next t ∧ (t.jobOf job).ownRank = ownRank ∧
        (t.jobOf job).epoch = (s.jobOf job).epoch ∧ (t.jobOf job).gate = (s.jobOf job).gate ∧ t.pips = s.pips ∧
        (∀ other, other ≠ job → t.jobOf other = s.jobOf other) ∧
        (∀ r, 65534 < r ∨ (∀ e ∈ entries, e.1 ≠ r) → mget (t.jobOf job).ranks r = none) ∧
        ∀ before after r e, entries = before ++ (r, e) :: after → r ≤ 65534 → (∀ x ∈ after, x.1 ≠ r) →
          mget (t.jobOf job).ranks r = some ((e.setWidth 22).setWidth 64)

/-! ### The Milcy port, power, security and start-up -/

/-- WINDOW_OPEN, WINDOW_READ, WINDOW_WRITE (R321, R322), READ_STEP_RECORD, CLEAR_STEP_ENTRY (R327), READ_AST_BASE (R63) and
READ_ROUTING_TABLES (R285): an access of one line through a window, in a machine without update-only lines; one outside its
window or without the right changes nothing. -/
def Obligations.WindowsAndRecordsAnswerTheControlNode : Prop :=
  ∀ s : State, s.managed = true →
    let h := s.host
    let reports := fun (r : Report) => s.report r
    (∀ w : WindowSpec, (h.windows.length < 16 → exec (.windowOpen w) s = .next { s with
        host := { h with windows := h.windows ++ [w], reports := h.reports ++ [.windowOpened h.windows.length] } }) ∧
      (16 ≤ h.windows.length → ∃ why, exec (.windowOpen w) s = .next (reports (.refused "WINDOW_OPEN" why)))) ∧
    (∀ (k off n : Nat) (w : WindowSpec), h.windows[k]? = some w → (∀ i, s.Tries (.host i)) →
      (n = 0 ∨ 65536 * w.pages < off + n ∨ w.readable = false →
        exec (.windowRead k off n) s = .next (reports (.windowError k))) ∧
      (∀ bs, bs.length = n → n = 0 ∨ 65536 * w.pages < off + n ∨ w.writable = false →
        exec (.windowWrite k off bs) s = .next (reports (.windowError k))) ∧
      (s.NoReds → n ≠ 0 → off + n ≤ 65536 * w.pages → w.base.toNat + off + n ≤ 2 ^ 64 → (w.base.toNat + off) % 128 + n ≤ 128 →
        let a := w.base.toNat + off
        let finds := fun (i : Instr) (need : Need) (x : Except Cause (Nat × Word)) =>
          (s.opened (.host i) (s.controllerAddr 0)).Finds 0 w.asid true need (word a) x
        let lies := fun (i : Instr) (need : Need) (pa : Nat) => homeDie pa = 0 ∧
          ((w.physical = true ∧ s.windowReaches a n = true ∧ pa = a) ∨ (w.physical = false ∧ ∃ leaf, finds i need (.ok (pa, leaf))))
        let fails := fun (i : Instr) (need : Need) => (w.physical = true ∧ s.windowReaches a n = false) ∨
          (w.physical = false ∧ ∃ x, finds i need (.error x))
        let errs := fun (i : Instr) => ∃ t, exec i s = .next t ∧ t.host.reports = h.reports ++ [.windowError k] ∧ t.hbm = s.hbm ∧ t.pips = s.pips
        (w.readable = true → fails (.windowRead k off n) .load → errs (.windowRead k off n)) ∧
        (∀ bs, bs.length = n → w.writable = true → fails (.windowWrite k off bs) .store → errs (.windowWrite k off bs)) ∧
        (∀ pa, w.readable = true → lies (.windowRead k off n) .load pa → mget s.bad (pa / 128) = none →
          ∃ t, exec (.windowRead k off n) s = .next t ∧ t.hbm = s.hbm ∧ t.pips = s.pips ∧
            t.host.reports = h.reports ++ [.windowData k (readBytes s.hbm pa n)]) ∧
        ∀ pa bs, bs.length = n → w.writable = true → lies (.windowWrite k off bs) .store pa →
          ∃ t, exec (.windowWrite k off bs) s = .next t ∧ t.host.reports = h.reports ++ [.windowDone k] ∧ t.pips = s.pips ∧
            ∀ x, readByte t.hbm x = if pa ≤ x ∧ x < pa + n then bs.getD (x - pa) 0 else readByte s.hbm x)) ∧
    exec .readStepRecord s = .next (reports (.stepRecord h.steps.toList)) ∧
    exec .readAstBase s = .next (reports (.astBase h.astBase)) ∧
    exec .readRoutingTables s = .next (reports (.routingTables s.net.tables)) ∧
    ∀ n : Nat, 1 ≤ n → n ≤ 16 → ∃ t, exec (.clearStepEntry n) s = .next t ∧ t.pips = s.pips ∧ t.hbm = s.hbm ∧
      t.host.reports = h.reports ++ [.done "CLEAR_STEP_ENTRY"] ∧
      ∀ k < 16, t.host.steps[k]? = if k + 1 = n then some 0 else h.steps[k]?

/-- SET_POWER_STATE, SET_POWER_CAP (R328), SET_RAMP_REGISTERS (R329) and POWER_LIMIT_TRIP (R330): P3 is refused with a launch
resident or under INTRUSIVE, and leaving it restarts the cycle; P4 keeps only what is not volatile (that memory reads 0 after it
is log entry 1; the rest of what stays, log entry 35); a reading outside the limits leads to P4. START_UP (R323, R326, R327, R295),
without failures the module ends ready in P0 with debug OFF, every step finished, by the alternate method where the step failed by
its primary one on the last start or used the alternate; a mandatory step that fails halts it, step 3 where the lifecycle state
does not accept the firmware; without step 12 its ports are dead, without step 15 it is not synchronised; a start that is cut off leaves
STATE 1; a step that failed by its alternate, or that has none, is skipped where it is optional and halts a start that it fails
again. Two readings here are the model's and not the rules' own words: that the cycle is 0 and the time exactly the domain's at
READY, since the steps after step 5 take no cycle and no nanosecond (log entry 55); and which steps fail (the argument of START_UP), that a
mandatory step halts the start in which its primary method fails, and how the next start chooses the alternate (log entry 34). -/
def Obligations.PowerAndStartUpFollowTheirRules : Prop :=
  (∀ s : State,
     let off := fun (t : State) => t.host.power = .p4 ∧ t.pips = [] ∧ t.clusters = [] ∧ t.launches = [] ∧ t.hbm = [] ∧
       t.host.steps = s.host.steps ∧ t.host.lifecycle = s.host.lifecycle ∧ t.host.signIndex = s.host.signIndex ∧
       t.host.ready = false
     (s.managed = true →
       let refusesP3 := s.host.debug = .intrusive ∨ ∃ e ∈ s.launches, e.2.isResident = true
       (refusesP3 → ∃ why, exec (.setPowerState .p3) s = .next (s.report (.refused "SET_POWER_STATE" why))) ∧
       (¬ refusesP3 → s.host.power ≠ .p3 → exec (.setPowerState .p3) s = .next { s with
         fresh := s.fresh + 1
         host := { s.host with power := .p3, frozen := s.fresh, reports := s.host.reports ++ [.done "SET_POWER_STATE"] } }) ∧
       (∀ p : PowerState, p = .p0 ∨ p = .p1 ∨ p = .p2 → ∃ t, exec (.setPowerState p) s = .next t ∧ t.host.power = p ∧
         t.cycle = (if s.host.power = .p3 then 0 else s.cycle) ∧ t.time = s.time ∧ t.pips = s.pips ∧ t.hbm = s.hbm ∧
         ∀ cl, (t.cluster cl).sp = (s.cluster cl).sp ∧ (t.cluster cl).grans = (s.cluster cl).grans) ∧
       (∃ t, exec (.setPowerState .p4) s = .next t ∧ off t) ∧
       (∀ w : Nat, exec (.setPowerCap w) s = .next { s with
         host := { s.host with cap := some w, reports := s.host.reports ++ [.done "SET_POWER_CAP"] } }) ∧
       ∀ up down : BitVec 16, ∃ t, exec (.setRampRegisters up down) s = .next t ∧ t.rampUp = up.setWidth 64 ∧
         t.rampDown = down.setWidth 64 ∧ t.fillers = s.fillers ∧ t.pips = s.pips ∧ t.hbm = s.hbm) ∧
     ∀ r : LimitReading, s.host.power ≠ .p4 →
       (r.busbarVoltage < 44000 ∨ 54000 < r.busbarVoltage ∨ 800000 < r.busbarCurrent ∨ r.inletTemperature < 17000 ∨
           40000 < r.inletTemperature ∨ r.coolantFlow < 60000 ∨ 1500 < r.pressureDrop →
         ∃ t, exec (.powerLimitTrip r) s = .next t ∧ off t ∧ t.host.reports = s.host.reports ++ [.smbus r]) ∧
       (44000 ≤ r.busbarVoltage → r.busbarVoltage ≤ 54000 → r.busbarCurrent ≤ 800000 → 17000 ≤ r.inletTemperature →
         r.inletTemperature ≤ 40000 → 60000 ≤ r.coolantFlow → r.pressureDrop ≤ 1500 → exec (.powerLimitTrip r) s = .next s)) ∧
  (∀ (plan : StartPlan) (s : State),
     let e := fun (t : State) (n : Nat) => t.host.steps.toList.getD (n - 1) 0
     let mends := fun (n : Nat) => stepState (e s n) = 3 ∧ stepAlt (e s n) = false ∧ n ∈ [3, 6, 7, 8, 12, 13]
     let finishes := fun (t : State) (n : Nat) => stepState (e t n) = 2 ∧
       (stepAlt (e t n) = true ↔ mends n ∨ (stepState (e s n) = 2 ∧ stepAlt (e s n) = true)) ∧
       stepStarts (e t n) = min (stepStarts (e s n) + 1) 65535
     let ready := fun (t : State) => t.host.ready = true ∧ t.host.power = .p0 ∧ t.host.debug = .off ∧ t.cycle = 0 ∧
       t.host.lifecycle = s.host.lifecycle ∧ t.host.modid = plan.modid ∧ t.host.astBase = plan.astBase ∧ t.pips = [] ∧
       t.launches = [] ∧ t.net.tables = plan.tables.foldl (fun m x => mset m x.1 x.2) [] ∧
       t.host.reports.getLast? = some (.ready plan.astBase)
     let halted := fun (t : State) (n : Nat) => t.host.ready = false ∧ t.pips = [] ∧ t.launches = [] ∧
       ∀ k, n < k → k ≤ 16 → e t k = e s k
     let sound := (plan.imageFor (stepState (e s 3) == 3 || (stepState (e s 3) == 2 && stepAlt (e s 3)))).accepted s.host.lifecycle
     let upTo := fun (n : Nat) => if sound = true ∨ n ≤ 3 then n else 3
     let usual := fun (n : Nat) => stepState (e s n) = 0 ∨ stepState (e s n) = 2 ∨ mends n
     (s.host.ready = false ∨ s.host.power = .p4) → plan.astBase % 524288 = 0 → escapesOk plan.tables = true →
     ((∀ n, 1 ≤ n → n ≤ 16 → usual n) →
     (plan.cutOff = none → plan.failures = [] → ∃ t, exec (.startUp plan) s = .next t ∧
       (sound = true → ready t ∧ t.host.synced = true ∧
         t.time = (if plan.routeMaster = plan.modid then 0 else plan.timeReference) ∧
         (∀ q < 32, (t.link q).dead = true ↔ ∃ x ∈ plan.lanes, x.1 = q ∧ x.2 ≠ 8) ∧
         ∀ n, 1 ≤ n → n ≤ 16 → finishes t n) ∧
       (sound = false → halted t 3 ∧ stepState (e t 3) = 3 ∧ t.host.reports.getLast? = some (.alert 3))) ∧
     (∀ (n : Nat) (code : Byte), plan.cutOff = none → plan.failures = [(n, code)] → 1 ≤ n → n ≤ 16 →
       let m := upTo n
       ∃ t, exec (.startUp plan) s = .next t ∧ stepState (e t m) = 3 ∧ (m = n → (e t m).extractLsb' 8 8 = code) ∧
         (stepAlt (e t m) = true ↔ mends m ∨ (stepState (e s m) = 2 ∧ stepAlt (e s m) = true)) ∧
         (∀ k, 1 ≤ k → k < m → finishes t k) ∧
         (m ≠ 12 → m ≠ 15 → (m = 9 → s.host.lifecycle = .returned) → halted t m ∧ t.host.haltedStep = some m ∧
           t.host.reports.getLast? = some (if 13 ≤ m then .halted m else .alert m)) ∧
         (m = 9 → s.host.lifecycle ≠ .returned → ready t) ∧
         (m = 12 → ready t ∧ ∀ q < 32, (t.link q).dead = true) ∧
         (m = 15 → ready t ∧ t.host.synced = false ∧ .syncLost ∈ t.host.reports)) ∧
     ∀ n : Nat, plan.cutOff = some n → plan.failures = [] → 1 ≤ n → n ≤ 16 →
       ∃ t, exec (.startUp plan) s = .next t ∧ halted t (upTo n) ∧ (∀ k, 1 ≤ k → k < upTo n → finishes t k) ∧
         (upTo n = n → t.host.power = .p4 ∧ stepState (e t n) = 1) ∧ (upTo n ≠ n → stepState (e t 3) = 3)) ∧
     ∀ (n : Nat) (code : Byte), plan.cutOff = none → 1 ≤ n → n ≤ 16 → stepState (e s n) = 3 →
       (stepAlt (e s n) = true ∨ n ∉ [3, 6, 7, 8, 12, 13]) → (∀ k, 1 ≤ k → k ≤ 16 → k ≠ n → usual k) → sound = true →
       let optional := n = 12 ∨ n = 15 ∨ (n = 9 ∧ s.host.lifecycle ≠ .returned)
       (optional → plan.failures = [] → ∃ t, exec (.startUp plan) s = .next t ∧ ready t ∧ stepState (e t n) = 4 ∧
         stepStarts (e t n) = stepStarts (e s n) ∧ ∀ k, 1 ≤ k → k ≤ 16 → k ≠ n → finishes t k) ∧
       (¬ optional → plan.failures = [(n, code)] → ∃ t, exec (.startUp plan) s = .next t ∧ halted t n ∧
         t.host.haltedStep = some n ∧ stepState (e t n) = 3 ∧ stepAlt (e t n) = stepAlt (e s n) ∧
         (e t n).extractLsb' 8 8 = code ∧ ∀ k, 1 ≤ k → k < n → finishes t k))

/-- LIFECYCLE_MOVE (R323), DEBUG_LEVEL_ENTER, DEBUG_TOKEN_EXPIRY, DEBUG_HALT, DEBUG_MEMORY_ACCESS, DEBUG_READ_COUNTERS (R324) and
ATTESTATION_REQUEST (R325). What the counters are, the layout of what is signed, and that the level is OFF once a token has expired,
are the model's (log entries 36 and 57; R324 does not say which level follows), and so is how a signature verifies where the manual
names a scheme without its text (log entry 51). -/
def Obligations.SecurityCommandsFollowTheirStates : Prop :=
  ∀ s : State,
    let h := s.host
    let refuses := fun (i : Instr) (name : String) => ∃ why, exec i s = .next (s.report (.refused name why))
    (s.managed = true →
      (∀ (to_ : Lifecycle) (sig : List Byte),
        let forward := (h.lifecycle = .manufacture ∧ to_ = .provisioned) ∨ (h.lifecycle = .provisioned ∧ to_ = .secured) ∨
          (h.lifecycle = .secured ∧ to_ = .returned)
        (¬ forward ∨ h.debug = .intrusive ∨ moveSigned h.lifecycle to_ sig = false →
          refuses (.lifecycleMove to_ sig) "LIFECYCLE_MOVE") ∧
        (forward → h.debug ≠ .intrusive → moveSigned h.lifecycle to_ sig = true →
          ∃ t, exec (.lifecycleMove to_ sig) s = .next t ∧ t.host.lifecycle = to_ ∧ t.pips = s.pips ∧ t.hbm = s.hbm ∧
            (to_ = .provisioned → t.host.identityKey = true) ∧
            (to_ = .returned → t.host.identityKey = false ∧ t.host.ownerKey = false))) ∧
      (∀ (level : DebugLevel) (token : Option DebugToken),
        let needed := (h.lifecycle = .provisioned ∧ level = .intrusive) ∨ (h.lifecycle = .secured ∧ level ≠ .off)
        let good := ∃ k n, token = some k ∧ hssVerify (tokenKey h.lifecycle) k.bound k.signature = true ∧
          k.serial = Config.serial ∧ k.lifecycle = h.lifecycle ∧ k.level = level ∧ s.time < k.expiry ∧ n < h.noncesIssued ∧
          k.nonce = (Config.tokenNonce n).toList ∧ k.nonce ∉ h.noncesUsed
        ((needed ∧ ¬ good) ∨ (level = .intrusive ∧ h.power = .p3) →
          refuses (.debugLevelEnter level token) "DEBUG_LEVEL_ENTER") ∧
        ((needed → good) → (level ≠ .intrusive ∨ h.power ≠ .p3) →
          ∃ t, exec (.debugLevelEnter level token) s = .next t ∧ t.host.debug = level ∧ t.hbm = s.hbm ∧
            (needed → ∀ k, token = some k → t.host.tokenExpiry = some k.expiry ∧ k.nonce ∈ t.host.noncesUsed) ∧
            (h.debug = .intrusive → level ≠ .intrusive → ∀ n p, t.pip n = some p → p.heldDebug = false) ∧
            (h.lifecycle = .secured → level = .intrusive → h.debug ≠ .intrusive →
              t.host.sessionKeys = [] ∧ ∀ cl off, readByte (t.cluster cl).sp off = 0))) ∧
      (∀ (k : Nat) (p : Pip), s.pip k = some p →
        (h.debug ≠ .intrusive → ∀ a, refuses (.debugHalt (.pip k) a) "DEBUG_HALT") ∧
        (h.debug = .intrusive → ∀ a, ∃ t q, exec (.debugHalt (.pip k) a) s = .next t ∧ t.pip k = some q ∧
          q = { p with heldDebug := q.heldDebug, heldFault := q.heldFault, stepping := q.stepping } ∧
          (a = .halt → q.heldDebug = true ∧ q.heldFault = false) ∧
          (a = .resume → q.heldDebug = false ∧ q.heldFault = false ∧ q.stepping = false) ∧
          (a = .step → p.heldDebug = true ∨ p.heldFault = true → q.heldDebug = false ∧ q.heldFault = false ∧ q.stepping = true) ∧
          ∀ j, j ≠ k → t.pip j = s.pip j)) ∧
      (∀ access : DebugAccess, h.debug ≠ .intrusive → refuses (.debugMemoryAccess access) "DEBUG_MEMORY_ACCESS") ∧
      (∀ (a n : Nat) (bs : List Byte), s.NoReds → h.debug = .intrusive → n ≠ 0 → bs.length = n → a % 128 + n ≤ 128 →
        physical a = true → physical (a + n - 1) = true → homeDie a = 0 → (∀ i, s.Tries (.host i)) →
        (mget s.bad (a / 128) = none → runsOver a n h.saveBase h.saveSize = false →
          ∃ t, exec (.debugMemoryAccess (.readPhysical a n)) s = .next t ∧ t.hbm = s.hbm ∧
            t.host.reports = h.reports ++ [.debugData (readBytes s.hbm a n)]) ∧
        ∃ t, exec (.debugMemoryAccess (.writePhysical a bs)) s = .next t ∧ t.pips = s.pips ∧
          ∀ x, readByte t.hbm x = if a ≤ x ∧ x < a + n then bs.getD (x - a) 0 else readByte s.hbm x) ∧
      (∀ (cl off n : Nat) (bs : List Byte), h.debug = .intrusive → n ≠ 0 → bs.length = n → cl < 16384 → off + n ≤ 0x3E0000 →
        (∃ t, exec (.debugMemoryAccess (.readScratch cl off n)) s = .next t ∧ t.clusters = s.clusters ∧
          t.host.reports = h.reports ++ [.debugData (readBytes (s.cluster cl).sp off n)]) ∧
        ∃ t, exec (.debugMemoryAccess (.writeScratch cl off bs)) s = .next t ∧ t.hbm = s.hbm ∧ t.pips = s.pips ∧
          ∀ x, readByte (t.cluster cl).sp x = if off ≤ x ∧ x < off + n then bs.getD (x - off) 0 else readByte (s.cluster cl).sp x) ∧
      (h.debug = .off → refuses .debugReadCounters "DEBUG_READ_COUNTERS") ∧
      (h.debug ≠ .off → ∃ t vs trace, exec .debugReadCounters s = .next t ∧
        t.host.reports = h.reports ++ [.counters vs trace] ∧ t.pips = s.pips ∧ t.hbm = s.hbm ∧ t.clusters = s.clusters) ∧
      ∀ nonce : List Byte,
        let signs := nonce.length = 32 ∧ h.identityKey = true ∧ h.signIndex < 2 ^ 30 ∧
          (h.lifecycle = .provisioned ∨ h.lifecycle = .secured)
        (¬ signs → refuses (.attestationRequest nonce) "ATTESTATION_REQUEST") ∧
        (signs → ∃ t, exec (.attestationRequest nonce) s = .next t ∧ t.host.signIndex = h.signIndex + 1 ∧
          t.host.reports = h.reports ++ [.attestation nonce h.modid h.lifecycle h.debug h.firmware (recordDigest h.steps)
            (identitySign h.signIndex (s.attested nonce))] ∧ t.pips = s.pips)) ∧
    ∀ e : Nat, h.tokenExpiry = some e → e ≤ s.time → ∃ t, exec .debugTokenExpiry s = .next t ∧ t.host.debug = .off ∧
      t.host.tokenExpiry = none ∧ t.hbm = s.hbm ∧ (h.debug = .intrusive → ∀ k p, t.pip k = some p → p.heldDebug = false)

/-! ### Encoding, reset, steps and invariants -/

/-- Words that the manual writes out decode to what it says they stand for (R34, R107, R162, R164, R167, R224, R319, R374, R375,
R408): one or two of each format. -/
def Obligations.WrittenOutWordsDecodeAsTheManualSays : Prop :=
  decode 0x00004602 = .ok (.add 0 0 0 0 4 12) ∧ decode 0x9FFE9483 = .ok (.addI 1 0 0xFFF 9 9) ∧
  decode 0x024E6282 = .ok (.and 0 0 0 7 6 5) ∧ decode 0x01FE6284 = .ok (.andI 0 0 255 6 5) ∧
  decode 0x1FFE6286 = .ok (.xorI 0 0 0xFFF 6 5) ∧ decode 0x00066287 = .ok (.shlI 0 0 3 6 5) ∧
  decode 0x83CE6282 = .ok (.rot 1 0 0 7 6 5) ∧ decode 0x81928502 = .ok (.divZ 1 0 0 9 8 10) ∧
  decode 0x40805910 = .ok (.cmpI 2 64 5 2) ∧ decode 0x82D49419 = .ok (.ffma 1 0 0 11 10 9 8) ∧
  decode 0x74007420 = .ok (.ld 0 1 3 2 0 7 8) ∧ decode 0x2C000029 = .ok (.fence 2 6) ∧
  decode 0x301070AB = .ok (.pref 0 8 7 1) ∧ decode 0x400C54C4 = .ok (.sendr 1 0 6 5 9) ∧
  decode 0x0480D643 = .ok (.waitge 0 2 2 0 13 12) ∧ decode 0x1000A4D2 = .ok (.gatherSpr 10 9) ∧
  decode 0x002204FC = .ok (.mfs 0x011 9) ∧ decode 0x0012507D = .ok (.mtsSrTcmp 0 5) ∧
  decodeTableWord 32 0x0012507D = some (.mtsSrTcmp 0 5)

/-- Decoding and encoding agree (R158, R161): every well-formed instruction with a word is what its word decodes to, with every
operand at every value; every word that decodes, decodes to a well-formed instruction whose word it is, so no bit is
ignored; and every instruction of a pip has a word. -/
def Obligations.DecodingInvertsEncoding : Prop :=
  (∀ (i : Instr) (w : Nat), i.wf = true → i.encode = some w → w < 2 ^ 32 ∧ decode w = .ok i) ∧
  (∀ (i : Instr) (w : Nat), w < 2 ^ 32 → decode w = .ok i → i.wf = true ∧ i.encode = some w) ∧
  ∀ (i : Instr) (p : Pip), (i.uses p).isSome = true → i.encode.isSome = true

/-- Module reset (R19, R27, R54, R206, R223, R290, R301, R324, R327, R329): the values that the manual gives. That no byte of memory
is listed, so that each reads 0, is the model's choice (log entry 1). -/
def Obligations.ResetLeavesTheStatedValues : Prop :=
  let s := State.reset
  s.cycle = 0 ∧ s.age = 1200000 ∧ s.preemptWait.setWidth 32 = (2400000 : BitVec 32) ∧
  s.preemptWait.extractLsb' 32 32 = (120000 : BitVec 32) ∧ s.rampUp = 40 ∧ s.rampDown = 40 ∧ s.fillers = 0 ∧
  (∀ k, s.pip k = none) ∧ (∀ id, s.launch id = none) ∧
  (∀ cl, (s.cluster cl).launch = none ∧ (s.cluster cl).lvlInt = 2048 ∧ (s.cluster cl).muCheck = 0 ∧
    (s.cluster cl).pBound = 262144) ∧
  (∀ job rank, mget (s.jobOf job).ranks rank = none) ∧ s.host.debug = .off ∧ (∀ k < 16, s.host.steps[k]? = some 0) ∧
  s.MemoryOk

/-- A step runs the decoded instruction (R28, R158, R161): where round robin chooses a slot and nothing else is due, its pip's word
is fetched, decoded and executed, with the issue noted in the core and the pip; a word that is no instruction and a fetch
that fails trap. The bytes fetched are those at the translated PC, on the pip's own die; what lies on another die is asked for first, and
the pip issues once it has come (R10). An event of the opcode table whose turn it is takes place, after one that is due where it takes
bank slots; a word never executes without a fetch (R17, R28), and a module in P4 executes nothing (R328).
That turns choose among what may happen at once is the model's form (log entries 2 and 19). -/
def Obligations.AStepRunsTheDecodedInstruction : Prop :=
  (∀ (slot : Nat) (ts : List Turn) (s : State) (p : Pip), s.agenda = .issue slot :: ts →
    let u := { s with agenda := ts }
    let core := slot / 16
    s.host.power ≠ .p4 → u.clocked = true → u.eventDue = none → u.nextIssue (slot / 256) = some slot → s.pip slot = some p → p.dueTrap = none →
    let v : State := { (u.setCore core { s.core core with lastSlot := some (slot % 16), lastCycle := some s.cycle }).setPip slot
      { p with lastIssue := some s.cycle, heldDebug := p.stepping, stepping := false } with cur := slot }
    let f := v.fetchWord slot p
    let o := v.opened (.fetch slot p.pc) (s.clusterAddr (slot / 256))
    (∀ w i, f.2 = some (.ok w) → decode w = .ok i → step s = exec i f.1) ∧
    (∀ w e, f.2 = some (.ok w) → decode w = .error e → step s = exec (.illegalInstruction (BitVec.ofNat 32 w)) f.1) ∧
    (∀ c, f.2 = some (.error c) → step s = exec .fetchFault v) ∧
    (f.2 = none → step s = .next (u.fetchWord slot p).1) ∧
    (s.NoReds → Canonical p.pc → (∀ l ∈ (s.core core).code, l.asid = p.asid → l.vline ≠ p.pc.toNat / 128) →
      ∀ pa leaf, o.Finds (slot / 65536) p.asid p.mode .fetch p.pc (.ok (pa, leaf)) → mget s.bad (pa / 128) = none →
      pa % 128 + 4 ≤ 128 → homeDie pa = dieOf (s.clusterAddr (slot / 256)) → f.2 = some (.ok (leNat (readBytes s.hbm pa 4))))) ∧
  ∀ (i : Instr) (ts : List Turn) (s : State), s.agenda = .event i :: ts → i.inTurn = true → s.host.power ≠ .p4 →
    let u := { s with agenda := ts }
    (i.usesSlots = false ∨ u.eventDue = none → step s = exec i u) ∧
    ∀ e, i.usesSlots = true → u.eventDue = some e → step s = exec e u

/-- Every step keeps global memory in its canonical form: addresses strictly rising, and no listed byte equal to what an
unlisted one reads as (the model's own form of memory, log entry 1). -/
def Obligations.EveryStepKeepsMemoryCanonical : Prop :=
  ∀ s t : State, s.MemoryOk → step s = .next t → t.MemoryOk
end

