-- ==== Sys2Proof/Laws/Run.lean ====
section
/-! SUPPORT. What `runEntry` and `runPure` answer, once for every instruction: the completion of a ready instruction,
and each of the ways in which one traps or parks (R161, R31). -/

namespace Sys2Proof.Machine

variable {i : Instr} {u : Uses} {s : State} {p : Pip} {entry : Pip → Pip → State → Done}

theorem State.Ready.sourcesFull (h : s.Ready i u p) : u.sourcesFull p = true := by
  simp only [Uses.sourcesFull, Bool.and_eq_true, List.all_eq_true]; exact h.full

theorem State.Ready.destsFree (h : s.Ready i u p) : u.destsFree p = true := by
  simp only [Uses.destsFree, Bool.and_eq_true, Bool.not_eq_true', List.any_eq_false]
  exact ⟨fun r hr => by simp [h.free.1 r hr], fun r hr => by simp [h.free.2 r hr]⟩

/-- A ready instruction does what its own entry says. -/
theorem runEntry_ready (h : s.Ready i u p) :
    runEntry i u s entry = match entry p (u.after p) (u.acquire p s) with
      | .trap c v => .next (s.takeTrap s.cur p c false v)
      | .park why => .next (s.parkPip p why)
      | .next t => .next t := by
  have hm : (u.priv && !p.mode) = false := by
    cases hp : u.priv with
    | false => rfl
    | true => simp [h.mode hp]
  have hr : (u.fullBit && decide (16 ≤ p.fullBits)) = false := by
    cases hp : u.fullBit with
    | false => rfl
    | true => have := h.room hp; simp; omega
  simp only [runEntry, h.here, h.wf, hm, hr, h.sourcesFull, h.destsFree, Uses.after]
  rfl

/-- A ready instruction that only computes has its function as its whole effect. -/
theorem runPure_ready (h : s.Ready i u p) (f : Pip → Pip → Pip) :
    runPure i u s f = .next (s.effect u p (f p)) := by
  simp only [runPure, runEntry_ready h, State.effect]

/-- A word whose fields are out of range is illegal. -/
theorem runEntry_illegal (hp : s.pip s.cur = some p) (hw : i.wf = false) :
    runEntry i u s entry = .next (s.takeTrap s.cur p .illegal false (word i.word)) := by
  simp [runEntry, hp, hw]

/-- A privileged instruction traps in mode U. -/
theorem runEntry_privileged (hp : s.pip s.cur = some p) (hw : i.wf = true) (hu : u.priv = true) (hm : p.mode = false) :
    runEntry i u s entry = .next (s.takeTrap s.cur p .privileged false (word i.word)) := by
  simp [runEntry, hp, hw, hu, hm]

/-- An instruction with an empty source parks. -/
theorem runEntry_sources (hp : s.pip s.cur = some p) (hw : i.wf = true) (hm : u.priv = true → p.mode = true)
    (hs : u.sourcesFull p = false) : runEntry i u s entry = .next (s.parkPip p (.sources u.g u.v)) := by
  cases hpr : u.priv <;> simp_all [runEntry]

/-- An instruction with a busy destination parks. -/
theorem runEntry_written (hp : s.pip s.cur = some p) (hw : i.wf = true) (hm : u.priv = true → p.mode = true)
    (hs : u.sourcesFull p = true) (hd : u.destsFree p = false) :
    runEntry i u s entry = .next (s.parkPip p (.written u.gd u.vd)) := by
  cases hpr : u.priv <;> simp_all [runEntry]

/-- A seventeenth operation of the full-bit class parks. -/
theorem runEntry_slots (hp : s.pip s.cur = some p) (hw : i.wf = true) (hm : u.priv = true → p.mode = true)
    (hs : u.sourcesFull p = true) (hd : u.destsFree p = true) (hf : u.fullBit = true) (hn : 16 ≤ p.fullBits) :
    runEntry i u s entry = .next (s.parkPip p .slots) := by
  cases hpr : u.priv <;> simp_all [runEntry]

end Sys2Proof.Machine
end

