-- ==== Sys2Proof/Laws/Memory.lean ====
section
/-! SUPPORT. The laws of maps and of memory: a read after a write to the same place gives what was written, a write leaves
every other place alone, and every memory operation keeps the canonical form. -/

namespace Sys2Proof.Machine

variable {α : Type}

/-! ### Maps -/

theorem mget_append (m l : Map α) (n : Nat) : mget (m ++ l) n = (mget m n).or (mget l n) := by
  induction m with
  | nil => rfl
  | cons e m ih =>
    obtain ⟨k, x⟩ := e
    simp only [List.cons_append, mget]
    split
    · rfl
    · exact ih

/-- A key is found by a filter that keeps it, and not by one that drops it. -/
theorem mget_filter (m : Map α) (f : Nat → Bool) (n : Nat) :
    mget (m.filter (fun e => f e.1)) n = if f n then mget m n else none := by
  induction m with
  | nil => simp [mget]
  | cons e m ih =>
    obtain ⟨k, x⟩ := e
    by_cases hk : k = n
    · subst hk
      cases hf : f k
      · simp only [hf, Bool.false_eq_true, if_false] at ih
        simp [List.filter, hf, ih]
      · simp [List.filter, hf, mget]
    · cases hf : f k <;> simp [List.filter, hf, mget, hk, ih]

@[simp] theorem mget_mset (m : Map α) (n : Nat) (x : α) : mget (mset m n x) n = some x := by
  have h := mget_filter m (fun k => decide (k < n)) n
  simp only [Nat.lt_irrefl, decide_false, Bool.false_eq_true, if_false] at h
  simp [mset, mget_append, h, mget]

theorem mget_mset_ne (m : Map α) {n k : Nat} (x : α) (h : k ≠ n) : mget (mset m n x) k = mget m k := by
  have h1 := mget_filter m (fun j => decide (j < n)) k
  have h2 := mget_filter m (fun j => decide (n < j)) k
  simp only [decide_eq_true_eq] at h1 h2
  have hn : ¬ n = k := fun e => h e.symm
  simp only [mset, mget_append, h1, mget, hn, if_false, h2]
  by_cases hk : k < n
  · have : ¬ n < k := by omega
    simp [hk, this]
  · have : n < k := by omega
    simp [hk, this]

theorem mget_mset_if (m : Map α) (n k : Nat) (x : α) : mget (mset m n x) k = if k = n then some x else mget m k := by
  split
  · next h => subst h; simp
  · next h => exact mget_mset_ne m x h

@[simp] theorem mgetD_mset (m : Map α) (n : Nat) (x d : α) : mgetD (mset m n x) n d = x := by simp [mgetD]

theorem mgetD_mset_ne (m : Map α) {n k : Nat} (x d : α) (h : k ≠ n) : mgetD (mset m n x) k d = mgetD m k d := by
  simp [mgetD, mget_mset_ne m x h]

@[simp] theorem mget_merase (m : Map α) (n : Nat) : mget (merase m n) n = none := by
  have h := mget_filter m (fun k => k != n) n
  simpa [merase] using h

theorem mget_merase_ne (m : Map α) {n k : Nat} (h : k ≠ n) : mget (merase m n) k = mget m k := by
  have h1 := mget_filter m (fun j => j != n) k
  simpa [merase, h] using h1

/-- A change of the values of a map. -/
theorem mget_map {β : Type} (m : Map α) (f : Nat → α → β) (n : Nat) :
    mget (m.map (fun e => (e.1, f e.1 e.2))) n = (mget m n).map (f n) := by
  induction m with
  | nil => rfl
  | cons e m ih =>
    obtain ⟨k, x⟩ := e
    simp only [List.map_cons, mget]
    split
    · next h => subst h; rfl
    · exact ih

/-! ### Bytes -/

@[simp] theorem natBytes_length (n x : Nat) : (natBytes n x).length = n := by
  induction n generalizing x with
  | zero => rfl
  | succ n ih => simp [natBytes, ih]

theorem leNat_natBytes (n x : Nat) : leNat (natBytes n x) = x % 256 ^ n := by
  induction n generalizing x with
  | zero => simp [natBytes, leNat, Nat.mod_one]
  | succ n ih =>
    have hb : (BitVec.ofNat 8 x).toNat = x % 256 := by simp [BitVec.toNat_ofNat]
    rw [natBytes, leNat, ih, hb, Nat.pow_succ, Nat.mul_comm (256 ^ n) 256, Nat.mod_mul]

theorem leNat_lt (bs : List Byte) : leNat bs < 256 ^ bs.length := by
  induction bs with
  | nil => simp [leNat]
  | cons b bs ih =>
    have hb : b.toNat < 256 := b.isLt
    simp only [leNat, List.length_cons, Nat.pow_succ]
    omega

@[simp] theorem readBytes_length (m : List Host.Cell) (a n : Nat) : (readBytes m a n).length = n := by simp [readBytes]

theorem cellsOf_zero (a : Nat) (bs : List Byte) : cellsOf a (0 :: bs) = cellsOf (a + 1) bs := by simp only [cellsOf, if_true]

theorem cellsOf_cons (a : Nat) {b : Byte} (bs : List Byte) (h : b ≠ 0) : cellsOf a (b :: bs) = (a, b) :: cellsOf (a + 1) bs := by
  simp only [cellsOf, h, if_false]

theorem cells_get (a : Nat) (bs : List Byte) (x : Nat) :
    (mget (cellsOf a bs) x).getD 0 = if a ≤ x ∧ x < a + bs.length then bs.getD (x - a) 0 else 0 := by
  induction bs generalizing a with
  | nil => simp [cellsOf, mget]
  | cons b bs ih =>
    by_cases hx : x = a
    · subst hx
      have hin : x ≤ x ∧ x < x + (b :: bs).length := by simp only [List.length_cons]; omega
      rw [if_pos hin, Nat.sub_self]
      by_cases hb : b = 0
      · subst hb
        rw [cellsOf_zero, ih, if_neg (by omega)]; rfl
      · rw [cellsOf_cons x bs hb]; simp only [mget, if_true, Option.getD_some, List.getD_cons_zero]
    · have hax : ¬ a = x := fun e => hx e.symm
      have hcell : (mget (cellsOf a (b :: bs)) x).getD 0 = (mget (cellsOf (a + 1) bs) x).getD 0 := by
        by_cases hb : b = 0
        · subst hb; rw [cellsOf_zero]
        · rw [cellsOf_cons a bs hb]; simp only [mget, hax, if_false]
      rw [hcell, ih]
      by_cases hr : a + 1 ≤ x ∧ x < a + 1 + bs.length
      · have hr' : a ≤ x ∧ x < a + (b :: bs).length := by simp only [List.length_cons]; omega
        have hi : x - a = (x - (a + 1)) + 1 := by omega
        rw [if_pos hr, if_pos hr', hi]; rfl
      · have hr' : ¬(a ≤ x ∧ x < a + (b :: bs).length) := by simp only [List.length_cons]; omega
        rw [if_neg hr, if_neg hr']

/-- Cells lie within the bytes they list. -/
theorem cells_none (a : Nat) (bs : List Byte) (x : Nat) (h : ¬(a ≤ x ∧ x < a + bs.length)) : mget (cellsOf a bs) x = none := by
  induction bs generalizing a with
  | nil => rfl
  | cons b bs ih =>
    have hax : ¬ a = x := fun e => h (by subst e; simp)
    have hi := ih (a + 1) (by simp only [List.length_cons] at h; omega)
    by_cases hb : b = 0
    · subst hb; rw [cellsOf_zero, hi]
    · rw [cellsOf_cons a bs hb]; simp only [mget, hax, if_false, hi]

/-- A read after a write: the bytes written where they lie, every other byte as it was. -/
theorem readByte_writeBytes (m : List Host.Cell) (a : Nat) (bs : List Byte) (x : Nat) :
    readByte (writeBytes m a bs) x = if a ≤ x ∧ x < a + bs.length then bs.getD (x - a) 0 else readByte m x := by
  have h1 := mget_filter m (fun j => decide (j < a)) x
  have h2 := mget_filter m (fun j => decide (a + bs.length ≤ j)) x
  simp only [decide_eq_true_eq] at h1 h2
  simp only [readByte, mgetD, writeBytes, mget_append, h1, h2]
  by_cases hr : a ≤ x ∧ x < a + bs.length
  · have hlt : ¬ x < a := by omega
    have hge : ¬ a + bs.length ≤ x := by omega
    have := cells_get a bs x
    rw [if_pos hr] at this ⊢
    rw [← this]; simp only [hlt, hge, if_false, Option.none_or, Option.or_none]
  · rw [if_neg hr, cells_none a bs x hr]
    by_cases hlt : x < a
    · have hge : ¬ a + bs.length ≤ x := by omega
      simp [hlt, hge]
    · have hge : a + bs.length ≤ x := by omega
      simp [hlt, hge]

/-! ### The canonical form -/

theorem risingFrom_mono {a b : Nat} {m : List (Nat × α)} (h : risingFrom b m = true) (hab : a ≤ b) : risingFrom a m = true := by
  cases m with
  | nil => rfl
  | cons e m =>
    obtain ⟨k, x⟩ := e
    simp only [risingFrom, Bool.and_eq_true, decide_eq_true_eq] at h ⊢
    exact ⟨by omega, h.2⟩

/-- A rising list holds no key below where it begins. -/
theorem rising_ge {a : Nat} {m : List (Nat × α)} (h : risingFrom a m = true) : ∀ e ∈ m, a ≤ e.1 := by
  induction m generalizing a with
  | nil => simp
  | cons e m ih =>
    obtain ⟨k, x⟩ := e
    simp only [risingFrom, Bool.and_eq_true, decide_eq_true_eq] at h
    intro y hy
    rcases List.mem_cons.1 hy with rfl | hy
    · exact h.1
    · have := ih h.2 y hy; omega

theorem risingFrom_filter {a : Nat} {m : List (Nat × α)} (f : Nat × α → Bool) (h : risingFrom a m = true) :
    risingFrom a (m.filter f) = true := by
  induction m generalizing a with
  | nil => rfl
  | cons e m ih =>
    obtain ⟨k, x⟩ := e
    simp only [risingFrom, Bool.and_eq_true, decide_eq_true_eq] at h
    simp only [List.filter]
    split
    · simp only [risingFrom, Bool.and_eq_true, decide_eq_true_eq]; exact ⟨h.1, ih h.2⟩
    · exact risingFrom_mono (ih h.2) (by omega)

/-- Two rising lists, one wholly below the other, rise together. -/
theorem risingFrom_append {a b : Nat} {m l : List (Nat × α)} (hm : risingFrom a m = true) (hlt : ∀ e ∈ m, e.1 < b)
    (hab : a ≤ b) (hl : risingFrom b l = true) : risingFrom a (m ++ l) = true := by
  induction m generalizing a with
  | nil => exact risingFrom_mono hl hab
  | cons e m ih =>
    obtain ⟨k, x⟩ := e
    simp only [risingFrom, Bool.and_eq_true, decide_eq_true_eq, List.cons_append] at hm ⊢
    have hk : k < b := hlt (k, x) (List.mem_cons_self ..)
    exact ⟨hm.1, ih hm.2 (fun y hy => hlt y (List.mem_cons_of_mem _ hy)) (by omega)⟩

theorem risingFrom_above {a b : Nat} {m : List (Nat × α)} (h : risingFrom a m = true) (hb : ∀ e ∈ m, b ≤ e.1) :
    risingFrom b m = true := by
  cases m with
  | nil => rfl
  | cons e m =>
    obtain ⟨k, x⟩ := e
    simp only [risingFrom, Bool.and_eq_true, decide_eq_true_eq] at h ⊢
    exact ⟨hb (k, x) (List.mem_cons_self ..), h.2⟩

theorem cellsOf_rising (a : Nat) (bs : List Byte) : risingFrom a (cellsOf a bs) = true := by
  induction bs generalizing a with
  | nil => rfl
  | cons b bs ih =>
    simp only [cellsOf]
    split
    · exact risingFrom_mono (ih (a + 1)) (by omega)
    · simp only [risingFrom, Bool.and_eq_true, decide_eq_true_eq]; exact ⟨Nat.le_refl _, ih (a + 1)⟩

theorem cellsOf_lt (a : Nat) (bs : List Byte) : ∀ e ∈ cellsOf a bs, e.1 < a + bs.length := by
  induction bs generalizing a with
  | nil => simp [cellsOf]
  | cons b bs ih =>
    have hi := ih (a + 1)
    intro e he
    simp only [cellsOf] at he
    simp only [List.length_cons]
    split at he
    · have := hi e he; omega
    · rcases List.mem_cons.1 he with rfl | he
      · simp
      · have := hi e he; omega

theorem cellsOf_ne_zero (a : Nat) (bs : List Byte) : ∀ e ∈ cellsOf a bs, e.2 ≠ 0 := by
  induction bs generalizing a with
  | nil => simp [cellsOf]
  | cons b bs ih =>
    intro e he
    simp only [cellsOf] at he
    split at he
    · exact ih (a + 1) e he
    · next hb =>
      rcases List.mem_cons.1 he with rfl | he
      · exact hb
      · exact ih (a + 1) e he

/-- Writing bytes keeps the canonical form. -/
theorem writeBytes_wf {m : List Host.Cell} (a : Nat) (bs : List Byte) (h : Memory.wf m = true) :
    Memory.wf (writeBytes m a bs) = true := by
  simp only [Memory.wf, Bool.and_eq_true, List.all_eq_true, bne_iff_ne, ne_eq] at h ⊢
  obtain ⟨hr, hz⟩ := h
  constructor
  · have hlow := risingFrom_filter (fun e : Host.Cell => decide (e.1 < a)) hr
    have hhigh := risingFrom_filter (fun e : Host.Cell => decide (a + bs.length ≤ e.1)) hr
    have hhigh' := risingFrom_above (b := a + bs.length) hhigh (fun e he => by
      have := (List.mem_filter.1 he).2; simpa using this)
    have hmid : risingFrom a (cellsOf a bs ++ m.filter (fun e => decide (a + bs.length ≤ e.1))) = true :=
      risingFrom_append (cellsOf_rising a bs) (cellsOf_lt a bs) (by omega) hhigh'
    simp only [writeBytes, List.append_assoc]
    exact risingFrom_append hlow (fun e he => by have := (List.mem_filter.1 he).2; simpa using this) (Nat.zero_le _) hmid
  · intro e he
    simp only [writeBytes, List.mem_append, List.mem_filter] at he
    rcases he with (he | he) | he
    · exact hz e he.1
    · exact cellsOf_ne_zero a bs e he
    · exact hz e he.1

/-- Merging an update-only line keeps the canonical form (R70). -/
theorem mergeElems_wf {m : List Host.Cell} (base op bytes : Nat) (es : Map Word) (h : Memory.wf m = true) :
    Memory.wf (mergeElems m base op bytes es) = true := by
  induction es generalizing m with
  | nil => exact h
  | cons e es ih => exact ih (writeBytes_wf _ _ h)

/-- A step that leaves the machine's memory alone keeps its canonical form. -/
theorem State.MemoryOk.of_eq {s t : State} (h : s.MemoryOk) (e : t.hbm = s.hbm) : t.MemoryOk := by
  unfold State.MemoryOk at *; rw [e]; exact h

/-- What every turn of a fold keeps, the fold keeps. -/
theorem foldl_keeps {β : Type} {P : State → Prop} {f : State → β → State} (hf : ∀ s b, P s → P (f s b)) (l : List β) {s : State}
    (h : P s) : P (l.foldl f s) := by
  induction l generalizing s with
  | nil => exact h
  | cons b l ih => exact ih (hf s b h)

end Sys2Proof.Machine
end

