-- ==== Sys2Proof/Laws/State.lean ====
section
/-! SUPPORT. For every update of the state and of a pip, one lemma for each field that it leaves alone, and what a read after
it gives. -/

namespace Sys2Proof.Machine

/-! ### Updates of the state -/

@[simp] theorem State.setPip_cycle (s : State) (k : Nat) (p : Pip) : (s.setPip k p).cycle = s.cycle := rfl
@[simp] theorem State.setPip_time (s : State) (k : Nat) (p : Pip) : (s.setPip k p).time = s.time := rfl
@[simp] theorem State.setPip_skew (s : State) (k : Nat) (p : Pip) : (s.setPip k p).skew = s.skew := rfl
@[simp] theorem State.setPip_age (s : State) (k : Nat) (p : Pip) : (s.setPip k p).age = s.age := rfl
@[simp] theorem State.setPip_preemptWait (s : State) (k : Nat) (p : Pip) : (s.setPip k p).preemptWait = s.preemptWait := rfl
@[simp] theorem State.setPip_rampUp (s : State) (k : Nat) (p : Pip) : (s.setPip k p).rampUp = s.rampUp := rfl
@[simp] theorem State.setPip_rampDown (s : State) (k : Nat) (p : Pip) : (s.setPip k p).rampDown = s.rampDown := rfl
@[simp] theorem State.setPip_fillers (s : State) (k : Nat) (p : Pip) : (s.setPip k p).fillers = s.fillers := rfl
@[simp] theorem State.setPip_applied (s : State) (k : Nat) (p : Pip) : (s.setPip k p).applied = s.applied := rfl
@[simp] theorem State.setPip_adoptBy (s : State) (k : Nat) (p : Pip) : (s.setPip k p).adoptBy = s.adoptBy := rfl
@[simp] theorem State.setPip_host (s : State) (k : Nat) (p : Pip) : (s.setPip k p).host = s.host := rfl
@[simp] theorem State.setPip_jobs (s : State) (k : Nat) (p : Pip) : (s.setPip k p).jobs = s.jobs := rfl
@[simp] theorem State.setPip_hbm (s : State) (k : Nat) (p : Pip) : (s.setPip k p).hbm = s.hbm := rfl
@[simp] theorem State.setPip_dirty (s : State) (k : Nat) (p : Pip) : (s.setPip k p).dirty = s.dirty := rfl
@[simp] theorem State.setPip_pins (s : State) (k : Nat) (p : Pip) : (s.setPip k p).pins = s.pins := rfl
@[simp] theorem State.setPip_bad (s : State) (k : Nat) (p : Pip) : (s.setPip k p).bad = s.bad := rfl
@[simp] theorem State.setPip_tlbs (s : State) (k : Nat) (p : Pip) : (s.setPip k p).tlbs = s.tlbs := rfl
@[simp] theorem State.setPip_nmas (s : State) (k : Nat) (p : Pip) : (s.setPip k p).nmas = s.nmas := rfl
@[simp] theorem State.setPip_net (s : State) (k : Nat) (p : Pip) : (s.setPip k p).net = s.net := rfl
@[simp] theorem State.setPip_launches (s : State) (k : Nat) (p : Pip) : (s.setPip k p).launches = s.launches := rfl
@[simp] theorem State.setPip_nextLaunch (s : State) (k : Nat) (p : Pip) : (s.setPip k p).nextLaunch = s.nextLaunch := rfl
@[simp] theorem State.setPip_saved (s : State) (k : Nat) (p : Pip) : (s.setPip k p).saved = s.saved := rfl
@[simp] theorem State.setPip_clusters (s : State) (k : Nat) (p : Pip) : (s.setPip k p).clusters = s.clusters := rfl
@[simp] theorem State.setPip_cores (s : State) (k : Nat) (p : Pip) : (s.setPip k p).cores = s.cores := rfl
@[simp] theorem State.setPip_cur (s : State) (k : Nat) (p : Pip) : (s.setPip k p).cur = s.cur := rfl
@[simp] theorem State.setPip_agenda (s : State) (k : Nat) (p : Pip) : (s.setPip k p).agenda = s.agenda := rfl
@[simp] theorem State.setPip_fresh (s : State) (k : Nat) (p : Pip) : (s.setPip k p).fresh = s.fresh := rfl
@[simp] theorem State.setPip_reach (s : State) (k : Nat) (p : Pip) : (s.setPip k p).reach = s.reach := rfl

@[simp] theorem State.put_cycle (s : State) (p : Pip) : (s.put p).cycle = s.cycle := rfl
@[simp] theorem State.put_time (s : State) (p : Pip) : (s.put p).time = s.time := rfl
@[simp] theorem State.put_skew (s : State) (p : Pip) : (s.put p).skew = s.skew := rfl
@[simp] theorem State.put_age (s : State) (p : Pip) : (s.put p).age = s.age := rfl
@[simp] theorem State.put_preemptWait (s : State) (p : Pip) : (s.put p).preemptWait = s.preemptWait := rfl
@[simp] theorem State.put_rampUp (s : State) (p : Pip) : (s.put p).rampUp = s.rampUp := rfl
@[simp] theorem State.put_rampDown (s : State) (p : Pip) : (s.put p).rampDown = s.rampDown := rfl
@[simp] theorem State.put_fillers (s : State) (p : Pip) : (s.put p).fillers = s.fillers := rfl
@[simp] theorem State.put_applied (s : State) (p : Pip) : (s.put p).applied = s.applied := rfl
@[simp] theorem State.put_adoptBy (s : State) (p : Pip) : (s.put p).adoptBy = s.adoptBy := rfl
@[simp] theorem State.put_host (s : State) (p : Pip) : (s.put p).host = s.host := rfl
@[simp] theorem State.put_jobs (s : State) (p : Pip) : (s.put p).jobs = s.jobs := rfl
@[simp] theorem State.put_hbm (s : State) (p : Pip) : (s.put p).hbm = s.hbm := rfl
@[simp] theorem State.put_dirty (s : State) (p : Pip) : (s.put p).dirty = s.dirty := rfl
@[simp] theorem State.put_pins (s : State) (p : Pip) : (s.put p).pins = s.pins := rfl
@[simp] theorem State.put_bad (s : State) (p : Pip) : (s.put p).bad = s.bad := rfl
@[simp] theorem State.put_tlbs (s : State) (p : Pip) : (s.put p).tlbs = s.tlbs := rfl
@[simp] theorem State.put_nmas (s : State) (p : Pip) : (s.put p).nmas = s.nmas := rfl
@[simp] theorem State.put_net (s : State) (p : Pip) : (s.put p).net = s.net := rfl
@[simp] theorem State.put_launches (s : State) (p : Pip) : (s.put p).launches = s.launches := rfl
@[simp] theorem State.put_nextLaunch (s : State) (p : Pip) : (s.put p).nextLaunch = s.nextLaunch := rfl
@[simp] theorem State.put_saved (s : State) (p : Pip) : (s.put p).saved = s.saved := rfl
@[simp] theorem State.put_clusters (s : State) (p : Pip) : (s.put p).clusters = s.clusters := rfl
@[simp] theorem State.put_cores (s : State) (p : Pip) : (s.put p).cores = s.cores := rfl
@[simp] theorem State.put_cur (s : State) (p : Pip) : (s.put p).cur = s.cur := rfl
@[simp] theorem State.put_agenda (s : State) (p : Pip) : (s.put p).agenda = s.agenda := rfl
@[simp] theorem State.put_fresh (s : State) (p : Pip) : (s.put p).fresh = s.fresh := rfl
@[simp] theorem State.put_reach (s : State) (p : Pip) : (s.put p).reach = s.reach := rfl

@[simp] theorem State.setCluster_cycle (s : State) (cl : Nat) (c : Cluster) : (s.setCluster cl c).cycle = s.cycle := rfl
@[simp] theorem State.setCluster_time (s : State) (cl : Nat) (c : Cluster) : (s.setCluster cl c).time = s.time := rfl
@[simp] theorem State.setCluster_skew (s : State) (cl : Nat) (c : Cluster) : (s.setCluster cl c).skew = s.skew := rfl
@[simp] theorem State.setCluster_age (s : State) (cl : Nat) (c : Cluster) : (s.setCluster cl c).age = s.age := rfl
@[simp] theorem State.setCluster_preemptWait (s : State) (cl : Nat) (c : Cluster) : (s.setCluster cl c).preemptWait = s.preemptWait := rfl
@[simp] theorem State.setCluster_rampUp (s : State) (cl : Nat) (c : Cluster) : (s.setCluster cl c).rampUp = s.rampUp := rfl
@[simp] theorem State.setCluster_rampDown (s : State) (cl : Nat) (c : Cluster) : (s.setCluster cl c).rampDown = s.rampDown := rfl
@[simp] theorem State.setCluster_fillers (s : State) (cl : Nat) (c : Cluster) : (s.setCluster cl c).fillers = s.fillers := rfl
@[simp] theorem State.setCluster_applied (s : State) (cl : Nat) (c : Cluster) : (s.setCluster cl c).applied = s.applied := rfl
@[simp] theorem State.setCluster_adoptBy (s : State) (cl : Nat) (c : Cluster) : (s.setCluster cl c).adoptBy = s.adoptBy := rfl
@[simp] theorem State.setCluster_host (s : State) (cl : Nat) (c : Cluster) : (s.setCluster cl c).host = s.host := rfl
@[simp] theorem State.setCluster_jobs (s : State) (cl : Nat) (c : Cluster) : (s.setCluster cl c).jobs = s.jobs := rfl
@[simp] theorem State.setCluster_hbm (s : State) (cl : Nat) (c : Cluster) : (s.setCluster cl c).hbm = s.hbm := rfl
@[simp] theorem State.setCluster_dirty (s : State) (cl : Nat) (c : Cluster) : (s.setCluster cl c).dirty = s.dirty := rfl
@[simp] theorem State.setCluster_pins (s : State) (cl : Nat) (c : Cluster) : (s.setCluster cl c).pins = s.pins := rfl
@[simp] theorem State.setCluster_bad (s : State) (cl : Nat) (c : Cluster) : (s.setCluster cl c).bad = s.bad := rfl
@[simp] theorem State.setCluster_tlbs (s : State) (cl : Nat) (c : Cluster) : (s.setCluster cl c).tlbs = s.tlbs := rfl
@[simp] theorem State.setCluster_nmas (s : State) (cl : Nat) (c : Cluster) : (s.setCluster cl c).nmas = s.nmas := rfl
@[simp] theorem State.setCluster_net (s : State) (cl : Nat) (c : Cluster) : (s.setCluster cl c).net = s.net := rfl
@[simp] theorem State.setCluster_launches (s : State) (cl : Nat) (c : Cluster) : (s.setCluster cl c).launches = s.launches := rfl
@[simp] theorem State.setCluster_nextLaunch (s : State) (cl : Nat) (c : Cluster) : (s.setCluster cl c).nextLaunch = s.nextLaunch := rfl
@[simp] theorem State.setCluster_saved (s : State) (cl : Nat) (c : Cluster) : (s.setCluster cl c).saved = s.saved := rfl
@[simp] theorem State.setCluster_cores (s : State) (cl : Nat) (c : Cluster) : (s.setCluster cl c).cores = s.cores := rfl
@[simp] theorem State.setCluster_pips (s : State) (cl : Nat) (c : Cluster) : (s.setCluster cl c).pips = s.pips := rfl
@[simp] theorem State.setCluster_cur (s : State) (cl : Nat) (c : Cluster) : (s.setCluster cl c).cur = s.cur := rfl
@[simp] theorem State.setCluster_agenda (s : State) (cl : Nat) (c : Cluster) : (s.setCluster cl c).agenda = s.agenda := rfl
@[simp] theorem State.setCluster_fresh (s : State) (cl : Nat) (c : Cluster) : (s.setCluster cl c).fresh = s.fresh := rfl
@[simp] theorem State.setCluster_reach (s : State) (cl : Nat) (c : Cluster) : (s.setCluster cl c).reach = s.reach := rfl

@[simp] theorem State.setCore_cycle (s : State) (k : Nat) (c : Core) : (s.setCore k c).cycle = s.cycle := rfl
@[simp] theorem State.setCore_time (s : State) (k : Nat) (c : Core) : (s.setCore k c).time = s.time := rfl
@[simp] theorem State.setCore_skew (s : State) (k : Nat) (c : Core) : (s.setCore k c).skew = s.skew := rfl
@[simp] theorem State.setCore_age (s : State) (k : Nat) (c : Core) : (s.setCore k c).age = s.age := rfl
@[simp] theorem State.setCore_preemptWait (s : State) (k : Nat) (c : Core) : (s.setCore k c).preemptWait = s.preemptWait := rfl
@[simp] theorem State.setCore_rampUp (s : State) (k : Nat) (c : Core) : (s.setCore k c).rampUp = s.rampUp := rfl
@[simp] theorem State.setCore_rampDown (s : State) (k : Nat) (c : Core) : (s.setCore k c).rampDown = s.rampDown := rfl
@[simp] theorem State.setCore_fillers (s : State) (k : Nat) (c : Core) : (s.setCore k c).fillers = s.fillers := rfl
@[simp] theorem State.setCore_applied (s : State) (k : Nat) (c : Core) : (s.setCore k c).applied = s.applied := rfl
@[simp] theorem State.setCore_adoptBy (s : State) (k : Nat) (c : Core) : (s.setCore k c).adoptBy = s.adoptBy := rfl
@[simp] theorem State.setCore_host (s : State) (k : Nat) (c : Core) : (s.setCore k c).host = s.host := rfl
@[simp] theorem State.setCore_jobs (s : State) (k : Nat) (c : Core) : (s.setCore k c).jobs = s.jobs := rfl
@[simp] theorem State.setCore_hbm (s : State) (k : Nat) (c : Core) : (s.setCore k c).hbm = s.hbm := rfl
@[simp] theorem State.setCore_dirty (s : State) (k : Nat) (c : Core) : (s.setCore k c).dirty = s.dirty := rfl
@[simp] theorem State.setCore_pins (s : State) (k : Nat) (c : Core) : (s.setCore k c).pins = s.pins := rfl
@[simp] theorem State.setCore_bad (s : State) (k : Nat) (c : Core) : (s.setCore k c).bad = s.bad := rfl
@[simp] theorem State.setCore_tlbs (s : State) (k : Nat) (c : Core) : (s.setCore k c).tlbs = s.tlbs := rfl
@[simp] theorem State.setCore_nmas (s : State) (k : Nat) (c : Core) : (s.setCore k c).nmas = s.nmas := rfl
@[simp] theorem State.setCore_net (s : State) (k : Nat) (c : Core) : (s.setCore k c).net = s.net := rfl
@[simp] theorem State.setCore_launches (s : State) (k : Nat) (c : Core) : (s.setCore k c).launches = s.launches := rfl
@[simp] theorem State.setCore_nextLaunch (s : State) (k : Nat) (c : Core) : (s.setCore k c).nextLaunch = s.nextLaunch := rfl
@[simp] theorem State.setCore_saved (s : State) (k : Nat) (c : Core) : (s.setCore k c).saved = s.saved := rfl
@[simp] theorem State.setCore_clusters (s : State) (k : Nat) (c : Core) : (s.setCore k c).clusters = s.clusters := rfl
@[simp] theorem State.setCore_pips (s : State) (k : Nat) (c : Core) : (s.setCore k c).pips = s.pips := rfl
@[simp] theorem State.setCore_cur (s : State) (k : Nat) (c : Core) : (s.setCore k c).cur = s.cur := rfl
@[simp] theorem State.setCore_agenda (s : State) (k : Nat) (c : Core) : (s.setCore k c).agenda = s.agenda := rfl
@[simp] theorem State.setCore_fresh (s : State) (k : Nat) (c : Core) : (s.setCore k c).fresh = s.fresh := rfl
@[simp] theorem State.setCore_reach (s : State) (k : Nat) (c : Core) : (s.setCore k c).reach = s.reach := rfl

@[simp] theorem State.setLaunch_cycle (s : State) (l : Launch) : (s.setLaunch l).cycle = s.cycle := rfl
@[simp] theorem State.setLaunch_time (s : State) (l : Launch) : (s.setLaunch l).time = s.time := rfl
@[simp] theorem State.setLaunch_skew (s : State) (l : Launch) : (s.setLaunch l).skew = s.skew := rfl
@[simp] theorem State.setLaunch_age (s : State) (l : Launch) : (s.setLaunch l).age = s.age := rfl
@[simp] theorem State.setLaunch_preemptWait (s : State) (l : Launch) : (s.setLaunch l).preemptWait = s.preemptWait := rfl
@[simp] theorem State.setLaunch_rampUp (s : State) (l : Launch) : (s.setLaunch l).rampUp = s.rampUp := rfl
@[simp] theorem State.setLaunch_rampDown (s : State) (l : Launch) : (s.setLaunch l).rampDown = s.rampDown := rfl
@[simp] theorem State.setLaunch_fillers (s : State) (l : Launch) : (s.setLaunch l).fillers = s.fillers := rfl
@[simp] theorem State.setLaunch_applied (s : State) (l : Launch) : (s.setLaunch l).applied = s.applied := rfl
@[simp] theorem State.setLaunch_adoptBy (s : State) (l : Launch) : (s.setLaunch l).adoptBy = s.adoptBy := rfl
@[simp] theorem State.setLaunch_host (s : State) (l : Launch) : (s.setLaunch l).host = s.host := rfl
@[simp] theorem State.setLaunch_jobs (s : State) (l : Launch) : (s.setLaunch l).jobs = s.jobs := rfl
@[simp] theorem State.setLaunch_hbm (s : State) (l : Launch) : (s.setLaunch l).hbm = s.hbm := rfl
@[simp] theorem State.setLaunch_dirty (s : State) (l : Launch) : (s.setLaunch l).dirty = s.dirty := rfl
@[simp] theorem State.setLaunch_pins (s : State) (l : Launch) : (s.setLaunch l).pins = s.pins := rfl
@[simp] theorem State.setLaunch_bad (s : State) (l : Launch) : (s.setLaunch l).bad = s.bad := rfl
@[simp] theorem State.setLaunch_tlbs (s : State) (l : Launch) : (s.setLaunch l).tlbs = s.tlbs := rfl
@[simp] theorem State.setLaunch_nmas (s : State) (l : Launch) : (s.setLaunch l).nmas = s.nmas := rfl
@[simp] theorem State.setLaunch_net (s : State) (l : Launch) : (s.setLaunch l).net = s.net := rfl
@[simp] theorem State.setLaunch_nextLaunch (s : State) (l : Launch) : (s.setLaunch l).nextLaunch = s.nextLaunch := rfl
@[simp] theorem State.setLaunch_saved (s : State) (l : Launch) : (s.setLaunch l).saved = s.saved := rfl
@[simp] theorem State.setLaunch_clusters (s : State) (l : Launch) : (s.setLaunch l).clusters = s.clusters := rfl
@[simp] theorem State.setLaunch_cores (s : State) (l : Launch) : (s.setLaunch l).cores = s.cores := rfl
@[simp] theorem State.setLaunch_pips (s : State) (l : Launch) : (s.setLaunch l).pips = s.pips := rfl
@[simp] theorem State.setLaunch_cur (s : State) (l : Launch) : (s.setLaunch l).cur = s.cur := rfl
@[simp] theorem State.setLaunch_agenda (s : State) (l : Launch) : (s.setLaunch l).agenda = s.agenda := rfl
@[simp] theorem State.setLaunch_fresh (s : State) (l : Launch) : (s.setLaunch l).fresh = s.fresh := rfl
@[simp] theorem State.setLaunch_reach (s : State) (l : Launch) : (s.setLaunch l).reach = s.reach := rfl

@[simp] theorem State.setJob_cycle (s : State) (n : Nat) (j : Job) : (s.setJob n j).cycle = s.cycle := rfl
@[simp] theorem State.setJob_time (s : State) (n : Nat) (j : Job) : (s.setJob n j).time = s.time := rfl
@[simp] theorem State.setJob_skew (s : State) (n : Nat) (j : Job) : (s.setJob n j).skew = s.skew := rfl
@[simp] theorem State.setJob_age (s : State) (n : Nat) (j : Job) : (s.setJob n j).age = s.age := rfl
@[simp] theorem State.setJob_preemptWait (s : State) (n : Nat) (j : Job) : (s.setJob n j).preemptWait = s.preemptWait := rfl
@[simp] theorem State.setJob_rampUp (s : State) (n : Nat) (j : Job) : (s.setJob n j).rampUp = s.rampUp := rfl
@[simp] theorem State.setJob_rampDown (s : State) (n : Nat) (j : Job) : (s.setJob n j).rampDown = s.rampDown := rfl
@[simp] theorem State.setJob_fillers (s : State) (n : Nat) (j : Job) : (s.setJob n j).fillers = s.fillers := rfl
@[simp] theorem State.setJob_applied (s : State) (n : Nat) (j : Job) : (s.setJob n j).applied = s.applied := rfl
@[simp] theorem State.setJob_adoptBy (s : State) (n : Nat) (j : Job) : (s.setJob n j).adoptBy = s.adoptBy := rfl
@[simp] theorem State.setJob_host (s : State) (n : Nat) (j : Job) : (s.setJob n j).host = s.host := rfl
@[simp] theorem State.setJob_hbm (s : State) (n : Nat) (j : Job) : (s.setJob n j).hbm = s.hbm := rfl
@[simp] theorem State.setJob_dirty (s : State) (n : Nat) (j : Job) : (s.setJob n j).dirty = s.dirty := rfl
@[simp] theorem State.setJob_pins (s : State) (n : Nat) (j : Job) : (s.setJob n j).pins = s.pins := rfl
@[simp] theorem State.setJob_bad (s : State) (n : Nat) (j : Job) : (s.setJob n j).bad = s.bad := rfl
@[simp] theorem State.setJob_tlbs (s : State) (n : Nat) (j : Job) : (s.setJob n j).tlbs = s.tlbs := rfl
@[simp] theorem State.setJob_nmas (s : State) (n : Nat) (j : Job) : (s.setJob n j).nmas = s.nmas := rfl
@[simp] theorem State.setJob_net (s : State) (n : Nat) (j : Job) : (s.setJob n j).net = s.net := rfl
@[simp] theorem State.setJob_launches (s : State) (n : Nat) (j : Job) : (s.setJob n j).launches = s.launches := rfl
@[simp] theorem State.setJob_nextLaunch (s : State) (n : Nat) (j : Job) : (s.setJob n j).nextLaunch = s.nextLaunch := rfl
@[simp] theorem State.setJob_saved (s : State) (n : Nat) (j : Job) : (s.setJob n j).saved = s.saved := rfl
@[simp] theorem State.setJob_clusters (s : State) (n : Nat) (j : Job) : (s.setJob n j).clusters = s.clusters := rfl
@[simp] theorem State.setJob_cores (s : State) (n : Nat) (j : Job) : (s.setJob n j).cores = s.cores := rfl
@[simp] theorem State.setJob_pips (s : State) (n : Nat) (j : Job) : (s.setJob n j).pips = s.pips := rfl
@[simp] theorem State.setJob_cur (s : State) (n : Nat) (j : Job) : (s.setJob n j).cur = s.cur := rfl
@[simp] theorem State.setJob_agenda (s : State) (n : Nat) (j : Job) : (s.setJob n j).agenda = s.agenda := rfl
@[simp] theorem State.setJob_fresh (s : State) (n : Nat) (j : Job) : (s.setJob n j).fresh = s.fresh := rfl
@[simp] theorem State.setJob_reach (s : State) (n : Nat) (j : Job) : (s.setJob n j).reach = s.reach := rfl

@[simp] theorem State.report_cycle (s : State) (r : Report) : (s.report r).cycle = s.cycle := rfl
@[simp] theorem State.report_time (s : State) (r : Report) : (s.report r).time = s.time := rfl
@[simp] theorem State.report_skew (s : State) (r : Report) : (s.report r).skew = s.skew := rfl
@[simp] theorem State.report_age (s : State) (r : Report) : (s.report r).age = s.age := rfl
@[simp] theorem State.report_preemptWait (s : State) (r : Report) : (s.report r).preemptWait = s.preemptWait := rfl
@[simp] theorem State.report_rampUp (s : State) (r : Report) : (s.report r).rampUp = s.rampUp := rfl
@[simp] theorem State.report_rampDown (s : State) (r : Report) : (s.report r).rampDown = s.rampDown := rfl
@[simp] theorem State.report_fillers (s : State) (r : Report) : (s.report r).fillers = s.fillers := rfl
@[simp] theorem State.report_applied (s : State) (r : Report) : (s.report r).applied = s.applied := rfl
@[simp] theorem State.report_adoptBy (s : State) (r : Report) : (s.report r).adoptBy = s.adoptBy := rfl
@[simp] theorem State.report_jobs (s : State) (r : Report) : (s.report r).jobs = s.jobs := rfl
@[simp] theorem State.report_hbm (s : State) (r : Report) : (s.report r).hbm = s.hbm := rfl
@[simp] theorem State.report_dirty (s : State) (r : Report) : (s.report r).dirty = s.dirty := rfl
@[simp] theorem State.report_pins (s : State) (r : Report) : (s.report r).pins = s.pins := rfl
@[simp] theorem State.report_bad (s : State) (r : Report) : (s.report r).bad = s.bad := rfl
@[simp] theorem State.report_tlbs (s : State) (r : Report) : (s.report r).tlbs = s.tlbs := rfl
@[simp] theorem State.report_nmas (s : State) (r : Report) : (s.report r).nmas = s.nmas := rfl
@[simp] theorem State.report_net (s : State) (r : Report) : (s.report r).net = s.net := rfl
@[simp] theorem State.report_launches (s : State) (r : Report) : (s.report r).launches = s.launches := rfl
@[simp] theorem State.report_nextLaunch (s : State) (r : Report) : (s.report r).nextLaunch = s.nextLaunch := rfl
@[simp] theorem State.report_saved (s : State) (r : Report) : (s.report r).saved = s.saved := rfl
@[simp] theorem State.report_clusters (s : State) (r : Report) : (s.report r).clusters = s.clusters := rfl
@[simp] theorem State.report_cores (s : State) (r : Report) : (s.report r).cores = s.cores := rfl
@[simp] theorem State.report_pips (s : State) (r : Report) : (s.report r).pips = s.pips := rfl
@[simp] theorem State.report_cur (s : State) (r : Report) : (s.report r).cur = s.cur := rfl
@[simp] theorem State.report_agenda (s : State) (r : Report) : (s.report r).agenda = s.agenda := rfl
@[simp] theorem State.report_fresh (s : State) (r : Report) : (s.report r).fresh = s.fresh := rfl
@[simp] theorem State.report_reach (s : State) (r : Report) : (s.report r).reach = s.reach := rfl

@[simp] theorem State.setDirty_cycle (s : State) (n : Nat) : (s.setDirty n).cycle = s.cycle := rfl
@[simp] theorem State.setDirty_time (s : State) (n : Nat) : (s.setDirty n).time = s.time := rfl
@[simp] theorem State.setDirty_skew (s : State) (n : Nat) : (s.setDirty n).skew = s.skew := rfl
@[simp] theorem State.setDirty_age (s : State) (n : Nat) : (s.setDirty n).age = s.age := rfl
@[simp] theorem State.setDirty_preemptWait (s : State) (n : Nat) : (s.setDirty n).preemptWait = s.preemptWait := rfl
@[simp] theorem State.setDirty_rampUp (s : State) (n : Nat) : (s.setDirty n).rampUp = s.rampUp := rfl
@[simp] theorem State.setDirty_rampDown (s : State) (n : Nat) : (s.setDirty n).rampDown = s.rampDown := rfl
@[simp] theorem State.setDirty_fillers (s : State) (n : Nat) : (s.setDirty n).fillers = s.fillers := rfl
@[simp] theorem State.setDirty_applied (s : State) (n : Nat) : (s.setDirty n).applied = s.applied := rfl
@[simp] theorem State.setDirty_adoptBy (s : State) (n : Nat) : (s.setDirty n).adoptBy = s.adoptBy := rfl
@[simp] theorem State.setDirty_host (s : State) (n : Nat) : (s.setDirty n).host = s.host := rfl
@[simp] theorem State.setDirty_jobs (s : State) (n : Nat) : (s.setDirty n).jobs = s.jobs := rfl
@[simp] theorem State.setDirty_hbm (s : State) (n : Nat) : (s.setDirty n).hbm = s.hbm := rfl
@[simp] theorem State.setDirty_pins (s : State) (n : Nat) : (s.setDirty n).pins = s.pins := rfl
@[simp] theorem State.setDirty_bad (s : State) (n : Nat) : (s.setDirty n).bad = s.bad := rfl
@[simp] theorem State.setDirty_tlbs (s : State) (n : Nat) : (s.setDirty n).tlbs = s.tlbs := rfl
@[simp] theorem State.setDirty_nmas (s : State) (n : Nat) : (s.setDirty n).nmas = s.nmas := rfl
@[simp] theorem State.setDirty_net (s : State) (n : Nat) : (s.setDirty n).net = s.net := rfl
@[simp] theorem State.setDirty_launches (s : State) (n : Nat) : (s.setDirty n).launches = s.launches := rfl
@[simp] theorem State.setDirty_nextLaunch (s : State) (n : Nat) : (s.setDirty n).nextLaunch = s.nextLaunch := rfl
@[simp] theorem State.setDirty_saved (s : State) (n : Nat) : (s.setDirty n).saved = s.saved := rfl
@[simp] theorem State.setDirty_clusters (s : State) (n : Nat) : (s.setDirty n).clusters = s.clusters := rfl
@[simp] theorem State.setDirty_cores (s : State) (n : Nat) : (s.setDirty n).cores = s.cores := rfl
@[simp] theorem State.setDirty_pips (s : State) (n : Nat) : (s.setDirty n).pips = s.pips := rfl
@[simp] theorem State.setDirty_cur (s : State) (n : Nat) : (s.setDirty n).cur = s.cur := rfl
@[simp] theorem State.setDirty_agenda (s : State) (n : Nat) : (s.setDirty n).agenda = s.agenda := rfl
@[simp] theorem State.setDirty_fresh (s : State) (n : Nat) : (s.setDirty n).fresh = s.fresh := rfl
@[simp] theorem State.setDirty_reach (s : State) (n : Nat) : (s.setDirty n).reach = s.reach := rfl

@[simp] theorem State.setLink_cycle (s : State) (l : Nat) (x : Link) : (s.setLink l x).cycle = s.cycle := rfl
@[simp] theorem State.setLink_time (s : State) (l : Nat) (x : Link) : (s.setLink l x).time = s.time := rfl
@[simp] theorem State.setLink_skew (s : State) (l : Nat) (x : Link) : (s.setLink l x).skew = s.skew := rfl
@[simp] theorem State.setLink_age (s : State) (l : Nat) (x : Link) : (s.setLink l x).age = s.age := rfl
@[simp] theorem State.setLink_preemptWait (s : State) (l : Nat) (x : Link) : (s.setLink l x).preemptWait = s.preemptWait := rfl
@[simp] theorem State.setLink_rampUp (s : State) (l : Nat) (x : Link) : (s.setLink l x).rampUp = s.rampUp := rfl
@[simp] theorem State.setLink_rampDown (s : State) (l : Nat) (x : Link) : (s.setLink l x).rampDown = s.rampDown := rfl
@[simp] theorem State.setLink_fillers (s : State) (l : Nat) (x : Link) : (s.setLink l x).fillers = s.fillers := rfl
@[simp] theorem State.setLink_applied (s : State) (l : Nat) (x : Link) : (s.setLink l x).applied = s.applied := rfl
@[simp] theorem State.setLink_adoptBy (s : State) (l : Nat) (x : Link) : (s.setLink l x).adoptBy = s.adoptBy := rfl
@[simp] theorem State.setLink_host (s : State) (l : Nat) (x : Link) : (s.setLink l x).host = s.host := rfl
@[simp] theorem State.setLink_jobs (s : State) (l : Nat) (x : Link) : (s.setLink l x).jobs = s.jobs := rfl
@[simp] theorem State.setLink_hbm (s : State) (l : Nat) (x : Link) : (s.setLink l x).hbm = s.hbm := rfl
@[simp] theorem State.setLink_dirty (s : State) (l : Nat) (x : Link) : (s.setLink l x).dirty = s.dirty := rfl
@[simp] theorem State.setLink_pins (s : State) (l : Nat) (x : Link) : (s.setLink l x).pins = s.pins := rfl
@[simp] theorem State.setLink_bad (s : State) (l : Nat) (x : Link) : (s.setLink l x).bad = s.bad := rfl
@[simp] theorem State.setLink_tlbs (s : State) (l : Nat) (x : Link) : (s.setLink l x).tlbs = s.tlbs := rfl
@[simp] theorem State.setLink_nmas (s : State) (l : Nat) (x : Link) : (s.setLink l x).nmas = s.nmas := rfl
@[simp] theorem State.setLink_launches (s : State) (l : Nat) (x : Link) : (s.setLink l x).launches = s.launches := rfl
@[simp] theorem State.setLink_nextLaunch (s : State) (l : Nat) (x : Link) : (s.setLink l x).nextLaunch = s.nextLaunch := rfl
@[simp] theorem State.setLink_saved (s : State) (l : Nat) (x : Link) : (s.setLink l x).saved = s.saved := rfl
@[simp] theorem State.setLink_clusters (s : State) (l : Nat) (x : Link) : (s.setLink l x).clusters = s.clusters := rfl
@[simp] theorem State.setLink_cores (s : State) (l : Nat) (x : Link) : (s.setLink l x).cores = s.cores := rfl
@[simp] theorem State.setLink_pips (s : State) (l : Nat) (x : Link) : (s.setLink l x).pips = s.pips := rfl
@[simp] theorem State.setLink_cur (s : State) (l : Nat) (x : Link) : (s.setLink l x).cur = s.cur := rfl
@[simp] theorem State.setLink_agenda (s : State) (l : Nat) (x : Link) : (s.setLink l x).agenda = s.agenda := rfl
@[simp] theorem State.setLink_fresh (s : State) (l : Nat) (x : Link) : (s.setLink l x).fresh = s.fresh := rfl
@[simp] theorem State.setLink_reach (s : State) (l : Nat) (x : Link) : (s.setLink l x).reach = s.reach := rfl

@[simp] theorem State.addPacket_cycle (s : State) (q : Packet) : (s.addPacket q).cycle = s.cycle := rfl
@[simp] theorem State.addPacket_time (s : State) (q : Packet) : (s.addPacket q).time = s.time := rfl
@[simp] theorem State.addPacket_skew (s : State) (q : Packet) : (s.addPacket q).skew = s.skew := rfl
@[simp] theorem State.addPacket_age (s : State) (q : Packet) : (s.addPacket q).age = s.age := rfl
@[simp] theorem State.addPacket_preemptWait (s : State) (q : Packet) : (s.addPacket q).preemptWait = s.preemptWait := rfl
@[simp] theorem State.addPacket_rampUp (s : State) (q : Packet) : (s.addPacket q).rampUp = s.rampUp := rfl
@[simp] theorem State.addPacket_rampDown (s : State) (q : Packet) : (s.addPacket q).rampDown = s.rampDown := rfl
@[simp] theorem State.addPacket_fillers (s : State) (q : Packet) : (s.addPacket q).fillers = s.fillers := rfl
@[simp] theorem State.addPacket_applied (s : State) (q : Packet) : (s.addPacket q).applied = s.applied := rfl
@[simp] theorem State.addPacket_adoptBy (s : State) (q : Packet) : (s.addPacket q).adoptBy = s.adoptBy := rfl
@[simp] theorem State.addPacket_host (s : State) (q : Packet) : (s.addPacket q).host = s.host := rfl
@[simp] theorem State.addPacket_jobs (s : State) (q : Packet) : (s.addPacket q).jobs = s.jobs := rfl
@[simp] theorem State.addPacket_hbm (s : State) (q : Packet) : (s.addPacket q).hbm = s.hbm := rfl
@[simp] theorem State.addPacket_dirty (s : State) (q : Packet) : (s.addPacket q).dirty = s.dirty := rfl
@[simp] theorem State.addPacket_pins (s : State) (q : Packet) : (s.addPacket q).pins = s.pins := rfl
@[simp] theorem State.addPacket_bad (s : State) (q : Packet) : (s.addPacket q).bad = s.bad := rfl
@[simp] theorem State.addPacket_tlbs (s : State) (q : Packet) : (s.addPacket q).tlbs = s.tlbs := rfl
@[simp] theorem State.addPacket_nmas (s : State) (q : Packet) : (s.addPacket q).nmas = s.nmas := rfl
@[simp] theorem State.addPacket_launches (s : State) (q : Packet) : (s.addPacket q).launches = s.launches := rfl
@[simp] theorem State.addPacket_nextLaunch (s : State) (q : Packet) : (s.addPacket q).nextLaunch = s.nextLaunch := rfl
@[simp] theorem State.addPacket_saved (s : State) (q : Packet) : (s.addPacket q).saved = s.saved := rfl
@[simp] theorem State.addPacket_clusters (s : State) (q : Packet) : (s.addPacket q).clusters = s.clusters := rfl
@[simp] theorem State.addPacket_cores (s : State) (q : Packet) : (s.addPacket q).cores = s.cores := rfl
@[simp] theorem State.addPacket_pips (s : State) (q : Packet) : (s.addPacket q).pips = s.pips := rfl
@[simp] theorem State.addPacket_cur (s : State) (q : Packet) : (s.addPacket q).cur = s.cur := rfl
@[simp] theorem State.addPacket_agenda (s : State) (q : Packet) : (s.addPacket q).agenda = s.agenda := rfl
@[simp] theorem State.addPacket_fresh (s : State) (q : Packet) : (s.addPacket q).fresh = s.fresh := rfl
@[simp] theorem State.addPacket_reach (s : State) (q : Packet) : (s.addPacket q).reach = s.reach := rfl

@[simp] theorem State.dropPacket_cycle (s : State) (n : Nat) : (s.dropPacket n).cycle = s.cycle := rfl
@[simp] theorem State.dropPacket_time (s : State) (n : Nat) : (s.dropPacket n).time = s.time := rfl
@[simp] theorem State.dropPacket_skew (s : State) (n : Nat) : (s.dropPacket n).skew = s.skew := rfl
@[simp] theorem State.dropPacket_age (s : State) (n : Nat) : (s.dropPacket n).age = s.age := rfl
@[simp] theorem State.dropPacket_preemptWait (s : State) (n : Nat) : (s.dropPacket n).preemptWait = s.preemptWait := rfl
@[simp] theorem State.dropPacket_rampUp (s : State) (n : Nat) : (s.dropPacket n).rampUp = s.rampUp := rfl
@[simp] theorem State.dropPacket_rampDown (s : State) (n : Nat) : (s.dropPacket n).rampDown = s.rampDown := rfl
@[simp] theorem State.dropPacket_fillers (s : State) (n : Nat) : (s.dropPacket n).fillers = s.fillers := rfl
@[simp] theorem State.dropPacket_applied (s : State) (n : Nat) : (s.dropPacket n).applied = s.applied := rfl
@[simp] theorem State.dropPacket_adoptBy (s : State) (n : Nat) : (s.dropPacket n).adoptBy = s.adoptBy := rfl
@[simp] theorem State.dropPacket_host (s : State) (n : Nat) : (s.dropPacket n).host = s.host := rfl
@[simp] theorem State.dropPacket_jobs (s : State) (n : Nat) : (s.dropPacket n).jobs = s.jobs := rfl
@[simp] theorem State.dropPacket_hbm (s : State) (n : Nat) : (s.dropPacket n).hbm = s.hbm := rfl
@[simp] theorem State.dropPacket_dirty (s : State) (n : Nat) : (s.dropPacket n).dirty = s.dirty := rfl
@[simp] theorem State.dropPacket_pins (s : State) (n : Nat) : (s.dropPacket n).pins = s.pins := rfl
@[simp] theorem State.dropPacket_bad (s : State) (n : Nat) : (s.dropPacket n).bad = s.bad := rfl
@[simp] theorem State.dropPacket_tlbs (s : State) (n : Nat) : (s.dropPacket n).tlbs = s.tlbs := rfl
@[simp] theorem State.dropPacket_nmas (s : State) (n : Nat) : (s.dropPacket n).nmas = s.nmas := rfl
@[simp] theorem State.dropPacket_launches (s : State) (n : Nat) : (s.dropPacket n).launches = s.launches := rfl
@[simp] theorem State.dropPacket_nextLaunch (s : State) (n : Nat) : (s.dropPacket n).nextLaunch = s.nextLaunch := rfl
@[simp] theorem State.dropPacket_saved (s : State) (n : Nat) : (s.dropPacket n).saved = s.saved := rfl
@[simp] theorem State.dropPacket_clusters (s : State) (n : Nat) : (s.dropPacket n).clusters = s.clusters := rfl
@[simp] theorem State.dropPacket_cores (s : State) (n : Nat) : (s.dropPacket n).cores = s.cores := rfl
@[simp] theorem State.dropPacket_pips (s : State) (n : Nat) : (s.dropPacket n).pips = s.pips := rfl
@[simp] theorem State.dropPacket_cur (s : State) (n : Nat) : (s.dropPacket n).cur = s.cur := rfl
@[simp] theorem State.dropPacket_agenda (s : State) (n : Nat) : (s.dropPacket n).agenda = s.agenda := rfl
@[simp] theorem State.dropPacket_fresh (s : State) (n : Nat) : (s.dropPacket n).fresh = s.fresh := rfl
@[simp] theorem State.dropPacket_reach (s : State) (n : Nat) : (s.dropPacket n).reach = s.reach := rfl

/-! ### Reads after updates -/

@[simp] theorem State.cluster_setPip (s : State) (k : Nat) (p : Pip) (n : Nat) : (s.setPip k p).cluster n = s.cluster n := rfl
@[simp] theorem State.core_setPip (s : State) (k : Nat) (p : Pip) (n : Nat) : (s.setPip k p).core n = s.core n := rfl
@[simp] theorem State.launch_setPip (s : State) (k : Nat) (p : Pip) (n : BitVec 32) : (s.setPip k p).launch n = s.launch n := rfl
@[simp] theorem State.jobOf_setPip (s : State) (k : Nat) (p : Pip) (n : Nat) : (s.setPip k p).jobOf n = s.jobOf n := rfl
@[simp] theorem State.link_setPip (s : State) (k : Nat) (p : Pip) (n : Nat) : (s.setPip k p).link n = s.link n := rfl
@[simp] theorem State.cluster_put (s : State) (p : Pip) (n : Nat) : (s.put p).cluster n = s.cluster n := rfl
@[simp] theorem State.core_put (s : State) (p : Pip) (n : Nat) : (s.put p).core n = s.core n := rfl
@[simp] theorem State.launch_put (s : State) (p : Pip) (n : BitVec 32) : (s.put p).launch n = s.launch n := rfl
@[simp] theorem State.jobOf_put (s : State) (p : Pip) (n : Nat) : (s.put p).jobOf n = s.jobOf n := rfl
@[simp] theorem State.link_put (s : State) (p : Pip) (n : Nat) : (s.put p).link n = s.link n := rfl
@[simp] theorem State.pip_setCluster (s : State) (cl : Nat) (c : Cluster) (n : Nat) : (s.setCluster cl c).pip n = s.pip n := rfl
@[simp] theorem State.core_setCluster (s : State) (cl : Nat) (c : Cluster) (n : Nat) : (s.setCluster cl c).core n = s.core n := rfl
@[simp] theorem State.launch_setCluster (s : State) (cl : Nat) (c : Cluster) (n : BitVec 32) : (s.setCluster cl c).launch n = s.launch n := rfl
@[simp] theorem State.jobOf_setCluster (s : State) (cl : Nat) (c : Cluster) (n : Nat) : (s.setCluster cl c).jobOf n = s.jobOf n := rfl
@[simp] theorem State.link_setCluster (s : State) (cl : Nat) (c : Cluster) (n : Nat) : (s.setCluster cl c).link n = s.link n := rfl
@[simp] theorem State.pip_setCore (s : State) (k : Nat) (c : Core) (n : Nat) : (s.setCore k c).pip n = s.pip n := rfl
@[simp] theorem State.cluster_setCore (s : State) (k : Nat) (c : Core) (n : Nat) : (s.setCore k c).cluster n = s.cluster n := rfl
@[simp] theorem State.launch_setCore (s : State) (k : Nat) (c : Core) (n : BitVec 32) : (s.setCore k c).launch n = s.launch n := rfl
@[simp] theorem State.jobOf_setCore (s : State) (k : Nat) (c : Core) (n : Nat) : (s.setCore k c).jobOf n = s.jobOf n := rfl
@[simp] theorem State.link_setCore (s : State) (k : Nat) (c : Core) (n : Nat) : (s.setCore k c).link n = s.link n := rfl
@[simp] theorem State.pip_setLaunch (s : State) (l : Launch) (n : Nat) : (s.setLaunch l).pip n = s.pip n := rfl
@[simp] theorem State.cluster_setLaunch (s : State) (l : Launch) (n : Nat) : (s.setLaunch l).cluster n = s.cluster n := rfl
@[simp] theorem State.core_setLaunch (s : State) (l : Launch) (n : Nat) : (s.setLaunch l).core n = s.core n := rfl
@[simp] theorem State.jobOf_setLaunch (s : State) (l : Launch) (n : Nat) : (s.setLaunch l).jobOf n = s.jobOf n := rfl
@[simp] theorem State.link_setLaunch (s : State) (l : Launch) (n : Nat) : (s.setLaunch l).link n = s.link n := rfl
@[simp] theorem State.pip_setJob (s : State) (m : Nat) (j : Job) (n : Nat) : (s.setJob m j).pip n = s.pip n := rfl
@[simp] theorem State.cluster_setJob (s : State) (m : Nat) (j : Job) (n : Nat) : (s.setJob m j).cluster n = s.cluster n := rfl
@[simp] theorem State.core_setJob (s : State) (m : Nat) (j : Job) (n : Nat) : (s.setJob m j).core n = s.core n := rfl
@[simp] theorem State.launch_setJob (s : State) (m : Nat) (j : Job) (n : BitVec 32) : (s.setJob m j).launch n = s.launch n := rfl
@[simp] theorem State.link_setJob (s : State) (m : Nat) (j : Job) (n : Nat) : (s.setJob m j).link n = s.link n := rfl
@[simp] theorem State.pip_report (s : State) (r : Report) (n : Nat) : (s.report r).pip n = s.pip n := rfl
@[simp] theorem State.cluster_report (s : State) (r : Report) (n : Nat) : (s.report r).cluster n = s.cluster n := rfl
@[simp] theorem State.core_report (s : State) (r : Report) (n : Nat) : (s.report r).core n = s.core n := rfl
@[simp] theorem State.launch_report (s : State) (r : Report) (n : BitVec 32) : (s.report r).launch n = s.launch n := rfl
@[simp] theorem State.jobOf_report (s : State) (r : Report) (n : Nat) : (s.report r).jobOf n = s.jobOf n := rfl
@[simp] theorem State.link_report (s : State) (r : Report) (n : Nat) : (s.report r).link n = s.link n := rfl
@[simp] theorem State.pip_setDirty (s : State) (m : Nat) (n : Nat) : (s.setDirty m).pip n = s.pip n := rfl
@[simp] theorem State.cluster_setDirty (s : State) (m : Nat) (n : Nat) : (s.setDirty m).cluster n = s.cluster n := rfl
@[simp] theorem State.core_setDirty (s : State) (m : Nat) (n : Nat) : (s.setDirty m).core n = s.core n := rfl
@[simp] theorem State.launch_setDirty (s : State) (m : Nat) (n : BitVec 32) : (s.setDirty m).launch n = s.launch n := rfl
@[simp] theorem State.jobOf_setDirty (s : State) (m : Nat) (n : Nat) : (s.setDirty m).jobOf n = s.jobOf n := rfl
@[simp] theorem State.link_setDirty (s : State) (m : Nat) (n : Nat) : (s.setDirty m).link n = s.link n := rfl
@[simp] theorem State.pip_setLink (s : State) (l : Nat) (x : Link) (n : Nat) : (s.setLink l x).pip n = s.pip n := rfl
@[simp] theorem State.cluster_setLink (s : State) (l : Nat) (x : Link) (n : Nat) : (s.setLink l x).cluster n = s.cluster n := rfl
@[simp] theorem State.core_setLink (s : State) (l : Nat) (x : Link) (n : Nat) : (s.setLink l x).core n = s.core n := rfl
@[simp] theorem State.launch_setLink (s : State) (l : Nat) (x : Link) (n : BitVec 32) : (s.setLink l x).launch n = s.launch n := rfl
@[simp] theorem State.jobOf_setLink (s : State) (l : Nat) (x : Link) (n : Nat) : (s.setLink l x).jobOf n = s.jobOf n := rfl
@[simp] theorem State.pip_addPacket (s : State) (q : Packet) (n : Nat) : (s.addPacket q).pip n = s.pip n := rfl
@[simp] theorem State.cluster_addPacket (s : State) (q : Packet) (n : Nat) : (s.addPacket q).cluster n = s.cluster n := rfl
@[simp] theorem State.core_addPacket (s : State) (q : Packet) (n : Nat) : (s.addPacket q).core n = s.core n := rfl
@[simp] theorem State.launch_addPacket (s : State) (q : Packet) (n : BitVec 32) : (s.addPacket q).launch n = s.launch n := rfl
@[simp] theorem State.jobOf_addPacket (s : State) (q : Packet) (n : Nat) : (s.addPacket q).jobOf n = s.jobOf n := rfl
@[simp] theorem State.pip_dropPacket (s : State) (m : Nat) (n : Nat) : (s.dropPacket m).pip n = s.pip n := rfl
@[simp] theorem State.cluster_dropPacket (s : State) (m : Nat) (n : Nat) : (s.dropPacket m).cluster n = s.cluster n := rfl
@[simp] theorem State.core_dropPacket (s : State) (m : Nat) (n : Nat) : (s.dropPacket m).core n = s.core n := rfl
@[simp] theorem State.launch_dropPacket (s : State) (m : Nat) (n : BitVec 32) : (s.dropPacket m).launch n = s.launch n := rfl
@[simp] theorem State.jobOf_dropPacket (s : State) (m : Nat) (n : Nat) : (s.dropPacket m).jobOf n = s.jobOf n := rfl

@[simp] theorem State.pip_setPip (s : State) (k : Nat) (p : Pip) : (s.setPip k p).pip k = some p := mget_mset s.pips k p
theorem State.pip_setPip_ne (s : State) {k n : Nat} (p : Pip) (h : n ≠ k) : (s.setPip k p).pip n = s.pip n := mget_mset_ne s.pips p h
@[simp] theorem State.pip_put (s : State) (p : Pip) : (s.put p).pip s.cur = some p := mget_mset s.pips s.cur p
theorem State.pip_put_ne (s : State) {n : Nat} (p : Pip) (h : n ≠ s.cur) : (s.put p).pip n = s.pip n := mget_mset_ne s.pips p h
@[simp] theorem State.cluster_setCluster (s : State) (cl : Nat) (c : Cluster) : (s.setCluster cl c).cluster cl = c :=
  mgetD_mset s.clusters cl c {}
theorem State.cluster_setCluster_ne (s : State) {cl n : Nat} (c : Cluster) (h : n ≠ cl) :
    (s.setCluster cl c).cluster n = s.cluster n := mgetD_mset_ne s.clusters c {} h
@[simp] theorem State.core_setCore (s : State) (k : Nat) (c : Core) : (s.setCore k c).core k = c := mgetD_mset s.cores k c {}
theorem State.core_setCore_ne (s : State) {k n : Nat} (c : Core) (h : n ≠ k) : (s.setCore k c).core n = s.core n :=
  mgetD_mset_ne s.cores c {} h
@[simp] theorem State.launch_setLaunch (s : State) (l : Launch) : (s.setLaunch l).launch l.id = some l :=
  mget_mset s.launches l.id.toNat l
@[simp] theorem State.jobOf_setJob (s : State) (n : Nat) (j : Job) : (s.setJob n j).jobOf n = j := mgetD_mset s.jobs n j {}
theorem State.jobOf_setJob_ne (s : State) {n k : Nat} (j : Job) (h : k ≠ n) : (s.setJob n j).jobOf k = s.jobOf k :=
  mgetD_mset_ne s.jobs j {} h
@[simp] theorem State.link_setLink (s : State) (l : Nat) (x : Link) : (s.setLink l x).link l = x := mgetD_mset s.net.links l x {}
theorem State.link_setLink_ne (s : State) {l n : Nat} (x : Link) (h : n ≠ l) : (s.setLink l x).link n = s.link n :=
  mgetD_mset_ne s.net.links x {} h
@[simp] theorem State.report_reports (s : State) (r : Report) : (s.report r).host.reports = s.host.reports ++ [r] := rfl

/-! ### Updates of a pip -/

@[simp] theorem Pip.setG_launch (p : Pip) (r : Reg) (x : Word) : (p.setG r x).launch = p.launch := by unfold Pip.setG; split <;> rfl
@[simp] theorem Pip.setG_cond (p : Pip) (r : Reg) (x : Word) : (p.setG r x).cond = p.cond := by unfold Pip.setG; split <;> rfl
@[simp] theorem Pip.setG_heldDebug (p : Pip) (r : Reg) (x : Word) : (p.setG r x).heldDebug = p.heldDebug := by unfold Pip.setG; split <;> rfl
@[simp] theorem Pip.setG_heldPreempt (p : Pip) (r : Reg) (x : Word) : (p.setG r x).heldPreempt = p.heldPreempt := by unfold Pip.setG; split <;> rfl
@[simp] theorem Pip.setG_heldFault (p : Pip) (r : Reg) (x : Word) : (p.setG r x).heldFault = p.heldFault := by unfold Pip.setG; split <;> rfl
@[simp] theorem Pip.setG_pc (p : Pip) (r : Reg) (x : Word) : (p.setG r x).pc = p.pc := by unfold Pip.setG; split <;> rfl
@[simp] theorem Pip.setG_v (p : Pip) (r : Reg) (x : Word) : (p.setG r x).v = p.v := by unfold Pip.setG; split <;> rfl
@[simp] theorem Pip.setG_vFull (p : Pip) (r : Reg) (x : Word) : (p.setG r x).vFull = p.vFull := by unfold Pip.setG; split <;> rfl
@[simp] theorem Pip.setG_b (p : Pip) (r : Reg) (x : Word) : (p.setG r x).b = p.b := by unfold Pip.setG; split <;> rfl
@[simp] theorem Pip.setG_status (p : Pip) (r : Reg) (x : Word) : (p.setG r x).status = p.status := by unfold Pip.setG; split <;> rfl
@[simp] theorem Pip.setG_pipid (p : Pip) (r : Reg) (x : Word) : (p.setG r x).pipid = p.pipid := by unfold Pip.setG; split <;> rfl
@[simp] theorem Pip.setG_coord (p : Pip) (r : Reg) (x : Word) : (p.setG r x).coord = p.coord := by unfold Pip.setG; split <;> rfl
@[simp] theorem Pip.setG_extent (p : Pip) (r : Reg) (x : Word) : (p.setG r x).extent = p.extent := by unfold Pip.setG; split <;> rfl
@[simp] theorem Pip.setG_tcmp (p : Pip) (r : Reg) (x : Word) : (p.setG r x).tcmp = p.tcmp := by unfold Pip.setG; split <;> rfl
@[simp] theorem Pip.setG_tvec (p : Pip) (r : Reg) (x : Word) : (p.setG r x).tvec = p.tvec := by unfold Pip.setG; split <;> rfl
@[simp] theorem Pip.setG_tcause (p : Pip) (r : Reg) (x : Word) : (p.setG r x).tcause = p.tcause := by unfold Pip.setG; split <;> rfl
@[simp] theorem Pip.setG_tval (p : Pip) (r : Reg) (x : Word) : (p.setG r x).tval = p.tval := by unfold Pip.setG; split <;> rfl
@[simp] theorem Pip.setG_tpc (p : Pip) (r : Reg) (x : Word) : (p.setG r x).tpc = p.tpc := by unfold Pip.setG; split <;> rfl
@[simp] theorem Pip.setG_ipend (p : Pip) (r : Reg) (x : Word) : (p.setG r x).ipend = p.ipend := by unfold Pip.setG; split <;> rfl
@[simp] theorem Pip.setG_msg (p : Pip) (r : Reg) (x : Word) : (p.setG r x).msg = p.msg := by unfold Pip.setG; split <;> rfl
@[simp] theorem Pip.setG_hsave (p : Pip) (r : Reg) (x : Word) : (p.setG r x).hsave = p.hsave := by unfold Pip.setG; split <;> rfl
@[simp] theorem Pip.setG_asid (p : Pip) (r : Reg) (x : Word) : (p.setG r x).asid = p.asid := by unfold Pip.setG; split <;> rfl
@[simp] theorem Pip.setG_fpmode (p : Pip) (r : Reg) (x : Word) : (p.setG r x).fpmode = p.fpmode := by unfold Pip.setG; split <;> rfl
@[simp] theorem Pip.setG_refused (p : Pip) (r : Reg) (x : Word) : (p.setG r x).refused = p.refused := by unfold Pip.setG; split <;> rfl
@[simp] theorem Pip.setG_engerr (p : Pip) (r : Reg) (x : Word) : (p.setG r x).engerr = p.engerr := by unfold Pip.setG; split <;> rfl
@[simp] theorem Pip.setG_refusedVal (p : Pip) (r : Reg) (x : Word) : (p.setG r x).refusedVal = p.refusedVal := by unfold Pip.setG; split <;> rfl
@[simp] theorem Pip.setG_engerrVal (p : Pip) (r : Reg) (x : Word) : (p.setG r x).engerrVal = p.engerrVal := by unfold Pip.setG; split <;> rfl
@[simp] theorem Pip.setG_rejectVal (p : Pip) (r : Reg) (x : Word) : (p.setG r x).rejectVal = p.rejectVal := by unfold Pip.setG; split <;> rfl
@[simp] theorem Pip.setG_ops (p : Pip) (r : Reg) (x : Word) : (p.setG r x).ops = p.ops := by unfold Pip.setG; split <;> rfl
@[simp] theorem Pip.setG_nextOp (p : Pip) (r : Reg) (x : Word) : (p.setG r x).nextOp = p.nextOp := by unfold Pip.setG; split <;> rfl
@[simp] theorem Pip.setG_deferredTrap (p : Pip) (r : Reg) (x : Word) : (p.setG r x).deferredTrap = p.deferredTrap := by unfold Pip.setG; split <;> rfl
@[simp] theorem Pip.setG_messages (p : Pip) (r : Reg) (x : Word) : (p.setG r x).messages = p.messages := by unfold Pip.setG; split <;> rfl
@[simp] theorem Pip.setG_lastIssue (p : Pip) (r : Reg) (x : Word) : (p.setG r x).lastIssue = p.lastIssue := by unfold Pip.setG; split <;> rfl
@[simp] theorem Pip.setG_stepping (p : Pip) (r : Reg) (x : Word) : (p.setG r x).stepping = p.stepping := by unfold Pip.setG; split <;> rfl
@[simp] theorem Pip.setG_joined (p : Pip) (r : Reg) (x : Word) : (p.setG r x).joined = p.joined := by unfold Pip.setG; split <;> rfl
@[simp] theorem Pip.setG_stay (p : Pip) (r : Reg) (x : Word) : (p.setG r x).stay = p.stay := by unfold Pip.setG; split <;> rfl
@[simp] theorem Pip.setG_eret (p : Pip) (r : Reg) (x : Word) : (p.setG r x).eret = p.eret := by unfold Pip.setG; split <;> rfl
@[simp] theorem Pip.setG_news (p : Pip) (r : Reg) (x : Word) : (p.setG r x).news = p.news := by unfold Pip.setG; split <;> rfl

@[simp] theorem Pip.setV_launch (p : Pip) (r : Reg4) (x : VWord) : (p.setV r x).launch = p.launch := rfl
@[simp] theorem Pip.setV_cond (p : Pip) (r : Reg4) (x : VWord) : (p.setV r x).cond = p.cond := rfl
@[simp] theorem Pip.setV_heldDebug (p : Pip) (r : Reg4) (x : VWord) : (p.setV r x).heldDebug = p.heldDebug := rfl
@[simp] theorem Pip.setV_heldPreempt (p : Pip) (r : Reg4) (x : VWord) : (p.setV r x).heldPreempt = p.heldPreempt := rfl
@[simp] theorem Pip.setV_heldFault (p : Pip) (r : Reg4) (x : VWord) : (p.setV r x).heldFault = p.heldFault := rfl
@[simp] theorem Pip.setV_pc (p : Pip) (r : Reg4) (x : VWord) : (p.setV r x).pc = p.pc := rfl
@[simp] theorem Pip.setV_g (p : Pip) (r : Reg4) (x : VWord) : (p.setV r x).g = p.g := rfl
@[simp] theorem Pip.setV_gFull (p : Pip) (r : Reg4) (x : VWord) : (p.setV r x).gFull = p.gFull := rfl
@[simp] theorem Pip.setV_b (p : Pip) (r : Reg4) (x : VWord) : (p.setV r x).b = p.b := rfl
@[simp] theorem Pip.setV_status (p : Pip) (r : Reg4) (x : VWord) : (p.setV r x).status = p.status := rfl
@[simp] theorem Pip.setV_pipid (p : Pip) (r : Reg4) (x : VWord) : (p.setV r x).pipid = p.pipid := rfl
@[simp] theorem Pip.setV_coord (p : Pip) (r : Reg4) (x : VWord) : (p.setV r x).coord = p.coord := rfl
@[simp] theorem Pip.setV_extent (p : Pip) (r : Reg4) (x : VWord) : (p.setV r x).extent = p.extent := rfl
@[simp] theorem Pip.setV_tcmp (p : Pip) (r : Reg4) (x : VWord) : (p.setV r x).tcmp = p.tcmp := rfl
@[simp] theorem Pip.setV_tvec (p : Pip) (r : Reg4) (x : VWord) : (p.setV r x).tvec = p.tvec := rfl
@[simp] theorem Pip.setV_tcause (p : Pip) (r : Reg4) (x : VWord) : (p.setV r x).tcause = p.tcause := rfl
@[simp] theorem Pip.setV_tval (p : Pip) (r : Reg4) (x : VWord) : (p.setV r x).tval = p.tval := rfl
@[simp] theorem Pip.setV_tpc (p : Pip) (r : Reg4) (x : VWord) : (p.setV r x).tpc = p.tpc := rfl
@[simp] theorem Pip.setV_ipend (p : Pip) (r : Reg4) (x : VWord) : (p.setV r x).ipend = p.ipend := rfl
@[simp] theorem Pip.setV_msg (p : Pip) (r : Reg4) (x : VWord) : (p.setV r x).msg = p.msg := rfl
@[simp] theorem Pip.setV_hsave (p : Pip) (r : Reg4) (x : VWord) : (p.setV r x).hsave = p.hsave := rfl
@[simp] theorem Pip.setV_asid (p : Pip) (r : Reg4) (x : VWord) : (p.setV r x).asid = p.asid := rfl
@[simp] theorem Pip.setV_fpmode (p : Pip) (r : Reg4) (x : VWord) : (p.setV r x).fpmode = p.fpmode := rfl
@[simp] theorem Pip.setV_refused (p : Pip) (r : Reg4) (x : VWord) : (p.setV r x).refused = p.refused := rfl
@[simp] theorem Pip.setV_engerr (p : Pip) (r : Reg4) (x : VWord) : (p.setV r x).engerr = p.engerr := rfl
@[simp] theorem Pip.setV_refusedVal (p : Pip) (r : Reg4) (x : VWord) : (p.setV r x).refusedVal = p.refusedVal := rfl
@[simp] theorem Pip.setV_engerrVal (p : Pip) (r : Reg4) (x : VWord) : (p.setV r x).engerrVal = p.engerrVal := rfl
@[simp] theorem Pip.setV_rejectVal (p : Pip) (r : Reg4) (x : VWord) : (p.setV r x).rejectVal = p.rejectVal := rfl
@[simp] theorem Pip.setV_ops (p : Pip) (r : Reg4) (x : VWord) : (p.setV r x).ops = p.ops := rfl
@[simp] theorem Pip.setV_nextOp (p : Pip) (r : Reg4) (x : VWord) : (p.setV r x).nextOp = p.nextOp := rfl
@[simp] theorem Pip.setV_deferredTrap (p : Pip) (r : Reg4) (x : VWord) : (p.setV r x).deferredTrap = p.deferredTrap := rfl
@[simp] theorem Pip.setV_messages (p : Pip) (r : Reg4) (x : VWord) : (p.setV r x).messages = p.messages := rfl
@[simp] theorem Pip.setV_lastIssue (p : Pip) (r : Reg4) (x : VWord) : (p.setV r x).lastIssue = p.lastIssue := rfl
@[simp] theorem Pip.setV_stepping (p : Pip) (r : Reg4) (x : VWord) : (p.setV r x).stepping = p.stepping := rfl
@[simp] theorem Pip.setV_joined (p : Pip) (r : Reg4) (x : VWord) : (p.setV r x).joined = p.joined := rfl
@[simp] theorem Pip.setV_stay (p : Pip) (r : Reg4) (x : VWord) : (p.setV r x).stay = p.stay := rfl
@[simp] theorem Pip.setV_delivered (p : Pip) (r : Reg4) (x : VWord) : (p.setV r x).delivered = p.delivered := rfl
@[simp] theorem Pip.setV_eret (p : Pip) (r : Reg4) (x : VWord) : (p.setV r x).eret = p.eret := rfl
@[simp] theorem Pip.setV_news (p : Pip) (r : Reg4) (x : VWord) : (p.setV r x).news = p.news := rfl

@[simp] theorem Pip.clearG_launch (p : Pip) (r : Reg) : (p.clearG r).launch = p.launch := by unfold Pip.clearG; split <;> rfl
@[simp] theorem Pip.clearG_cond (p : Pip) (r : Reg) : (p.clearG r).cond = p.cond := by unfold Pip.clearG; split <;> rfl
@[simp] theorem Pip.clearG_heldDebug (p : Pip) (r : Reg) : (p.clearG r).heldDebug = p.heldDebug := by unfold Pip.clearG; split <;> rfl
@[simp] theorem Pip.clearG_heldPreempt (p : Pip) (r : Reg) : (p.clearG r).heldPreempt = p.heldPreempt := by unfold Pip.clearG; split <;> rfl
@[simp] theorem Pip.clearG_heldFault (p : Pip) (r : Reg) : (p.clearG r).heldFault = p.heldFault := by unfold Pip.clearG; split <;> rfl
@[simp] theorem Pip.clearG_pc (p : Pip) (r : Reg) : (p.clearG r).pc = p.pc := by unfold Pip.clearG; split <;> rfl
@[simp] theorem Pip.clearG_g (p : Pip) (r : Reg) : (p.clearG r).g = p.g := by unfold Pip.clearG; split <;> rfl
@[simp] theorem Pip.clearG_v (p : Pip) (r : Reg) : (p.clearG r).v = p.v := by unfold Pip.clearG; split <;> rfl
@[simp] theorem Pip.clearG_vFull (p : Pip) (r : Reg) : (p.clearG r).vFull = p.vFull := by unfold Pip.clearG; split <;> rfl
@[simp] theorem Pip.clearG_b (p : Pip) (r : Reg) : (p.clearG r).b = p.b := by unfold Pip.clearG; split <;> rfl
@[simp] theorem Pip.clearG_status (p : Pip) (r : Reg) : (p.clearG r).status = p.status := by unfold Pip.clearG; split <;> rfl
@[simp] theorem Pip.clearG_pipid (p : Pip) (r : Reg) : (p.clearG r).pipid = p.pipid := by unfold Pip.clearG; split <;> rfl
@[simp] theorem Pip.clearG_coord (p : Pip) (r : Reg) : (p.clearG r).coord = p.coord := by unfold Pip.clearG; split <;> rfl
@[simp] theorem Pip.clearG_extent (p : Pip) (r : Reg) : (p.clearG r).extent = p.extent := by unfold Pip.clearG; split <;> rfl
@[simp] theorem Pip.clearG_tcmp (p : Pip) (r : Reg) : (p.clearG r).tcmp = p.tcmp := by unfold Pip.clearG; split <;> rfl
@[simp] theorem Pip.clearG_tvec (p : Pip) (r : Reg) : (p.clearG r).tvec = p.tvec := by unfold Pip.clearG; split <;> rfl
@[simp] theorem Pip.clearG_tcause (p : Pip) (r : Reg) : (p.clearG r).tcause = p.tcause := by unfold Pip.clearG; split <;> rfl
@[simp] theorem Pip.clearG_tval (p : Pip) (r : Reg) : (p.clearG r).tval = p.tval := by unfold Pip.clearG; split <;> rfl
@[simp] theorem Pip.clearG_tpc (p : Pip) (r : Reg) : (p.clearG r).tpc = p.tpc := by unfold Pip.clearG; split <;> rfl
@[simp] theorem Pip.clearG_ipend (p : Pip) (r : Reg) : (p.clearG r).ipend = p.ipend := by unfold Pip.clearG; split <;> rfl
@[simp] theorem Pip.clearG_msg (p : Pip) (r : Reg) : (p.clearG r).msg = p.msg := by unfold Pip.clearG; split <;> rfl
@[simp] theorem Pip.clearG_hsave (p : Pip) (r : Reg) : (p.clearG r).hsave = p.hsave := by unfold Pip.clearG; split <;> rfl
@[simp] theorem Pip.clearG_asid (p : Pip) (r : Reg) : (p.clearG r).asid = p.asid := by unfold Pip.clearG; split <;> rfl
@[simp] theorem Pip.clearG_fpmode (p : Pip) (r : Reg) : (p.clearG r).fpmode = p.fpmode := by unfold Pip.clearG; split <;> rfl
@[simp] theorem Pip.clearG_refused (p : Pip) (r : Reg) : (p.clearG r).refused = p.refused := by unfold Pip.clearG; split <;> rfl
@[simp] theorem Pip.clearG_engerr (p : Pip) (r : Reg) : (p.clearG r).engerr = p.engerr := by unfold Pip.clearG; split <;> rfl
@[simp] theorem Pip.clearG_refusedVal (p : Pip) (r : Reg) : (p.clearG r).refusedVal = p.refusedVal := by unfold Pip.clearG; split <;> rfl
@[simp] theorem Pip.clearG_engerrVal (p : Pip) (r : Reg) : (p.clearG r).engerrVal = p.engerrVal := by unfold Pip.clearG; split <;> rfl
@[simp] theorem Pip.clearG_rejectVal (p : Pip) (r : Reg) : (p.clearG r).rejectVal = p.rejectVal := by unfold Pip.clearG; split <;> rfl
@[simp] theorem Pip.clearG_ops (p : Pip) (r : Reg) : (p.clearG r).ops = p.ops := by unfold Pip.clearG; split <;> rfl
@[simp] theorem Pip.clearG_nextOp (p : Pip) (r : Reg) : (p.clearG r).nextOp = p.nextOp := by unfold Pip.clearG; split <;> rfl
@[simp] theorem Pip.clearG_deferredTrap (p : Pip) (r : Reg) : (p.clearG r).deferredTrap = p.deferredTrap := by unfold Pip.clearG; split <;> rfl
@[simp] theorem Pip.clearG_messages (p : Pip) (r : Reg) : (p.clearG r).messages = p.messages := by unfold Pip.clearG; split <;> rfl
@[simp] theorem Pip.clearG_lastIssue (p : Pip) (r : Reg) : (p.clearG r).lastIssue = p.lastIssue := by unfold Pip.clearG; split <;> rfl
@[simp] theorem Pip.clearG_stepping (p : Pip) (r : Reg) : (p.clearG r).stepping = p.stepping := by unfold Pip.clearG; split <;> rfl
@[simp] theorem Pip.clearG_joined (p : Pip) (r : Reg) : (p.clearG r).joined = p.joined := by unfold Pip.clearG; split <;> rfl
@[simp] theorem Pip.clearG_stay (p : Pip) (r : Reg) : (p.clearG r).stay = p.stay := by unfold Pip.clearG; split <;> rfl
@[simp] theorem Pip.clearG_delivered (p : Pip) (r : Reg) : (p.clearG r).delivered = p.delivered := by unfold Pip.clearG; split <;> rfl
@[simp] theorem Pip.clearG_eret (p : Pip) (r : Reg) : (p.clearG r).eret = p.eret := by unfold Pip.clearG; split <;> rfl
@[simp] theorem Pip.clearG_news (p : Pip) (r : Reg) : (p.clearG r).news = p.news := by unfold Pip.clearG; split <;> rfl

@[simp] theorem Pip.clearV_launch (p : Pip) (r : Reg4) : (p.clearV r).launch = p.launch := rfl
@[simp] theorem Pip.clearV_cond (p : Pip) (r : Reg4) : (p.clearV r).cond = p.cond := rfl
@[simp] theorem Pip.clearV_heldDebug (p : Pip) (r : Reg4) : (p.clearV r).heldDebug = p.heldDebug := rfl
@[simp] theorem Pip.clearV_heldPreempt (p : Pip) (r : Reg4) : (p.clearV r).heldPreempt = p.heldPreempt := rfl
@[simp] theorem Pip.clearV_heldFault (p : Pip) (r : Reg4) : (p.clearV r).heldFault = p.heldFault := rfl
@[simp] theorem Pip.clearV_pc (p : Pip) (r : Reg4) : (p.clearV r).pc = p.pc := rfl
@[simp] theorem Pip.clearV_g (p : Pip) (r : Reg4) : (p.clearV r).g = p.g := rfl
@[simp] theorem Pip.clearV_gFull (p : Pip) (r : Reg4) : (p.clearV r).gFull = p.gFull := rfl
@[simp] theorem Pip.clearV_v (p : Pip) (r : Reg4) : (p.clearV r).v = p.v := rfl
@[simp] theorem Pip.clearV_b (p : Pip) (r : Reg4) : (p.clearV r).b = p.b := rfl
@[simp] theorem Pip.clearV_status (p : Pip) (r : Reg4) : (p.clearV r).status = p.status := rfl
@[simp] theorem Pip.clearV_pipid (p : Pip) (r : Reg4) : (p.clearV r).pipid = p.pipid := rfl
@[simp] theorem Pip.clearV_coord (p : Pip) (r : Reg4) : (p.clearV r).coord = p.coord := rfl
@[simp] theorem Pip.clearV_extent (p : Pip) (r : Reg4) : (p.clearV r).extent = p.extent := rfl
@[simp] theorem Pip.clearV_tcmp (p : Pip) (r : Reg4) : (p.clearV r).tcmp = p.tcmp := rfl
@[simp] theorem Pip.clearV_tvec (p : Pip) (r : Reg4) : (p.clearV r).tvec = p.tvec := rfl
@[simp] theorem Pip.clearV_tcause (p : Pip) (r : Reg4) : (p.clearV r).tcause = p.tcause := rfl
@[simp] theorem Pip.clearV_tval (p : Pip) (r : Reg4) : (p.clearV r).tval = p.tval := rfl
@[simp] theorem Pip.clearV_tpc (p : Pip) (r : Reg4) : (p.clearV r).tpc = p.tpc := rfl
@[simp] theorem Pip.clearV_ipend (p : Pip) (r : Reg4) : (p.clearV r).ipend = p.ipend := rfl
@[simp] theorem Pip.clearV_msg (p : Pip) (r : Reg4) : (p.clearV r).msg = p.msg := rfl
@[simp] theorem Pip.clearV_hsave (p : Pip) (r : Reg4) : (p.clearV r).hsave = p.hsave := rfl
@[simp] theorem Pip.clearV_asid (p : Pip) (r : Reg4) : (p.clearV r).asid = p.asid := rfl
@[simp] theorem Pip.clearV_fpmode (p : Pip) (r : Reg4) : (p.clearV r).fpmode = p.fpmode := rfl
@[simp] theorem Pip.clearV_refused (p : Pip) (r : Reg4) : (p.clearV r).refused = p.refused := rfl
@[simp] theorem Pip.clearV_engerr (p : Pip) (r : Reg4) : (p.clearV r).engerr = p.engerr := rfl
@[simp] theorem Pip.clearV_refusedVal (p : Pip) (r : Reg4) : (p.clearV r).refusedVal = p.refusedVal := rfl
@[simp] theorem Pip.clearV_engerrVal (p : Pip) (r : Reg4) : (p.clearV r).engerrVal = p.engerrVal := rfl
@[simp] theorem Pip.clearV_rejectVal (p : Pip) (r : Reg4) : (p.clearV r).rejectVal = p.rejectVal := rfl
@[simp] theorem Pip.clearV_ops (p : Pip) (r : Reg4) : (p.clearV r).ops = p.ops := rfl
@[simp] theorem Pip.clearV_nextOp (p : Pip) (r : Reg4) : (p.clearV r).nextOp = p.nextOp := rfl
@[simp] theorem Pip.clearV_deferredTrap (p : Pip) (r : Reg4) : (p.clearV r).deferredTrap = p.deferredTrap := rfl
@[simp] theorem Pip.clearV_messages (p : Pip) (r : Reg4) : (p.clearV r).messages = p.messages := rfl
@[simp] theorem Pip.clearV_lastIssue (p : Pip) (r : Reg4) : (p.clearV r).lastIssue = p.lastIssue := rfl
@[simp] theorem Pip.clearV_stepping (p : Pip) (r : Reg4) : (p.clearV r).stepping = p.stepping := rfl
@[simp] theorem Pip.clearV_joined (p : Pip) (r : Reg4) : (p.clearV r).joined = p.joined := rfl
@[simp] theorem Pip.clearV_stay (p : Pip) (r : Reg4) : (p.clearV r).stay = p.stay := rfl
@[simp] theorem Pip.clearV_delivered (p : Pip) (r : Reg4) : (p.clearV r).delivered = p.delivered := rfl
@[simp] theorem Pip.clearV_eret (p : Pip) (r : Reg4) : (p.clearV r).eret = p.eret := rfl
@[simp] theorem Pip.clearV_news (p : Pip) (r : Reg4) : (p.clearV r).news = p.news := rfl

@[simp] theorem Pip.setSteer_launch (p : Pip) (n : Nat) (x : Steer) : (p.setSteer n x).launch = p.launch := by unfold Pip.setSteer; split <;> rfl
@[simp] theorem Pip.setSteer_cond (p : Pip) (n : Nat) (x : Steer) : (p.setSteer n x).cond = p.cond := by unfold Pip.setSteer; split <;> rfl
@[simp] theorem Pip.setSteer_heldDebug (p : Pip) (n : Nat) (x : Steer) : (p.setSteer n x).heldDebug = p.heldDebug := by unfold Pip.setSteer; split <;> rfl
@[simp] theorem Pip.setSteer_heldPreempt (p : Pip) (n : Nat) (x : Steer) : (p.setSteer n x).heldPreempt = p.heldPreempt := by unfold Pip.setSteer; split <;> rfl
@[simp] theorem Pip.setSteer_heldFault (p : Pip) (n : Nat) (x : Steer) : (p.setSteer n x).heldFault = p.heldFault := by unfold Pip.setSteer; split <;> rfl
@[simp] theorem Pip.setSteer_pc (p : Pip) (n : Nat) (x : Steer) : (p.setSteer n x).pc = p.pc := by unfold Pip.setSteer; split <;> rfl
@[simp] theorem Pip.setSteer_g (p : Pip) (n : Nat) (x : Steer) : (p.setSteer n x).g = p.g := by unfold Pip.setSteer; split <;> rfl
@[simp] theorem Pip.setSteer_gFull (p : Pip) (n : Nat) (x : Steer) : (p.setSteer n x).gFull = p.gFull := by unfold Pip.setSteer; split <;> rfl
@[simp] theorem Pip.setSteer_v (p : Pip) (n : Nat) (x : Steer) : (p.setSteer n x).v = p.v := by unfold Pip.setSteer; split <;> rfl
@[simp] theorem Pip.setSteer_vFull (p : Pip) (n : Nat) (x : Steer) : (p.setSteer n x).vFull = p.vFull := by unfold Pip.setSteer; split <;> rfl
@[simp] theorem Pip.setSteer_status (p : Pip) (n : Nat) (x : Steer) : (p.setSteer n x).status = p.status := by unfold Pip.setSteer; split <;> rfl
@[simp] theorem Pip.setSteer_pipid (p : Pip) (n : Nat) (x : Steer) : (p.setSteer n x).pipid = p.pipid := by unfold Pip.setSteer; split <;> rfl
@[simp] theorem Pip.setSteer_coord (p : Pip) (n : Nat) (x : Steer) : (p.setSteer n x).coord = p.coord := by unfold Pip.setSteer; split <;> rfl
@[simp] theorem Pip.setSteer_extent (p : Pip) (n : Nat) (x : Steer) : (p.setSteer n x).extent = p.extent := by unfold Pip.setSteer; split <;> rfl
@[simp] theorem Pip.setSteer_tcmp (p : Pip) (n : Nat) (x : Steer) : (p.setSteer n x).tcmp = p.tcmp := by unfold Pip.setSteer; split <;> rfl
@[simp] theorem Pip.setSteer_tvec (p : Pip) (n : Nat) (x : Steer) : (p.setSteer n x).tvec = p.tvec := by unfold Pip.setSteer; split <;> rfl
@[simp] theorem Pip.setSteer_tcause (p : Pip) (n : Nat) (x : Steer) : (p.setSteer n x).tcause = p.tcause := by unfold Pip.setSteer; split <;> rfl
@[simp] theorem Pip.setSteer_tval (p : Pip) (n : Nat) (x : Steer) : (p.setSteer n x).tval = p.tval := by unfold Pip.setSteer; split <;> rfl
@[simp] theorem Pip.setSteer_tpc (p : Pip) (n : Nat) (x : Steer) : (p.setSteer n x).tpc = p.tpc := by unfold Pip.setSteer; split <;> rfl
@[simp] theorem Pip.setSteer_ipend (p : Pip) (n : Nat) (x : Steer) : (p.setSteer n x).ipend = p.ipend := by unfold Pip.setSteer; split <;> rfl
@[simp] theorem Pip.setSteer_msg (p : Pip) (n : Nat) (x : Steer) : (p.setSteer n x).msg = p.msg := by unfold Pip.setSteer; split <;> rfl
@[simp] theorem Pip.setSteer_hsave (p : Pip) (n : Nat) (x : Steer) : (p.setSteer n x).hsave = p.hsave := by unfold Pip.setSteer; split <;> rfl
@[simp] theorem Pip.setSteer_asid (p : Pip) (n : Nat) (x : Steer) : (p.setSteer n x).asid = p.asid := by unfold Pip.setSteer; split <;> rfl
@[simp] theorem Pip.setSteer_fpmode (p : Pip) (n : Nat) (x : Steer) : (p.setSteer n x).fpmode = p.fpmode := by unfold Pip.setSteer; split <;> rfl
@[simp] theorem Pip.setSteer_refused (p : Pip) (n : Nat) (x : Steer) : (p.setSteer n x).refused = p.refused := by unfold Pip.setSteer; split <;> rfl
@[simp] theorem Pip.setSteer_engerr (p : Pip) (n : Nat) (x : Steer) : (p.setSteer n x).engerr = p.engerr := by unfold Pip.setSteer; split <;> rfl
@[simp] theorem Pip.setSteer_refusedVal (p : Pip) (n : Nat) (x : Steer) : (p.setSteer n x).refusedVal = p.refusedVal := by unfold Pip.setSteer; split <;> rfl
@[simp] theorem Pip.setSteer_engerrVal (p : Pip) (n : Nat) (x : Steer) : (p.setSteer n x).engerrVal = p.engerrVal := by unfold Pip.setSteer; split <;> rfl
@[simp] theorem Pip.setSteer_rejectVal (p : Pip) (n : Nat) (x : Steer) : (p.setSteer n x).rejectVal = p.rejectVal := by unfold Pip.setSteer; split <;> rfl
@[simp] theorem Pip.setSteer_ops (p : Pip) (n : Nat) (x : Steer) : (p.setSteer n x).ops = p.ops := by unfold Pip.setSteer; split <;> rfl
@[simp] theorem Pip.setSteer_nextOp (p : Pip) (n : Nat) (x : Steer) : (p.setSteer n x).nextOp = p.nextOp := by unfold Pip.setSteer; split <;> rfl
@[simp] theorem Pip.setSteer_deferredTrap (p : Pip) (n : Nat) (x : Steer) : (p.setSteer n x).deferredTrap = p.deferredTrap := by unfold Pip.setSteer; split <;> rfl
@[simp] theorem Pip.setSteer_messages (p : Pip) (n : Nat) (x : Steer) : (p.setSteer n x).messages = p.messages := by unfold Pip.setSteer; split <;> rfl
@[simp] theorem Pip.setSteer_lastIssue (p : Pip) (n : Nat) (x : Steer) : (p.setSteer n x).lastIssue = p.lastIssue := by unfold Pip.setSteer; split <;> rfl
@[simp] theorem Pip.setSteer_stepping (p : Pip) (n : Nat) (x : Steer) : (p.setSteer n x).stepping = p.stepping := by unfold Pip.setSteer; split <;> rfl
@[simp] theorem Pip.setSteer_joined (p : Pip) (n : Nat) (x : Steer) : (p.setSteer n x).joined = p.joined := by unfold Pip.setSteer; split <;> rfl
@[simp] theorem Pip.setSteer_stay (p : Pip) (n : Nat) (x : Steer) : (p.setSteer n x).stay = p.stay := by unfold Pip.setSteer; split <;> rfl
@[simp] theorem Pip.setSteer_delivered (p : Pip) (n : Nat) (x : Steer) : (p.setSteer n x).delivered = p.delivered := by unfold Pip.setSteer; split <;> rfl
@[simp] theorem Pip.setSteer_eret (p : Pip) (n : Nat) (x : Steer) : (p.setSteer n x).eret = p.eret := by unfold Pip.setSteer; split <;> rfl
@[simp] theorem Pip.setSteer_news (p : Pip) (n : Nat) (x : Steer) : (p.setSteer n x).news = p.news := by unfold Pip.setSteer; split <;> rfl

@[simp] theorem Pip.advance_launch (p : Pip) : (p.advance).launch = p.launch := rfl
@[simp] theorem Pip.advance_heldDebug (p : Pip) : (p.advance).heldDebug = p.heldDebug := rfl
@[simp] theorem Pip.advance_heldPreempt (p : Pip) : (p.advance).heldPreempt = p.heldPreempt := rfl
@[simp] theorem Pip.advance_heldFault (p : Pip) : (p.advance).heldFault = p.heldFault := rfl
@[simp] theorem Pip.advance_g (p : Pip) : (p.advance).g = p.g := rfl
@[simp] theorem Pip.advance_gFull (p : Pip) : (p.advance).gFull = p.gFull := rfl
@[simp] theorem Pip.advance_v (p : Pip) : (p.advance).v = p.v := rfl
@[simp] theorem Pip.advance_vFull (p : Pip) : (p.advance).vFull = p.vFull := rfl
@[simp] theorem Pip.advance_b (p : Pip) : (p.advance).b = p.b := rfl
@[simp] theorem Pip.advance_status (p : Pip) : (p.advance).status = p.status := rfl
@[simp] theorem Pip.advance_pipid (p : Pip) : (p.advance).pipid = p.pipid := rfl
@[simp] theorem Pip.advance_coord (p : Pip) : (p.advance).coord = p.coord := rfl
@[simp] theorem Pip.advance_extent (p : Pip) : (p.advance).extent = p.extent := rfl
@[simp] theorem Pip.advance_tcmp (p : Pip) : (p.advance).tcmp = p.tcmp := rfl
@[simp] theorem Pip.advance_tvec (p : Pip) : (p.advance).tvec = p.tvec := rfl
@[simp] theorem Pip.advance_tcause (p : Pip) : (p.advance).tcause = p.tcause := rfl
@[simp] theorem Pip.advance_tval (p : Pip) : (p.advance).tval = p.tval := rfl
@[simp] theorem Pip.advance_tpc (p : Pip) : (p.advance).tpc = p.tpc := rfl
@[simp] theorem Pip.advance_ipend (p : Pip) : (p.advance).ipend = p.ipend := rfl
@[simp] theorem Pip.advance_msg (p : Pip) : (p.advance).msg = p.msg := rfl
@[simp] theorem Pip.advance_hsave (p : Pip) : (p.advance).hsave = p.hsave := rfl
@[simp] theorem Pip.advance_asid (p : Pip) : (p.advance).asid = p.asid := rfl
@[simp] theorem Pip.advance_fpmode (p : Pip) : (p.advance).fpmode = p.fpmode := rfl
@[simp] theorem Pip.advance_refused (p : Pip) : (p.advance).refused = p.refused := rfl
@[simp] theorem Pip.advance_engerr (p : Pip) : (p.advance).engerr = p.engerr := rfl
@[simp] theorem Pip.advance_refusedVal (p : Pip) : (p.advance).refusedVal = p.refusedVal := rfl
@[simp] theorem Pip.advance_engerrVal (p : Pip) : (p.advance).engerrVal = p.engerrVal := rfl
@[simp] theorem Pip.advance_rejectVal (p : Pip) : (p.advance).rejectVal = p.rejectVal := rfl
@[simp] theorem Pip.advance_ops (p : Pip) : (p.advance).ops = p.ops := rfl
@[simp] theorem Pip.advance_nextOp (p : Pip) : (p.advance).nextOp = p.nextOp := rfl
@[simp] theorem Pip.advance_deferredTrap (p : Pip) : (p.advance).deferredTrap = p.deferredTrap := rfl
@[simp] theorem Pip.advance_messages (p : Pip) : (p.advance).messages = p.messages := rfl
@[simp] theorem Pip.advance_lastIssue (p : Pip) : (p.advance).lastIssue = p.lastIssue := rfl
@[simp] theorem Pip.advance_stepping (p : Pip) : (p.advance).stepping = p.stepping := rfl
@[simp] theorem Pip.advance_joined (p : Pip) : (p.advance).joined = p.joined := rfl
@[simp] theorem Pip.advance_stay (p : Pip) : (p.advance).stay = p.stay := rfl
@[simp] theorem Pip.advance_delivered (p : Pip) : (p.advance).delivered = p.delivered := rfl
@[simp] theorem Pip.advance_eret (p : Pip) : (p.advance).eret = p.eret := rfl
@[simp] theorem Pip.advance_news (p : Pip) : (p.advance).news = p.news := rfl

@[simp] theorem Pip.raise_launch (p : Pip) (n : Nat) : (p.raise n).launch = p.launch := rfl
@[simp] theorem Pip.raise_cond (p : Pip) (n : Nat) : (p.raise n).cond = p.cond := rfl
@[simp] theorem Pip.raise_heldDebug (p : Pip) (n : Nat) : (p.raise n).heldDebug = p.heldDebug := rfl
@[simp] theorem Pip.raise_heldPreempt (p : Pip) (n : Nat) : (p.raise n).heldPreempt = p.heldPreempt := rfl
@[simp] theorem Pip.raise_heldFault (p : Pip) (n : Nat) : (p.raise n).heldFault = p.heldFault := rfl
@[simp] theorem Pip.raise_pc (p : Pip) (n : Nat) : (p.raise n).pc = p.pc := rfl
@[simp] theorem Pip.raise_g (p : Pip) (n : Nat) : (p.raise n).g = p.g := rfl
@[simp] theorem Pip.raise_gFull (p : Pip) (n : Nat) : (p.raise n).gFull = p.gFull := rfl
@[simp] theorem Pip.raise_v (p : Pip) (n : Nat) : (p.raise n).v = p.v := rfl
@[simp] theorem Pip.raise_vFull (p : Pip) (n : Nat) : (p.raise n).vFull = p.vFull := rfl
@[simp] theorem Pip.raise_b (p : Pip) (n : Nat) : (p.raise n).b = p.b := rfl
@[simp] theorem Pip.raise_status (p : Pip) (n : Nat) : (p.raise n).status = p.status := rfl
@[simp] theorem Pip.raise_pipid (p : Pip) (n : Nat) : (p.raise n).pipid = p.pipid := rfl
@[simp] theorem Pip.raise_coord (p : Pip) (n : Nat) : (p.raise n).coord = p.coord := rfl
@[simp] theorem Pip.raise_extent (p : Pip) (n : Nat) : (p.raise n).extent = p.extent := rfl
@[simp] theorem Pip.raise_tcmp (p : Pip) (n : Nat) : (p.raise n).tcmp = p.tcmp := rfl
@[simp] theorem Pip.raise_tvec (p : Pip) (n : Nat) : (p.raise n).tvec = p.tvec := rfl
@[simp] theorem Pip.raise_tcause (p : Pip) (n : Nat) : (p.raise n).tcause = p.tcause := rfl
@[simp] theorem Pip.raise_tval (p : Pip) (n : Nat) : (p.raise n).tval = p.tval := rfl
@[simp] theorem Pip.raise_tpc (p : Pip) (n : Nat) : (p.raise n).tpc = p.tpc := rfl
@[simp] theorem Pip.raise_msg (p : Pip) (n : Nat) : (p.raise n).msg = p.msg := rfl
@[simp] theorem Pip.raise_hsave (p : Pip) (n : Nat) : (p.raise n).hsave = p.hsave := rfl
@[simp] theorem Pip.raise_asid (p : Pip) (n : Nat) : (p.raise n).asid = p.asid := rfl
@[simp] theorem Pip.raise_fpmode (p : Pip) (n : Nat) : (p.raise n).fpmode = p.fpmode := rfl
@[simp] theorem Pip.raise_refused (p : Pip) (n : Nat) : (p.raise n).refused = p.refused := rfl
@[simp] theorem Pip.raise_engerr (p : Pip) (n : Nat) : (p.raise n).engerr = p.engerr := rfl
@[simp] theorem Pip.raise_refusedVal (p : Pip) (n : Nat) : (p.raise n).refusedVal = p.refusedVal := rfl
@[simp] theorem Pip.raise_engerrVal (p : Pip) (n : Nat) : (p.raise n).engerrVal = p.engerrVal := rfl
@[simp] theorem Pip.raise_rejectVal (p : Pip) (n : Nat) : (p.raise n).rejectVal = p.rejectVal := rfl
@[simp] theorem Pip.raise_ops (p : Pip) (n : Nat) : (p.raise n).ops = p.ops := rfl
@[simp] theorem Pip.raise_nextOp (p : Pip) (n : Nat) : (p.raise n).nextOp = p.nextOp := rfl
@[simp] theorem Pip.raise_deferredTrap (p : Pip) (n : Nat) : (p.raise n).deferredTrap = p.deferredTrap := rfl
@[simp] theorem Pip.raise_messages (p : Pip) (n : Nat) : (p.raise n).messages = p.messages := rfl
@[simp] theorem Pip.raise_lastIssue (p : Pip) (n : Nat) : (p.raise n).lastIssue = p.lastIssue := rfl
@[simp] theorem Pip.raise_stepping (p : Pip) (n : Nat) : (p.raise n).stepping = p.stepping := rfl
@[simp] theorem Pip.raise_joined (p : Pip) (n : Nat) : (p.raise n).joined = p.joined := rfl
@[simp] theorem Pip.raise_stay (p : Pip) (n : Nat) : (p.raise n).stay = p.stay := rfl
@[simp] theorem Pip.raise_delivered (p : Pip) (n : Nat) : (p.raise n).delivered = p.delivered := rfl
@[simp] theorem Pip.raise_eret (p : Pip) (n : Nat) : (p.raise n).eret = p.eret := rfl
@[simp] theorem Pip.raise_news (p : Pip) (n : Nat) : (p.raise n).news = p.news := rfl

@[simp] theorem Pip.lower_launch (p : Pip) (n : Nat) : (p.lower n).launch = p.launch := rfl
@[simp] theorem Pip.lower_cond (p : Pip) (n : Nat) : (p.lower n).cond = p.cond := rfl
@[simp] theorem Pip.lower_heldDebug (p : Pip) (n : Nat) : (p.lower n).heldDebug = p.heldDebug := rfl
@[simp] theorem Pip.lower_heldPreempt (p : Pip) (n : Nat) : (p.lower n).heldPreempt = p.heldPreempt := rfl
@[simp] theorem Pip.lower_heldFault (p : Pip) (n : Nat) : (p.lower n).heldFault = p.heldFault := rfl
@[simp] theorem Pip.lower_pc (p : Pip) (n : Nat) : (p.lower n).pc = p.pc := rfl
@[simp] theorem Pip.lower_g (p : Pip) (n : Nat) : (p.lower n).g = p.g := rfl
@[simp] theorem Pip.lower_gFull (p : Pip) (n : Nat) : (p.lower n).gFull = p.gFull := rfl
@[simp] theorem Pip.lower_v (p : Pip) (n : Nat) : (p.lower n).v = p.v := rfl
@[simp] theorem Pip.lower_vFull (p : Pip) (n : Nat) : (p.lower n).vFull = p.vFull := rfl
@[simp] theorem Pip.lower_b (p : Pip) (n : Nat) : (p.lower n).b = p.b := rfl
@[simp] theorem Pip.lower_status (p : Pip) (n : Nat) : (p.lower n).status = p.status := rfl
@[simp] theorem Pip.lower_pipid (p : Pip) (n : Nat) : (p.lower n).pipid = p.pipid := rfl
@[simp] theorem Pip.lower_coord (p : Pip) (n : Nat) : (p.lower n).coord = p.coord := rfl
@[simp] theorem Pip.lower_extent (p : Pip) (n : Nat) : (p.lower n).extent = p.extent := rfl
@[simp] theorem Pip.lower_tcmp (p : Pip) (n : Nat) : (p.lower n).tcmp = p.tcmp := rfl
@[simp] theorem Pip.lower_tvec (p : Pip) (n : Nat) : (p.lower n).tvec = p.tvec := rfl
@[simp] theorem Pip.lower_tcause (p : Pip) (n : Nat) : (p.lower n).tcause = p.tcause := rfl
@[simp] theorem Pip.lower_tval (p : Pip) (n : Nat) : (p.lower n).tval = p.tval := rfl
@[simp] theorem Pip.lower_tpc (p : Pip) (n : Nat) : (p.lower n).tpc = p.tpc := rfl
@[simp] theorem Pip.lower_msg (p : Pip) (n : Nat) : (p.lower n).msg = p.msg := rfl
@[simp] theorem Pip.lower_hsave (p : Pip) (n : Nat) : (p.lower n).hsave = p.hsave := rfl
@[simp] theorem Pip.lower_asid (p : Pip) (n : Nat) : (p.lower n).asid = p.asid := rfl
@[simp] theorem Pip.lower_fpmode (p : Pip) (n : Nat) : (p.lower n).fpmode = p.fpmode := rfl
@[simp] theorem Pip.lower_refused (p : Pip) (n : Nat) : (p.lower n).refused = p.refused := rfl
@[simp] theorem Pip.lower_engerr (p : Pip) (n : Nat) : (p.lower n).engerr = p.engerr := rfl
@[simp] theorem Pip.lower_refusedVal (p : Pip) (n : Nat) : (p.lower n).refusedVal = p.refusedVal := rfl
@[simp] theorem Pip.lower_engerrVal (p : Pip) (n : Nat) : (p.lower n).engerrVal = p.engerrVal := rfl
@[simp] theorem Pip.lower_rejectVal (p : Pip) (n : Nat) : (p.lower n).rejectVal = p.rejectVal := rfl
@[simp] theorem Pip.lower_ops (p : Pip) (n : Nat) : (p.lower n).ops = p.ops := rfl
@[simp] theorem Pip.lower_nextOp (p : Pip) (n : Nat) : (p.lower n).nextOp = p.nextOp := rfl
@[simp] theorem Pip.lower_deferredTrap (p : Pip) (n : Nat) : (p.lower n).deferredTrap = p.deferredTrap := rfl
@[simp] theorem Pip.lower_messages (p : Pip) (n : Nat) : (p.lower n).messages = p.messages := rfl
@[simp] theorem Pip.lower_lastIssue (p : Pip) (n : Nat) : (p.lower n).lastIssue = p.lastIssue := rfl
@[simp] theorem Pip.lower_stepping (p : Pip) (n : Nat) : (p.lower n).stepping = p.stepping := rfl
@[simp] theorem Pip.lower_joined (p : Pip) (n : Nat) : (p.lower n).joined = p.joined := rfl
@[simp] theorem Pip.lower_stay (p : Pip) (n : Nat) : (p.lower n).stay = p.stay := rfl
@[simp] theorem Pip.lower_delivered (p : Pip) (n : Nat) : (p.lower n).delivered = p.delivered := rfl
@[simp] theorem Pip.lower_eret (p : Pip) (n : Nat) : (p.lower n).eret = p.eret := rfl
@[simp] theorem Pip.lower_news (p : Pip) (n : Nat) : (p.lower n).news = p.news := rfl

@[simp] theorem Pip.modOp_launch (p : Pip) (n : Nat) (f : Op → Op) : (p.modOp n f).launch = p.launch := rfl
@[simp] theorem Pip.modOp_cond (p : Pip) (n : Nat) (f : Op → Op) : (p.modOp n f).cond = p.cond := rfl
@[simp] theorem Pip.modOp_heldDebug (p : Pip) (n : Nat) (f : Op → Op) : (p.modOp n f).heldDebug = p.heldDebug := rfl
@[simp] theorem Pip.modOp_heldPreempt (p : Pip) (n : Nat) (f : Op → Op) : (p.modOp n f).heldPreempt = p.heldPreempt := rfl
@[simp] theorem Pip.modOp_heldFault (p : Pip) (n : Nat) (f : Op → Op) : (p.modOp n f).heldFault = p.heldFault := rfl
@[simp] theorem Pip.modOp_pc (p : Pip) (n : Nat) (f : Op → Op) : (p.modOp n f).pc = p.pc := rfl
@[simp] theorem Pip.modOp_g (p : Pip) (n : Nat) (f : Op → Op) : (p.modOp n f).g = p.g := rfl
@[simp] theorem Pip.modOp_gFull (p : Pip) (n : Nat) (f : Op → Op) : (p.modOp n f).gFull = p.gFull := rfl
@[simp] theorem Pip.modOp_v (p : Pip) (n : Nat) (f : Op → Op) : (p.modOp n f).v = p.v := rfl
@[simp] theorem Pip.modOp_vFull (p : Pip) (n : Nat) (f : Op → Op) : (p.modOp n f).vFull = p.vFull := rfl
@[simp] theorem Pip.modOp_b (p : Pip) (n : Nat) (f : Op → Op) : (p.modOp n f).b = p.b := rfl
@[simp] theorem Pip.modOp_status (p : Pip) (n : Nat) (f : Op → Op) : (p.modOp n f).status = p.status := rfl
@[simp] theorem Pip.modOp_pipid (p : Pip) (n : Nat) (f : Op → Op) : (p.modOp n f).pipid = p.pipid := rfl
@[simp] theorem Pip.modOp_coord (p : Pip) (n : Nat) (f : Op → Op) : (p.modOp n f).coord = p.coord := rfl
@[simp] theorem Pip.modOp_extent (p : Pip) (n : Nat) (f : Op → Op) : (p.modOp n f).extent = p.extent := rfl
@[simp] theorem Pip.modOp_tcmp (p : Pip) (n : Nat) (f : Op → Op) : (p.modOp n f).tcmp = p.tcmp := rfl
@[simp] theorem Pip.modOp_tvec (p : Pip) (n : Nat) (f : Op → Op) : (p.modOp n f).tvec = p.tvec := rfl
@[simp] theorem Pip.modOp_tcause (p : Pip) (n : Nat) (f : Op → Op) : (p.modOp n f).tcause = p.tcause := rfl
@[simp] theorem Pip.modOp_tval (p : Pip) (n : Nat) (f : Op → Op) : (p.modOp n f).tval = p.tval := rfl
@[simp] theorem Pip.modOp_tpc (p : Pip) (n : Nat) (f : Op → Op) : (p.modOp n f).tpc = p.tpc := rfl
@[simp] theorem Pip.modOp_ipend (p : Pip) (n : Nat) (f : Op → Op) : (p.modOp n f).ipend = p.ipend := rfl
@[simp] theorem Pip.modOp_msg (p : Pip) (n : Nat) (f : Op → Op) : (p.modOp n f).msg = p.msg := rfl
@[simp] theorem Pip.modOp_hsave (p : Pip) (n : Nat) (f : Op → Op) : (p.modOp n f).hsave = p.hsave := rfl
@[simp] theorem Pip.modOp_asid (p : Pip) (n : Nat) (f : Op → Op) : (p.modOp n f).asid = p.asid := rfl
@[simp] theorem Pip.modOp_fpmode (p : Pip) (n : Nat) (f : Op → Op) : (p.modOp n f).fpmode = p.fpmode := rfl
@[simp] theorem Pip.modOp_refused (p : Pip) (n : Nat) (f : Op → Op) : (p.modOp n f).refused = p.refused := rfl
@[simp] theorem Pip.modOp_engerr (p : Pip) (n : Nat) (f : Op → Op) : (p.modOp n f).engerr = p.engerr := rfl
@[simp] theorem Pip.modOp_refusedVal (p : Pip) (n : Nat) (f : Op → Op) : (p.modOp n f).refusedVal = p.refusedVal := rfl
@[simp] theorem Pip.modOp_engerrVal (p : Pip) (n : Nat) (f : Op → Op) : (p.modOp n f).engerrVal = p.engerrVal := rfl
@[simp] theorem Pip.modOp_rejectVal (p : Pip) (n : Nat) (f : Op → Op) : (p.modOp n f).rejectVal = p.rejectVal := rfl
@[simp] theorem Pip.modOp_nextOp (p : Pip) (n : Nat) (f : Op → Op) : (p.modOp n f).nextOp = p.nextOp := rfl
@[simp] theorem Pip.modOp_deferredTrap (p : Pip) (n : Nat) (f : Op → Op) : (p.modOp n f).deferredTrap = p.deferredTrap := rfl
@[simp] theorem Pip.modOp_messages (p : Pip) (n : Nat) (f : Op → Op) : (p.modOp n f).messages = p.messages := rfl
@[simp] theorem Pip.modOp_lastIssue (p : Pip) (n : Nat) (f : Op → Op) : (p.modOp n f).lastIssue = p.lastIssue := rfl
@[simp] theorem Pip.modOp_stepping (p : Pip) (n : Nat) (f : Op → Op) : (p.modOp n f).stepping = p.stepping := rfl
@[simp] theorem Pip.modOp_joined (p : Pip) (n : Nat) (f : Op → Op) : (p.modOp n f).joined = p.joined := rfl
@[simp] theorem Pip.modOp_stay (p : Pip) (n : Nat) (f : Op → Op) : (p.modOp n f).stay = p.stay := rfl
@[simp] theorem Pip.modOp_delivered (p : Pip) (n : Nat) (f : Op → Op) : (p.modOp n f).delivered = p.delivered := rfl
@[simp] theorem Pip.modOp_eret (p : Pip) (n : Nat) (f : Op → Op) : (p.modOp n f).eret = p.eret := rfl
@[simp] theorem Pip.modOp_news (p : Pip) (n : Nat) (f : Op → Op) : (p.modOp n f).news = p.news := rfl

@[simp] theorem Pip.dropOp_launch (p : Pip) (n : Nat) : (p.dropOp n).launch = p.launch := rfl
@[simp] theorem Pip.dropOp_cond (p : Pip) (n : Nat) : (p.dropOp n).cond = p.cond := rfl
@[simp] theorem Pip.dropOp_heldDebug (p : Pip) (n : Nat) : (p.dropOp n).heldDebug = p.heldDebug := rfl
@[simp] theorem Pip.dropOp_heldPreempt (p : Pip) (n : Nat) : (p.dropOp n).heldPreempt = p.heldPreempt := rfl
@[simp] theorem Pip.dropOp_heldFault (p : Pip) (n : Nat) : (p.dropOp n).heldFault = p.heldFault := rfl
@[simp] theorem Pip.dropOp_pc (p : Pip) (n : Nat) : (p.dropOp n).pc = p.pc := rfl
@[simp] theorem Pip.dropOp_g (p : Pip) (n : Nat) : (p.dropOp n).g = p.g := rfl
@[simp] theorem Pip.dropOp_gFull (p : Pip) (n : Nat) : (p.dropOp n).gFull = p.gFull := rfl
@[simp] theorem Pip.dropOp_v (p : Pip) (n : Nat) : (p.dropOp n).v = p.v := rfl
@[simp] theorem Pip.dropOp_vFull (p : Pip) (n : Nat) : (p.dropOp n).vFull = p.vFull := rfl
@[simp] theorem Pip.dropOp_b (p : Pip) (n : Nat) : (p.dropOp n).b = p.b := rfl
@[simp] theorem Pip.dropOp_status (p : Pip) (n : Nat) : (p.dropOp n).status = p.status := rfl
@[simp] theorem Pip.dropOp_pipid (p : Pip) (n : Nat) : (p.dropOp n).pipid = p.pipid := rfl
@[simp] theorem Pip.dropOp_coord (p : Pip) (n : Nat) : (p.dropOp n).coord = p.coord := rfl
@[simp] theorem Pip.dropOp_extent (p : Pip) (n : Nat) : (p.dropOp n).extent = p.extent := rfl
@[simp] theorem Pip.dropOp_tcmp (p : Pip) (n : Nat) : (p.dropOp n).tcmp = p.tcmp := rfl
@[simp] theorem Pip.dropOp_tvec (p : Pip) (n : Nat) : (p.dropOp n).tvec = p.tvec := rfl
@[simp] theorem Pip.dropOp_tcause (p : Pip) (n : Nat) : (p.dropOp n).tcause = p.tcause := rfl
@[simp] theorem Pip.dropOp_tval (p : Pip) (n : Nat) : (p.dropOp n).tval = p.tval := rfl
@[simp] theorem Pip.dropOp_tpc (p : Pip) (n : Nat) : (p.dropOp n).tpc = p.tpc := rfl
@[simp] theorem Pip.dropOp_ipend (p : Pip) (n : Nat) : (p.dropOp n).ipend = p.ipend := rfl
@[simp] theorem Pip.dropOp_msg (p : Pip) (n : Nat) : (p.dropOp n).msg = p.msg := rfl
@[simp] theorem Pip.dropOp_hsave (p : Pip) (n : Nat) : (p.dropOp n).hsave = p.hsave := rfl
@[simp] theorem Pip.dropOp_asid (p : Pip) (n : Nat) : (p.dropOp n).asid = p.asid := rfl
@[simp] theorem Pip.dropOp_fpmode (p : Pip) (n : Nat) : (p.dropOp n).fpmode = p.fpmode := rfl
@[simp] theorem Pip.dropOp_refused (p : Pip) (n : Nat) : (p.dropOp n).refused = p.refused := rfl
@[simp] theorem Pip.dropOp_engerr (p : Pip) (n : Nat) : (p.dropOp n).engerr = p.engerr := rfl
@[simp] theorem Pip.dropOp_refusedVal (p : Pip) (n : Nat) : (p.dropOp n).refusedVal = p.refusedVal := rfl
@[simp] theorem Pip.dropOp_engerrVal (p : Pip) (n : Nat) : (p.dropOp n).engerrVal = p.engerrVal := rfl
@[simp] theorem Pip.dropOp_rejectVal (p : Pip) (n : Nat) : (p.dropOp n).rejectVal = p.rejectVal := rfl
@[simp] theorem Pip.dropOp_nextOp (p : Pip) (n : Nat) : (p.dropOp n).nextOp = p.nextOp := rfl
@[simp] theorem Pip.dropOp_deferredTrap (p : Pip) (n : Nat) : (p.dropOp n).deferredTrap = p.deferredTrap := rfl
@[simp] theorem Pip.dropOp_messages (p : Pip) (n : Nat) : (p.dropOp n).messages = p.messages := rfl
@[simp] theorem Pip.dropOp_lastIssue (p : Pip) (n : Nat) : (p.dropOp n).lastIssue = p.lastIssue := rfl
@[simp] theorem Pip.dropOp_stepping (p : Pip) (n : Nat) : (p.dropOp n).stepping = p.stepping := rfl
@[simp] theorem Pip.dropOp_joined (p : Pip) (n : Nat) : (p.dropOp n).joined = p.joined := rfl
@[simp] theorem Pip.dropOp_stay (p : Pip) (n : Nat) : (p.dropOp n).stay = p.stay := rfl
@[simp] theorem Pip.dropOp_delivered (p : Pip) (n : Nat) : (p.dropOp n).delivered = p.delivered := rfl
@[simp] theorem Pip.dropOp_eret (p : Pip) (n : Nat) : (p.dropOp n).eret = p.eret := rfl
@[simp] theorem Pip.dropOp_news (p : Pip) (n : Nat) : (p.dropOp n).news = p.news := rfl

@[simp] theorem Pip.finishOp_launch (p : Pip) (n : Nat) (x : VWord) : (p.finishOp n x).launch = p.launch := by unfold Pip.finishOp; split <;> (try split) <;> rfl
@[simp] theorem Pip.finishOp_cond (p : Pip) (n : Nat) (x : VWord) : (p.finishOp n x).cond = p.cond := by unfold Pip.finishOp; split <;> (try split) <;> rfl
@[simp] theorem Pip.finishOp_heldDebug (p : Pip) (n : Nat) (x : VWord) : (p.finishOp n x).heldDebug = p.heldDebug := by unfold Pip.finishOp; split <;> (try split) <;> rfl
@[simp] theorem Pip.finishOp_heldPreempt (p : Pip) (n : Nat) (x : VWord) : (p.finishOp n x).heldPreempt = p.heldPreempt := by unfold Pip.finishOp; split <;> (try split) <;> rfl
@[simp] theorem Pip.finishOp_heldFault (p : Pip) (n : Nat) (x : VWord) : (p.finishOp n x).heldFault = p.heldFault := by unfold Pip.finishOp; split <;> (try split) <;> rfl
@[simp] theorem Pip.finishOp_pc (p : Pip) (n : Nat) (x : VWord) : (p.finishOp n x).pc = p.pc := by unfold Pip.finishOp; split <;> (try split) <;> rfl
@[simp] theorem Pip.finishOp_g (p : Pip) (n : Nat) (x : VWord) : (p.finishOp n x).g = p.g := by unfold Pip.finishOp; split <;> (try split) <;> rfl
@[simp] theorem Pip.finishOp_gFull (p : Pip) (n : Nat) (x : VWord) : (p.finishOp n x).gFull = p.gFull := by unfold Pip.finishOp; split <;> (try split) <;> rfl
@[simp] theorem Pip.finishOp_v (p : Pip) (n : Nat) (x : VWord) : (p.finishOp n x).v = p.v := by unfold Pip.finishOp; split <;> (try split) <;> rfl
@[simp] theorem Pip.finishOp_vFull (p : Pip) (n : Nat) (x : VWord) : (p.finishOp n x).vFull = p.vFull := by unfold Pip.finishOp; split <;> (try split) <;> rfl
@[simp] theorem Pip.finishOp_b (p : Pip) (n : Nat) (x : VWord) : (p.finishOp n x).b = p.b := by unfold Pip.finishOp; split <;> (try split) <;> rfl
@[simp] theorem Pip.finishOp_status (p : Pip) (n : Nat) (x : VWord) : (p.finishOp n x).status = p.status := by unfold Pip.finishOp; split <;> (try split) <;> rfl
@[simp] theorem Pip.finishOp_pipid (p : Pip) (n : Nat) (x : VWord) : (p.finishOp n x).pipid = p.pipid := by unfold Pip.finishOp; split <;> (try split) <;> rfl
@[simp] theorem Pip.finishOp_coord (p : Pip) (n : Nat) (x : VWord) : (p.finishOp n x).coord = p.coord := by unfold Pip.finishOp; split <;> (try split) <;> rfl
@[simp] theorem Pip.finishOp_extent (p : Pip) (n : Nat) (x : VWord) : (p.finishOp n x).extent = p.extent := by unfold Pip.finishOp; split <;> (try split) <;> rfl
@[simp] theorem Pip.finishOp_tcmp (p : Pip) (n : Nat) (x : VWord) : (p.finishOp n x).tcmp = p.tcmp := by unfold Pip.finishOp; split <;> (try split) <;> rfl
@[simp] theorem Pip.finishOp_tvec (p : Pip) (n : Nat) (x : VWord) : (p.finishOp n x).tvec = p.tvec := by unfold Pip.finishOp; split <;> (try split) <;> rfl
@[simp] theorem Pip.finishOp_tcause (p : Pip) (n : Nat) (x : VWord) : (p.finishOp n x).tcause = p.tcause := by unfold Pip.finishOp; split <;> (try split) <;> rfl
@[simp] theorem Pip.finishOp_tval (p : Pip) (n : Nat) (x : VWord) : (p.finishOp n x).tval = p.tval := by unfold Pip.finishOp; split <;> (try split) <;> rfl
@[simp] theorem Pip.finishOp_tpc (p : Pip) (n : Nat) (x : VWord) : (p.finishOp n x).tpc = p.tpc := by unfold Pip.finishOp; split <;> (try split) <;> rfl
@[simp] theorem Pip.finishOp_ipend (p : Pip) (n : Nat) (x : VWord) : (p.finishOp n x).ipend = p.ipend := by unfold Pip.finishOp; split <;> (try split) <;> rfl
@[simp] theorem Pip.finishOp_msg (p : Pip) (n : Nat) (x : VWord) : (p.finishOp n x).msg = p.msg := by unfold Pip.finishOp; split <;> (try split) <;> rfl
@[simp] theorem Pip.finishOp_hsave (p : Pip) (n : Nat) (x : VWord) : (p.finishOp n x).hsave = p.hsave := by unfold Pip.finishOp; split <;> (try split) <;> rfl
@[simp] theorem Pip.finishOp_asid (p : Pip) (n : Nat) (x : VWord) : (p.finishOp n x).asid = p.asid := by unfold Pip.finishOp; split <;> (try split) <;> rfl
@[simp] theorem Pip.finishOp_fpmode (p : Pip) (n : Nat) (x : VWord) : (p.finishOp n x).fpmode = p.fpmode := by unfold Pip.finishOp; split <;> (try split) <;> rfl
@[simp] theorem Pip.finishOp_refused (p : Pip) (n : Nat) (x : VWord) : (p.finishOp n x).refused = p.refused := by unfold Pip.finishOp; split <;> (try split) <;> rfl
@[simp] theorem Pip.finishOp_engerr (p : Pip) (n : Nat) (x : VWord) : (p.finishOp n x).engerr = p.engerr := by unfold Pip.finishOp; split <;> (try split) <;> rfl
@[simp] theorem Pip.finishOp_refusedVal (p : Pip) (n : Nat) (x : VWord) : (p.finishOp n x).refusedVal = p.refusedVal := by unfold Pip.finishOp; split <;> (try split) <;> rfl
@[simp] theorem Pip.finishOp_engerrVal (p : Pip) (n : Nat) (x : VWord) : (p.finishOp n x).engerrVal = p.engerrVal := by unfold Pip.finishOp; split <;> (try split) <;> rfl
@[simp] theorem Pip.finishOp_rejectVal (p : Pip) (n : Nat) (x : VWord) : (p.finishOp n x).rejectVal = p.rejectVal := by unfold Pip.finishOp; split <;> (try split) <;> rfl
@[simp] theorem Pip.finishOp_nextOp (p : Pip) (n : Nat) (x : VWord) : (p.finishOp n x).nextOp = p.nextOp := by unfold Pip.finishOp; split <;> (try split) <;> rfl
@[simp] theorem Pip.finishOp_deferredTrap (p : Pip) (n : Nat) (x : VWord) : (p.finishOp n x).deferredTrap = p.deferredTrap := by unfold Pip.finishOp; split <;> (try split) <;> rfl
@[simp] theorem Pip.finishOp_messages (p : Pip) (n : Nat) (x : VWord) : (p.finishOp n x).messages = p.messages := by unfold Pip.finishOp; split <;> (try split) <;> rfl
@[simp] theorem Pip.finishOp_lastIssue (p : Pip) (n : Nat) (x : VWord) : (p.finishOp n x).lastIssue = p.lastIssue := by unfold Pip.finishOp; split <;> (try split) <;> rfl
@[simp] theorem Pip.finishOp_stepping (p : Pip) (n : Nat) (x : VWord) : (p.finishOp n x).stepping = p.stepping := by unfold Pip.finishOp; split <;> (try split) <;> rfl
@[simp] theorem Pip.finishOp_joined (p : Pip) (n : Nat) (x : VWord) : (p.finishOp n x).joined = p.joined := by unfold Pip.finishOp; split <;> (try split) <;> rfl
@[simp] theorem Pip.finishOp_stay (p : Pip) (n : Nat) (x : VWord) : (p.finishOp n x).stay = p.stay := by unfold Pip.finishOp; split <;> (try split) <;> rfl
@[simp] theorem Pip.finishOp_delivered (p : Pip) (n : Nat) (x : VWord) : (p.finishOp n x).delivered = p.delivered := by unfold Pip.finishOp; split <;> (try split) <;> rfl
@[simp] theorem Pip.finishOp_eret (p : Pip) (n : Nat) (x : VWord) : (p.finishOp n x).eret = p.eret := by unfold Pip.finishOp; split <;> (try split) <;> rfl
@[simp] theorem Pip.finishOp_news (p : Pip) (n : Nat) (x : VWord) : (p.finishOp n x).news = p.news := by unfold Pip.finishOp; split <;> (try split) <;> rfl

end Sys2Proof.Machine
end

