-- ==== Sys2Proof/Laws/Registers.lean ====
section
/-! SUPPORT. What a register reads after each update of a pip (R24, R31, R36), and what the reads of an instruction leave
(`Uses.after`). -/

namespace Sys2Proof.Machine

/-! ### Full bits as bit vectors -/

theorem getLsbD_or_twoPow {n : Nat} (x : BitVec n) (i k : Nat) (hi : i < n) :
    (x ||| BitVec.twoPow n i).getLsbD k = (x.getLsbD k || decide (k = i)) := by
  simp only [BitVec.getLsbD_or, BitVec.getLsbD_twoPow]
  by_cases h : k = i
  · subst h; simp [hi]
  · have : ¬ i = k := fun e => h e.symm
    simp [h, this]

theorem getLsbD_andn_twoPow {n : Nat} (x : BitVec n) (i k : Nat) :
    (x &&& ~~~(BitVec.twoPow n i)).getLsbD k = (x.getLsbD k && !decide (k = i)) := by
  simp only [BitVec.getLsbD_and, BitVec.getLsbD_not, BitVec.getLsbD_twoPow]
  by_cases h : k = i
  · subst h
    by_cases hk : k < n
    · simp [hk]
    · simp [hk]
  · have : ¬ i = k := fun e => h e.symm
    by_cases hk : k < n
    · simp [h, this, hk]
    · simp [BitVec.getLsbD_of_ge x k (by omega)]

theorem toNat_ne {n : Nat} {r k : BitVec n} (h : k ≠ r) : k.toNat ≠ r.toNat := fun e => h (BitVec.eq_of_toNat_eq e)

/-! ### Values -/

@[simp] theorem Pip.gv_zero (p : Pip) : p.gv 0 = 0 := rfl

theorem Pip.gv_setG (p : Pip) (r k : Reg) (x : Word) : (p.setG r x).gv k = if k = r ∧ r ≠ 0 then x else p.gv k := by
  unfold Pip.setG
  by_cases hr : r = 0#5
  · simp [hr]
  · by_cases hk : k = r
    · subst hk; simp [hr, Pip.gv]
    · have h1 : ¬ r.toNat = k.toNat := fun e => toNat_ne hk e.symm
      simp [hr, hk, Pip.gv, h1]

@[simp] theorem Pip.vv_setG (p : Pip) (r : Reg) (k : Reg4) (x : Word) : (p.setG r x).vv k = p.vv k := by simp [Pip.vv]

theorem Pip.vv_setV (p : Pip) (r k : Reg4) (x : VWord) : (p.setV r x).vv k = if k = r then x else p.vv k := by
  unfold Pip.vv Pip.setV
  by_cases hk : k = r
  · subst hk; simp
  · have h1 : ¬ r.toNat = k.toNat := fun e => toNat_ne hk e.symm
    simp [hk, h1]

@[simp] theorem Pip.gv_setV (p : Pip) (r : Reg4) (k : Reg) (x : VWord) : (p.setV r x).gv k = p.gv k := rfl
@[simp] theorem Pip.gv_clearG (p : Pip) (r k : Reg) : (p.clearG r).gv k = p.gv k := by simp [Pip.gv]
@[simp] theorem Pip.vv_clearG (p : Pip) (r : Reg) (k : Reg4) : (p.clearG r).vv k = p.vv k := by simp [Pip.vv]
@[simp] theorem Pip.gv_clearV (p : Pip) (r : Reg4) (k : Reg) : (p.clearV r).gv k = p.gv k := rfl
@[simp] theorem Pip.vv_clearV (p : Pip) (r k : Reg4) : (p.clearV r).vv k = p.vv k := rfl
@[simp] theorem Pip.gv_setSteer (p : Pip) (n : Nat) (x : Steer) (k : Reg) : (p.setSteer n x).gv k = p.gv k := by simp [Pip.gv]
@[simp] theorem Pip.vv_setSteer (p : Pip) (n : Nat) (x : Steer) (k : Reg4) : (p.setSteer n x).vv k = p.vv k := by simp [Pip.vv]
@[simp] theorem Pip.gv_advance (p : Pip) (k : Reg) : p.advance.gv k = p.gv k := rfl
@[simp] theorem Pip.vv_advance (p : Pip) (k : Reg4) : p.advance.vv k = p.vv k := rfl

/-! ### Full bits -/

@[simp] theorem Pip.gf_zero (p : Pip) : p.gf 0 = true := rfl

theorem reg_eq_decide {n : Nat} (k r : BitVec n) : decide (k.toNat = r.toNat) = decide (k = r) := by
  by_cases hk : k = r
  · simp [hk]
  · simp [hk, toNat_ne hk]

theorem Pip.gf_setG (p : Pip) (r k : Reg) (x : Word) : (p.setG r x).gf k = (p.gf k || decide (k = r)) := by
  unfold Pip.setG
  by_cases hr : r = 0
  · rw [if_pos hr, hr]
    by_cases hk : k = 0
    · rw [hk]; rfl
    · simp only [hk, decide_false, Bool.or_false]
  · rw [if_neg hr]
    unfold Pip.gf
    simp only [getLsbD_or_twoPow p.gFull r.toNat k.toNat r.isLt, reg_eq_decide, Bool.or_assoc]

theorem Pip.gf_clearG (p : Pip) (r k : Reg) : (p.clearG r).gf k = (k == 0 || (p.gf k && decide (k ≠ r))) := by
  unfold Pip.clearG
  by_cases hk : k = 0
  · subst hk; simp [Pip.gf]
  · have h0 : (k == 0) = false := by rw [beq_eq_false_iff_ne]; exact hk
    by_cases hr : r = 0
    · rw [if_pos hr, hr]; simp only [h0, Bool.false_or, decide_not, hk, decide_false, Bool.not_false, Bool.and_true]
    · rw [if_neg hr]
      unfold Pip.gf
      simp only [getLsbD_andn_twoPow, reg_eq_decide, h0, Bool.false_or, decide_not]

theorem Pip.vf_setV (p : Pip) (r k : Reg4) (x : VWord) : (p.setV r x).vf k = (p.vf k || decide (k = r)) := by
  simp only [Pip.vf, Pip.setV, getLsbD_or_twoPow p.vFull r.toNat k.toNat r.isLt, reg_eq_decide]

theorem Pip.vf_clearV (p : Pip) (r k : Reg4) : (p.clearV r).vf k = (p.vf k && decide (k ≠ r)) := by
  simp only [Pip.vf, Pip.clearV, getLsbD_andn_twoPow, reg_eq_decide, decide_not]

@[simp] theorem Pip.vf_setG (p : Pip) (r : Reg) (k : Reg4) (x : Word) : (p.setG r x).vf k = p.vf k := by simp [Pip.vf]
@[simp] theorem Pip.gf_setV (p : Pip) (r : Reg4) (k : Reg) (x : VWord) : (p.setV r x).gf k = p.gf k := rfl
@[simp] theorem Pip.vf_clearG (p : Pip) (r : Reg) (k : Reg4) : (p.clearG r).vf k = p.vf k := by simp [Pip.vf]
@[simp] theorem Pip.gf_clearV (p : Pip) (r : Reg4) (k : Reg) : (p.clearV r).gf k = p.gf k := rfl
@[simp] theorem Pip.gf_setSteer (p : Pip) (n : Nat) (x : Steer) (k : Reg) : (p.setSteer n x).gf k = p.gf k := by simp [Pip.gf]
@[simp] theorem Pip.vf_setSteer (p : Pip) (n : Nat) (x : Steer) (k : Reg4) : (p.setSteer n x).vf k = p.vf k := by simp [Pip.vf]
@[simp] theorem Pip.gf_advance (p : Pip) (k : Reg) : p.advance.gf k = p.gf k := rfl
@[simp] theorem Pip.vf_advance (p : Pip) (k : Reg4) : p.advance.vf k = p.vf k := rfl

/-! ### Steer registers -/

theorem Pip.steer_setSteer (p : Pip) {n : Nat} (k : Nat) (x : Steer) (h : n < 12) :
    (p.setSteer n x).steer k = if k = n then x else p.steer k := by
  unfold Pip.steer Pip.setSteer
  simp only [h, dif_pos]
  by_cases hk : k = n
  · subst hk; simp [h]
  · have h1 : ¬ n = k := fun e => hk e.symm
    by_cases h2 : k < 12
    · simp [hk, h1, h2]
    · simp [hk, h2]

/-! ### The reads of an instruction -/

theorem foldl_field {α β γ : Type} (f : α → β → α) (g : α → γ) (h : ∀ a b, g (f a b) = g a) (l : List β) (a : α) :
    g (l.foldl f a) = g a := by
  induction l generalizing a with
  | nil => rfl
  | cons b l ih => rw [List.foldl_cons, ih, h]

theorem Uses.markRead_field {γ : Type} (g : Pip → γ) (u : Uses) (p : Pip)
    (hd : ∀ (p : Pip) d, g { p with delivered := d } = g p) : g (u.markRead p) = g p := by
  unfold Uses.markRead
  rw [foldl_field _ g (fun p r => hd p _)]

/-- A field that clearing a full bit, marking a delivered value as read and going on leave alone is the same after the reads. -/
theorem Uses.after_field {γ : Type} (g : Pip → γ) (u : Uses) (p : Pip) (hv : ∀ p r, g (Pip.clearV p r) = g p)
    (hg : ∀ p r, g (Pip.clearG p r) = g p) (ha : ∀ p : Pip, g p.advance = g p)
    (hd : ∀ (p : Pip) d, g { p with delivered := d } = g p) : g (u.after p) = g p := by
  unfold Uses.after Uses.read Uses.markRead
  rw [ha, foldl_field _ g hv, foldl_field _ g hg, foldl_field _ g (fun p r => hd p _)]

@[simp] theorem Uses.after_launch (u : Uses) (p : Pip) : (u.after p).launch = p.launch :=
  u.after_field (·.launch) p (fun _ _ => rfl) (fun _ _ => by simp) (fun _ => rfl) (fun _ _ => rfl)
@[simp] theorem Uses.after_heldDebug (u : Uses) (p : Pip) : (u.after p).heldDebug = p.heldDebug :=
  u.after_field (·.heldDebug) p (fun _ _ => rfl) (fun _ _ => by simp) (fun _ => rfl) (fun _ _ => rfl)
@[simp] theorem Uses.after_heldPreempt (u : Uses) (p : Pip) : (u.after p).heldPreempt = p.heldPreempt :=
  u.after_field (·.heldPreempt) p (fun _ _ => rfl) (fun _ _ => by simp) (fun _ => rfl) (fun _ _ => rfl)
@[simp] theorem Uses.after_heldFault (u : Uses) (p : Pip) : (u.after p).heldFault = p.heldFault :=
  u.after_field (·.heldFault) p (fun _ _ => rfl) (fun _ _ => by simp) (fun _ => rfl) (fun _ _ => rfl)
@[simp] theorem Uses.after_g (u : Uses) (p : Pip) : (u.after p).g = p.g :=
  u.after_field (·.g) p (fun _ _ => rfl) (fun _ _ => by simp) (fun _ => rfl) (fun _ _ => rfl)
@[simp] theorem Uses.after_v (u : Uses) (p : Pip) : (u.after p).v = p.v :=
  u.after_field (·.v) p (fun _ _ => rfl) (fun _ _ => by simp) (fun _ => rfl) (fun _ _ => rfl)
@[simp] theorem Uses.after_b (u : Uses) (p : Pip) : (u.after p).b = p.b :=
  u.after_field (·.b) p (fun _ _ => rfl) (fun _ _ => by simp) (fun _ => rfl) (fun _ _ => rfl)
@[simp] theorem Uses.after_status (u : Uses) (p : Pip) : (u.after p).status = p.status :=
  u.after_field (·.status) p (fun _ _ => rfl) (fun _ _ => by simp) (fun _ => rfl) (fun _ _ => rfl)
@[simp] theorem Uses.after_pipid (u : Uses) (p : Pip) : (u.after p).pipid = p.pipid :=
  u.after_field (·.pipid) p (fun _ _ => rfl) (fun _ _ => by simp) (fun _ => rfl) (fun _ _ => rfl)
@[simp] theorem Uses.after_coord (u : Uses) (p : Pip) : (u.after p).coord = p.coord :=
  u.after_field (·.coord) p (fun _ _ => rfl) (fun _ _ => by simp) (fun _ => rfl) (fun _ _ => rfl)
@[simp] theorem Uses.after_extent (u : Uses) (p : Pip) : (u.after p).extent = p.extent :=
  u.after_field (·.extent) p (fun _ _ => rfl) (fun _ _ => by simp) (fun _ => rfl) (fun _ _ => rfl)
@[simp] theorem Uses.after_tcmp (u : Uses) (p : Pip) : (u.after p).tcmp = p.tcmp :=
  u.after_field (·.tcmp) p (fun _ _ => rfl) (fun _ _ => by simp) (fun _ => rfl) (fun _ _ => rfl)
@[simp] theorem Uses.after_tvec (u : Uses) (p : Pip) : (u.after p).tvec = p.tvec :=
  u.after_field (·.tvec) p (fun _ _ => rfl) (fun _ _ => by simp) (fun _ => rfl) (fun _ _ => rfl)
@[simp] theorem Uses.after_tcause (u : Uses) (p : Pip) : (u.after p).tcause = p.tcause :=
  u.after_field (·.tcause) p (fun _ _ => rfl) (fun _ _ => by simp) (fun _ => rfl) (fun _ _ => rfl)
@[simp] theorem Uses.after_tval (u : Uses) (p : Pip) : (u.after p).tval = p.tval :=
  u.after_field (·.tval) p (fun _ _ => rfl) (fun _ _ => by simp) (fun _ => rfl) (fun _ _ => rfl)
@[simp] theorem Uses.after_tpc (u : Uses) (p : Pip) : (u.after p).tpc = p.tpc :=
  u.after_field (·.tpc) p (fun _ _ => rfl) (fun _ _ => by simp) (fun _ => rfl) (fun _ _ => rfl)
@[simp] theorem Uses.after_ipend (u : Uses) (p : Pip) : (u.after p).ipend = p.ipend :=
  u.after_field (·.ipend) p (fun _ _ => rfl) (fun _ _ => by simp) (fun _ => rfl) (fun _ _ => rfl)
@[simp] theorem Uses.after_msg (u : Uses) (p : Pip) : (u.after p).msg = p.msg :=
  u.after_field (·.msg) p (fun _ _ => rfl) (fun _ _ => by simp) (fun _ => rfl) (fun _ _ => rfl)
@[simp] theorem Uses.after_hsave (u : Uses) (p : Pip) : (u.after p).hsave = p.hsave :=
  u.after_field (·.hsave) p (fun _ _ => rfl) (fun _ _ => by simp) (fun _ => rfl) (fun _ _ => rfl)
@[simp] theorem Uses.after_asid (u : Uses) (p : Pip) : (u.after p).asid = p.asid :=
  u.after_field (·.asid) p (fun _ _ => rfl) (fun _ _ => by simp) (fun _ => rfl) (fun _ _ => rfl)
@[simp] theorem Uses.after_fpmode (u : Uses) (p : Pip) : (u.after p).fpmode = p.fpmode :=
  u.after_field (·.fpmode) p (fun _ _ => rfl) (fun _ _ => by simp) (fun _ => rfl) (fun _ _ => rfl)
@[simp] theorem Uses.after_refused (u : Uses) (p : Pip) : (u.after p).refused = p.refused :=
  u.after_field (·.refused) p (fun _ _ => rfl) (fun _ _ => by simp) (fun _ => rfl) (fun _ _ => rfl)
@[simp] theorem Uses.after_engerr (u : Uses) (p : Pip) : (u.after p).engerr = p.engerr :=
  u.after_field (·.engerr) p (fun _ _ => rfl) (fun _ _ => by simp) (fun _ => rfl) (fun _ _ => rfl)
@[simp] theorem Uses.after_refusedVal (u : Uses) (p : Pip) : (u.after p).refusedVal = p.refusedVal :=
  u.after_field (·.refusedVal) p (fun _ _ => rfl) (fun _ _ => by simp) (fun _ => rfl) (fun _ _ => rfl)
@[simp] theorem Uses.after_engerrVal (u : Uses) (p : Pip) : (u.after p).engerrVal = p.engerrVal :=
  u.after_field (·.engerrVal) p (fun _ _ => rfl) (fun _ _ => by simp) (fun _ => rfl) (fun _ _ => rfl)
@[simp] theorem Uses.after_rejectVal (u : Uses) (p : Pip) : (u.after p).rejectVal = p.rejectVal :=
  u.after_field (·.rejectVal) p (fun _ _ => rfl) (fun _ _ => by simp) (fun _ => rfl) (fun _ _ => rfl)
@[simp] theorem Uses.after_ops (u : Uses) (p : Pip) : (u.after p).ops = p.ops :=
  u.after_field (·.ops) p (fun _ _ => rfl) (fun _ _ => by simp) (fun _ => rfl) (fun _ _ => rfl)
@[simp] theorem Uses.after_nextOp (u : Uses) (p : Pip) : (u.after p).nextOp = p.nextOp :=
  u.after_field (·.nextOp) p (fun _ _ => rfl) (fun _ _ => by simp) (fun _ => rfl) (fun _ _ => rfl)
@[simp] theorem Uses.after_deferredTrap (u : Uses) (p : Pip) : (u.after p).deferredTrap = p.deferredTrap :=
  u.after_field (·.deferredTrap) p (fun _ _ => rfl) (fun _ _ => by simp) (fun _ => rfl) (fun _ _ => rfl)
@[simp] theorem Uses.after_messages (u : Uses) (p : Pip) : (u.after p).messages = p.messages :=
  u.after_field (·.messages) p (fun _ _ => rfl) (fun _ _ => by simp) (fun _ => rfl) (fun _ _ => rfl)
@[simp] theorem Uses.after_lastIssue (u : Uses) (p : Pip) : (u.after p).lastIssue = p.lastIssue :=
  u.after_field (·.lastIssue) p (fun _ _ => rfl) (fun _ _ => by simp) (fun _ => rfl) (fun _ _ => rfl)
@[simp] theorem Uses.after_stepping (u : Uses) (p : Pip) : (u.after p).stepping = p.stepping :=
  u.after_field (·.stepping) p (fun _ _ => rfl) (fun _ _ => by simp) (fun _ => rfl) (fun _ _ => rfl)
@[simp] theorem Uses.after_joined (u : Uses) (p : Pip) : (u.after p).joined = p.joined :=
  u.after_field (·.joined) p (fun _ _ => rfl) (fun _ _ => by simp) (fun _ => rfl) (fun _ _ => rfl)
@[simp] theorem Uses.after_stay (u : Uses) (p : Pip) : (u.after p).stay = p.stay :=
  u.after_field (·.stay) p (fun _ _ => rfl) (fun _ _ => by simp) (fun _ => rfl) (fun _ _ => rfl)

@[simp] theorem Uses.after_pc (u : Uses) (p : Pip) : (u.after p).pc = p.pc + 4 := by
  have h : (u.vs.foldl Pip.clearV (u.gs.foldl Pip.clearG (u.markRead p))).pc = p.pc := by
    rw [foldl_field Pip.clearV Pip.pc (fun _ _ => rfl), foldl_field Pip.clearG Pip.pc (fun _ _ => by simp)]
    exact u.markRead_field Pip.pc p (fun _ _ => rfl)
  show _ + 4 = _
  rw [h]

@[simp] theorem Uses.after_cond (u : Uses) (p : Pip) : (u.after p).cond = .ready := rfl
@[simp] theorem Uses.gv_after (u : Uses) (p : Pip) (r : Reg) : (u.after p).gv r = p.gv r := by simp [Pip.gv]
@[simp] theorem Uses.vv_after (u : Uses) (p : Pip) (r : Reg4) : (u.after p).vv r = p.vv r := by simp [Pip.vv]
@[simp] theorem Uses.steer_after (u : Uses) (p : Pip) (n : Nat) : (u.after p).steer n = p.steer n := by simp [Pip.steer]
@[simp] theorem Uses.gBusy_after (u : Uses) (p : Pip) (r : Reg) : (u.after p).gBusy r = p.gBusy r := by simp [Pip.gBusy]
@[simp] theorem Uses.vBusy_after (u : Uses) (p : Pip) (r : Reg4) : (u.after p).vBusy r = p.vBusy r := by simp [Pip.vBusy]

theorem foldl_clearG_gf (l : List Reg) (p : Pip) (r : Reg) :
    (l.foldl Pip.clearG p).gf r = (r == 0 || (p.gf r && !l.contains r)) := by
  induction l generalizing p with
  | nil =>
    by_cases h : r = 0#5
    · subst h; rfl
    · simp [h]
  | cons b l ih =>
    rw [List.foldl_cons, ih, Pip.gf_clearG]
    by_cases h : r = 0#5
    · subst h; rfl
    · by_cases hb : r = b
      · simp [hb, hb ▸ h]
      · have h0 : (r == 0#5) = false := by rw [beq_eq_false_iff_ne]; exact h
        simp [h0, hb]

theorem foldl_clearV_vf (l : List Reg4) (p : Pip) (r : Reg4) : (l.foldl Pip.clearV p).vf r = (p.vf r && !l.contains r) := by
  induction l generalizing p with
  | nil => simp
  | cons b l ih =>
    rw [List.foldl_cons, ih, Pip.vf_clearV]
    by_cases hb : r = b
    · subst hb; simp
    · simp [hb]

/-- The full bits after the reads: those read with `.s` are empty, g0 apart (R31). -/
theorem Uses.gf_after (u : Uses) (p : Pip) (r : Reg) : (u.after p).gf r = (r == 0 || (p.gf r && !u.gs.contains r)) := by
  unfold Uses.after Uses.read
  rw [Pip.gf_advance, foldl_field Pip.clearV (fun p : Pip => p.gf r) (fun _ _ => rfl), foldl_clearG_gf,
    u.markRead_field (fun p : Pip => p.gf r) p (fun _ _ => rfl)]

theorem Uses.vf_after (u : Uses) (p : Pip) (r : Reg4) : (u.after p).vf r = (p.vf r && !u.vs.contains r) := by
  unfold Uses.after Uses.read
  rw [Pip.vf_advance, foldl_clearV_vf, foldl_field Pip.clearG (fun p : Pip => p.vf r) (fun _ _ => by simp),
    u.markRead_field (fun p : Pip => p.vf r) p (fun _ _ => rfl)]

end Sys2Proof.Machine
end

