-- ==== Sys2Proof/Laws/Words.lean ====
section
/-! SUPPORT. The operations on n-bit patterns of chapter 13 in terms of bit vectors (R160). -/

namespace Sys2Proof.Machine

theorem sextInt_eq (x n : Nat) : sextInt x n = (BitVec.ofNat n x).toInt := by
  unfold sextInt
  rcases Nat.eq_zero_or_pos n with rfl | hn
  · simp [BitVec.toInt_zero_length]
  · have h : n ≠ 0 := by omega
    simp only [h, if_false, BitVec.toInt_eq_toNat_cond, BitVec.toNat_ofNat]
    have h2 : 2 ^ n = 2 * 2 ^ (n - 1) := by
      rw [← Nat.pow_succ', Nat.succ_eq_add_one, Nat.sub_add_cancel hn]
    by_cases hc : x % 2 ^ n < 2 ^ (n - 1)
    · rw [if_pos hc, if_pos (by omega)]
    · rw [if_neg hc, if_neg (by omega)]

theorem sextInt_toNat {n : Nat} (x : BitVec n) : sextInt x.toNat n = x.toInt := by
  rw [sextInt_eq, BitVec.ofNat_toNat, BitVec.setWidth_eq]

theorem wrapInt_eq (x : Int) (n : Nat) : wrapInt x n = (BitVec.ofInt n x).toNat := by
  simp [wrapInt, BitVec.toNat_ofInt]

theorem sextWord_eq (x n : Nat) : sextWord x n = (BitVec.ofNat n x).signExtend 64 := by
  simp [sextWord, sextInt_eq, BitVec.signExtend]

theorem byWidth_eq {f : Nat → Nat → Nat → Nat} {g : (n : Nat) → BitVec n → BitVec n → BitVec n}
    (h : ∀ n, n = 32 ∨ n = 64 → ∀ x y : BitVec n, f n x.toNat y.toNat = (g n x y).toNat) (w : Bit) (a b : Word) :
    byWidth w f a b = atWidth w g a b := by
  unfold byWidth atWidth
  split
  · have := h 32 (.inl rfl) (a.setWidth 32) (b.setWidth 32)
    simp only [BitVec.toNat_setWidth] at this
    rw [this, sextWord_eq, BitVec.ofNat_toNat, BitVec.setWidth_eq]
  · rw [h 64 (.inr rfl) a b, word, BitVec.ofNat_toNat, BitVec.setWidth_eq]

end Sys2Proof.Machine
end

