-- ==== Sys2Proof/Laws/Alu.lean ====
section
/-! SUPPORT. The shapes of the integer instructions, and each of their operations on patterns as the operation on bit vectors that
it is (R160, R364, R390, R401, R402, R419). -/

namespace Sys2Proof.Machine

section
variable {f : Nat → Nat → Nat → Nat} {g : (n : Nat) → BitVec n → BitVec n → BitVec n}
/-- An instruction of two registers writes what its function on bit vectors says. -/
theorem writesOfTwo_of {mk : Bit → Bit → Bit → Reg → Reg → Reg → Instr}
    (he : ∀ w y x b a d s, exec (mk w y x b a d) s = aluR (mk w y x b a d) w y x b a d f s)
    (hf : ∀ n, n = 32 ∨ n = 64 → ∀ x y : BitVec n, f n x.toNat y.toNat = (g n x y).toNat) : WritesOfTwo mk g := by
  intro w y x b a d s p h
  rw [he]; unfold aluR; rw [runPure_ready h, byWidth_eq hf]
/-- The same with an immediate. -/
theorem writesOfImm_of {mk : Bit → Bit → BitVec 12 → Reg → Reg → Instr}
    (he : ∀ w x i a d s, exec (mk w x i a d) s = aluI (mk w x i a d) w x i a d f s)
    (hf : ∀ n, n = 32 ∨ n = 64 → ∀ x y : BitVec n, f n x.toNat y.toNat = (g n x y).toNat) : WritesOfImm mk g := by
  intro w x i a d s p h
  rw [he]; unfold aluI; rw [runPure_ready h, byWidth_eq hf]; rfl
/-- The same in the full-bit class. -/
theorem computesOfTwo_of {mk : Bit → Bit → Bit → Reg → Reg → Reg → Instr}
    (he : ∀ w y x b a d s, exec (mk w y x b a d) s = aluF (mk w y x b a d) w y x b a d f s)
    (hf : ∀ n, n = 32 ∨ n = 64 → ∀ x y : BitVec n, f n x.toNat y.toNat = (g n x y).toNat) : ComputesOfTwo mk g := by
  intro w y x b a d s p h
  rw [he]; unfold aluF runResult; rw [runEntry_ready h]; simp only [byWidth_eq hf]; rfl
end
theorem subPattern_eq (n : Nat) (_ : n = 32 ∨ n = 64) (u v : BitVec n) : (u.toNat + 2^n - v.toNat) % 2^n = (u - v).toNat := by
  have := u.isLt; have := v.isLt
  simp only [BitVec.toNat_sub]
  congr 1; omega
theorem addPattern_eq (n : Nat) (_ : n = 32 ∨ n = 64) (u v : BitVec n) : (u.toNat + v.toNat) % 2^n = (u + v).toNat := by simp
theorem mulPattern_eq (n : Nat) (_ : n = 32 ∨ n = 64) (u v : BitVec n) : (u.toNat * v.toNat) % 2^n = (u * v).toNat := by simp
theorem andPattern_eq (n : Nat) (_ : n = 32 ∨ n = 64) (u v : BitVec n) : (u.toNat &&& v.toNat) = (u &&& v).toNat := by simp
theorem orPattern_eq (n : Nat) (_ : n = 32 ∨ n = 64) (u v : BitVec n) : (u.toNat ||| v.toNat) = (u ||| v).toNat := by simp
theorem xorPattern_eq (n : Nat) (_ : n = 32 ∨ n = 64) (u v : BitVec n) : (u.toNat ^^^ v.toNat) = (u ^^^ v).toNat := by simp
theorem shlN_eq (n : Nat) (_ : n = 32 ∨ n = 64) (u v : BitVec n) : shlN n u.toNat v.toNat = (u <<< (v.toNat % n)).toNat := by
  simp [shlN, BitVec.toNat_shiftLeft, Nat.shiftLeft_eq]
theorem shrN_eq (n : Nat) (_ : n = 32 ∨ n = 64) (u v : BitVec n) : shrN n u.toNat v.toNat = (u >>> (v.toNat % n)).toNat := by
  simp [shrN, BitVec.toNat_ushiftRight, Nat.shiftRight_eq_div_pow]
theorem sraN_eq (n : Nat) (_ : n = 32 ∨ n = 64) (u v : BitVec n) : sraN n u.toNat v.toNat = (u.sshiftRight (v.toNat % n)).toNat := by
  rw [sraN, sextInt_toNat, wrapInt_eq, BitVec.sshiftRight, Int.shiftRight_eq_div_pow]
theorem rotN_eq (n : Nat) (hn : n = 32 ∨ n = 64) (u v : BitVec n) : rotN n u.toNat v.toNat = (u.rotateLeft (v.toNat % n)).toNat := by
  have hlt : v.toNat % n < n := Nat.mod_lt _ (by omega)
  rw [BitVec.rotateLeft, BitVec.rotateLeftAux, Nat.mod_eq_of_lt hlt, rotN]
  have h : (u <<< (v.toNat % n)) &&& (u >>> (n - v.toNat % n)) = 0#n := by
    ext i hi
    simp only [BitVec.getElem_and, BitVec.getElem_shiftLeft, BitVec.getElem_ushiftRight, BitVec.getElem_zero]
    by_cases h1 : i < v.toNat % n
    · simp [h1]
    · have : u.getLsbD (n - v.toNat % n + i) = false := BitVec.getLsbD_of_ge _ _ (by omega)
      simp [this]
  rw [← BitVec.add_eq_or_of_and_eq_zero _ _ h, BitVec.toNat_add_of_and_eq_zero h]
  simp [BitVec.toNat_shiftLeft, Nat.shiftLeft_eq, BitVec.toNat_ushiftRight, Nat.shiftRight_eq_div_pow]

theorem writesOfOne_of {f : Nat → Nat → Nat} {g : (n : Nat) → BitVec n → BitVec n} {mk : Bit → Bit → Reg → Reg → Instr}
    (he : ∀ w x a d s, exec (mk w x a d) s = runPure (mk w x a d) (usesA x a d) s
      (fun p q => q.setG d (byWidth w (fun n a _ => f n a) (p.gv a) 0)))
    (hf : ∀ n, n = 32 ∨ n = 64 → ∀ x : BitVec n, f n x.toNat = (g n x).toNat) : WritesOfOne mk g := by
  intro w x a d s p h
  rw [he, runPure_ready h, byWidth_eq (g := fun n u _ => g n u) (fun n hn u _ => hf n hn u)]

theorem emod_sq_ediv (z a : Int) (ha : 0 < a) : z % (a * a) / a % a = z / a % a := by
  have h : z % (a * a) = z - a * (a * (z / (a * a))) := by rw [Int.emod_def, Int.mul_assoc]
  rw [h, Int.sub_mul_ediv_left z (a * (z / (a * a))) (by omega), Int.sub_mul_emod_self_left]

theorem mulhS_eq (n : Nat) (_ : n = 32 ∨ n = 64) (u v : BitVec n) :
    mulhS n u.toNat v.toNat = ((u.signExtend (2 * n) * v.signExtend (2 * n)).extractLsb' n n).toNat := by
  rw [mulhS, sextInt_toNat, sextInt_toNat]
  have h : u.signExtend (2 * n) * v.signExtend (2 * n) = BitVec.ofInt (2 * n) (u.toInt * v.toInt) := by
    simp [BitVec.signExtend, BitVec.ofInt_mul]
  rw [h]
  have h2 : (2:Nat) ^ (2 * n) = 2 ^ n * 2 ^ n := by rw [Nat.two_mul, Nat.pow_add]
  simp only [BitVec.extractLsb'_toNat, BitVec.toNat_ofInt, Nat.shiftRight_eq_div_pow, wrapInt, h2]
  have hpos : (0 : Int) < ((2 ^ n : Nat) : Int) := Int.ofNat_lt.mpr (Nat.two_pow_pos n)
  rw [Int.natCast_mul, ← emod_sq_ediv _ _ hpos]
  obtain ⟨m, hm⟩ := Int.eq_ofNat_of_zero_le
    (Int.emod_nonneg (u.toInt * v.toInt) (Int.ne_of_gt (Int.mul_pos hpos hpos)))
  rw [hm, ← Int.natCast_ediv, ← Int.natCast_emod]
  rfl

theorem mulhU_eq (n : Nat) (_ : n = 32 ∨ n = 64) (u v : BitVec n) :
    mulhU n u.toNat v.toNat = ((u.setWidth (2 * n) * v.setWidth (2 * n)).extractLsb' n n).toNat := by
  have hu := u.isLt; have hv := v.isLt
  have hp : u.toNat * v.toNat < 2 ^ n * 2 ^ n := Nat.mul_lt_mul'' hu hv
  have h2 : (2:Nat) ^ (2 * n) = 2 ^ n * 2 ^ n := by rw [Nat.two_mul, Nat.pow_add]
  have hpos : 0 < 2 ^ n := Nat.two_pow_pos n
  have hle : 2 ^ n ≤ 2 ^ n * 2 ^ n := Nat.le_mul_of_pos_left _ hpos
  simp only [mulhU, BitVec.extractLsb'_toNat, BitVec.toNat_mul, BitVec.toNat_setWidth, Nat.shiftRight_eq_div_pow, h2]
  rw [Nat.mod_eq_of_lt (Nat.lt_of_lt_of_le hu hle), Nat.mod_eq_of_lt (Nat.lt_of_lt_of_le hv hle), Nat.mod_eq_of_lt hp,
    Nat.mod_eq_of_lt (Nat.div_lt_of_lt_mul hp)]

theorem minS_eq (n : Nat) (_ : n = 32 ∨ n = 64) (u v : BitVec n) : minS n u.toNat v.toNat = (if v.slt u then v else u).toNat := by
  simp only [minS, sextInt_toNat, BitVec.slt_iff_toInt_lt]; split <;> rfl
theorem maxS_eq (n : Nat) (_ : n = 32 ∨ n = 64) (u v : BitVec n) : maxS n u.toNat v.toNat = (if u.slt v then v else u).toNat := by
  simp only [maxS, sextInt_toNat, BitVec.slt_iff_toInt_lt]; split <;> rfl
theorem minU_eq (n : Nat) (_ : n = 32 ∨ n = 64) (u v : BitVec n) :
    (if v.toNat < u.toNat then v.toNat else u.toNat) = (if v.ult u then v else u).toNat := by
  simp only [BitVec.ult, decide_eq_true_eq]; split <;> rfl
theorem maxU_eq (n : Nat) (_ : n = 32 ∨ n = 64) (u v : BitVec n) :
    (if u.toNat < v.toNat then v.toNat else u.toNat) = (if u.ult v then v else u).toNat := by
  simp only [BitVec.ult, decide_eq_true_eq]; split <;> rfl

/-! ### Bit counts -/

theorem takeWhile_length {p : Nat → Bool} {n m : Nat} (hm : m ≤ n) (h1 : ∀ i < m, p i = true) (h2 : m < n → p m = false) :
    ((List.range n).takeWhile p).length = m := by
  induction n generalizing m p with
  | zero => simp; omega
  | succ n ih =>
    rw [List.range_succ_eq_map, List.takeWhile_cons]
    cases m with
    | zero => rw [h2 (by omega)]; rfl
    | succ m =>
      rw [h1 0 (by omega), List.takeWhile_map]
      simp only [if_true, List.length_cons, List.length_map, Nat.add_right_cancel_iff]
      exact ih (by omega) (fun i hi => h1 (i + 1) (by omega)) (fun h => h2 (by omega))

theorem clzN_eq (n : Nat) (_ : n = 32 ∨ n = 64) (u : BitVec n) :
    clzN n u.toNat = (BitVec.ofNat n (((List.range n).takeWhile (fun i => !u.getLsbD (n - 1 - i))).length)).toNat := by
  have hlt : ∀ m, m ≤ n → m < 2 ^ n := fun m hm => Nat.lt_of_le_of_lt hm Nat.lt_two_pow_self
  unfold clzN
  by_cases h : u.toNat = 0
  · have hu : u = 0#n := BitVec.eq_of_toNat_eq (by simpa using h)
    rw [if_pos h, takeWhile_length (m := n) (Nat.le_refl _) (fun i _ => by simp [hu]) (fun h => absurd h (by omega)),
      BitVec.toNat_ofNat, Nat.mod_eq_of_lt (hlt n (Nat.le_refl _))]
  · have hl : u.toNat.log2 < n := (Nat.log2_lt h).mpr u.isLt
    rw [if_neg h, takeWhile_length (m := n - 1 - u.toNat.log2) (by omega), BitVec.toNat_ofNat, Nat.mod_eq_of_lt (hlt _ (by omega))]
    · intro i hi
      rw [Bool.not_eq_true', ← BitVec.testBit_toNat]
      exact Nat.testBit_lt_two_pow ((Nat.log2_lt h).mp (by omega))
    · intro _
      have : n - 1 - (n - 1 - u.toNat.log2) = u.toNat.log2 := by omega
      rw [this, ← BitVec.testBit_toNat, Nat.testBit_log2 h]; rfl

theorem ctzN_le (n a : Nat) : ctzN n a ≤ n := by
  induction n generalizing a with
  | zero => simp [ctzN]
  | succ n ih => have := ih (a / 2); unfold ctzN; split <;> omega

theorem ctzN_below (n a i : Nat) (h : i < ctzN n a) : a.testBit i = false := by
  induction n generalizing a i with
  | zero => simp [ctzN] at h
  | succ n ih =>
    unfold ctzN at h
    split at h
    · omega
    · cases i with
      | zero => simp [Nat.testBit_zero]; omega
      | succ i => rw [Nat.testBit_succ]; exact ih _ _ (by omega)

theorem ctzN_at (n a : Nat) (h : ctzN n a < n) : a.testBit (ctzN n a) = true := by
  induction n generalizing a with
  | zero => omega
  | succ n ih =>
    unfold ctzN at h ⊢
    split
    · simp [Nat.testBit_zero]; omega
    · rename_i h1
      rw [if_neg h1] at h
      rw [Nat.add_comm, Nat.testBit_succ]; exact ih _ (by omega)

theorem ctzN_eq (n : Nat) (_ : n = 32 ∨ n = 64) (u : BitVec n) :
    ctzN n u.toNat = (BitVec.ofNat n (((List.range n).takeWhile (fun i => !u.getLsbD i)).length)).toNat := by
  rw [takeWhile_length (m := ctzN n u.toNat) (ctzN_le _ _), BitVec.toNat_ofNat,
    Nat.mod_eq_of_lt (Nat.lt_of_le_of_lt (ctzN_le _ _) Nat.lt_two_pow_self)]
  · intro i hi; rw [← BitVec.testBit_toNat, ctzN_below _ _ _ hi]; rfl
  · intro h; rw [← BitVec.testBit_toNat, ctzN_at _ _ h]; rfl

theorem popN_count (n a : Nat) : popN n a = (List.range n).countP (fun i => a.testBit i) := by
  induction n generalizing a with
  | zero => rfl
  | succ n ih =>
    rw [List.range_succ_eq_map, List.countP_cons, List.countP_map, popN, ih]
    have : ((fun i => a.testBit i) ∘ Nat.succ) = fun i => (a / 2).testBit i := by
      funext i; exact Nat.testBit_succ a i
    rw [this, Nat.testBit_zero]
    rcases Nat.mod_two_eq_zero_or_one a with h | h <;> simp [h]; omega

theorem popN_eq (n : Nat) (_ : n = 32 ∨ n = 64) (u : BitVec n) :
    popN n u.toNat = (BitVec.ofNat n ((List.range n).countP (fun i => u.getLsbD i))).toNat := by
  have : (fun i => u.getLsbD i) = fun i => u.toNat.testBit i := by funext i; rw [BitVec.testBit_toNat]
  rw [popN_count, this, BitVec.toNat_ofNat, Nat.mod_eq_of_lt]
  refine Nat.lt_of_le_of_lt List.countP_le_length ?_
  rw [List.length_range]; exact Nat.lt_two_pow_self

/-! ### Division -/

theorem divS_eq (n : Nat) (_ : n = 32 ∨ n = 64) (u v : BitVec n) :
    divS n u.toNat v.toNat = (if v = 0 then BitVec.allOnes n else u.sdiv v).toNat := by
  have h : v.toNat = 0 ↔ v = 0 := ⟨fun h => BitVec.eq_of_toNat_eq (by simpa using h), fun h => by rw [h]; simp⟩
  unfold divS
  split <;> rename_i h0
  · rw [if_pos (h.mp h0), BitVec.toNat_allOnes]
  · rw [if_neg (fun e => h0 (h.mpr e)), sextInt_toNat, sextInt_toNat, wrapInt_eq]
    congr 1
    apply BitVec.eq_of_toInt_eq
    rw [BitVec.toInt_ofInt, BitVec.toInt_sdiv]

theorem divU_eq (n : Nat) (_ : n = 32 ∨ n = 64) (u v : BitVec n) :
    divU n u.toNat v.toNat = (if v = 0 then BitVec.allOnes n else u.udiv v).toNat := by
  have h : v.toNat = 0 ↔ v = 0 := ⟨fun h => BitVec.eq_of_toNat_eq (by simpa using h), fun h => by rw [h]; simp⟩
  unfold divU
  split <;> rename_i h0
  · rw [if_pos (h.mp h0), BitVec.toNat_allOnes]
  · rw [if_neg (fun e => h0 (h.mpr e))]; rfl

theorem remS_eq (n : Nat) (_ : n = 32 ∨ n = 64) (u v : BitVec n) :
    remS n u.toNat v.toNat = (if v = 0 then u else u.srem v).toNat := by
  have h : v.toNat = 0 ↔ v = 0 := ⟨fun h => BitVec.eq_of_toNat_eq (by simpa using h), fun h => by rw [h]; simp⟩
  unfold remS
  split <;> rename_i h0
  · rw [if_pos (h.mp h0)]
  · rw [if_neg (fun e => h0 (h.mpr e)), sextInt_toNat, sextInt_toNat, wrapInt_eq, ← BitVec.toInt_srem, BitVec.ofInt_toInt]

theorem remU_eq (n : Nat) (_ : n = 32 ∨ n = 64) (u v : BitVec n) :
    remU n u.toNat v.toNat = (if v = 0 then u else u.umod v).toNat := by
  have h : v.toNat = 0 ↔ v = 0 := ⟨fun h => BitVec.eq_of_toNat_eq (by simpa using h), fun h => by rw [h]; simp⟩
  unfold remU
  split <;> rename_i h0
  · rw [if_pos (h.mp h0)]
  · rw [if_neg (fun e => h0 (h.mpr e))]; rfl

theorem sdiv_ofInt {n : Nat} (u v : BitVec n) : u.sdiv v = BitVec.ofInt n (u.toInt.tdiv v.toInt) := by
  apply BitVec.eq_of_toInt_eq; rw [BitVec.toInt_ofInt, BitVec.toInt_sdiv]

theorem srem_ofInt {n : Nat} (u v : BitVec n) : u.srem v = BitVec.ofInt n (u.toInt.tmod v.toInt) := by
  rw [← BitVec.toInt_srem, BitVec.ofInt_toInt]

/-- The dividend is the quotient times the divisor plus the remainder. -/
theorem sdiv_mul_add_srem {n : Nat} (u v : BitVec n) : u.sdiv v * v + u.srem v = u := by
  have hv : v = BitVec.ofInt n v.toInt := BitVec.ofInt_toInt.symm
  rw [sdiv_ofInt, srem_ofInt]
  conv => lhs; arg 1; arg 2; rw [hv]
  rw [← BitVec.ofInt_mul, ← BitVec.ofInt_add, Int.mul_comm, Int.mul_tdiv_add_tmod, BitVec.ofInt_toInt]

theorem udiv_mul_add_umod {n : Nat} (u v : BitVec n) : u.udiv v * v + u.umod v = u := by
  apply BitVec.eq_of_toNat_eq
  have := Nat.div_add_mod u.toNat v.toNat
  rw [BitVec.toNat_add, BitVec.toNat_mul]
  simp [Nat.mul_comm, this]

/-! ### Fields of a word -/

/-- Replacing a field replaces its bits and no other. -/
theorem setField_bit (x : Word) (lo n v k : Nat) (h : lo + n ≤ 64) :
    (setField x lo n v).getLsbD k = if lo ≤ k ∧ k < lo + n then v.testBit (k - lo) else x.getLsbD k := by
  by_cases hk : k < 64
  · have hd := Nat.div_add_mod x.toNat (2 ^ lo)
    have hd2 := Nat.div_add_mod (x.toNat / 2 ^ lo) (2 ^ n)
    have hm := Nat.mod_lt x.toNat (Nat.two_pow_pos lo)
    have he : x.toNat - fieldOf x lo n * 2 ^ lo + v % 2 ^ n * 2 ^ lo =
        2 ^ lo * (2 ^ n * (x.toNat / 2 ^ lo / 2 ^ n) + v % 2 ^ n) + x.toNat % 2 ^ lo := by
      unfold fieldOf
      rw [Nat.mul_add, Nat.mul_comm (v % 2 ^ n)]
      conv => lhs; arg 1; arg 1; rw [← hd, ← hd2]
      rw [Nat.mul_add, Nat.mul_comm (x.toNat / 2 ^ lo % 2 ^ n)]
      omega
    have hx : x.getLsbD k = (2 ^ lo * (x.toNat / 2 ^ lo) + x.toNat % 2 ^ lo).testBit k := by rw [hd]; rfl
    simp only [setField, word, BitVec.getLsbD_ofNat, hk, decide_true, Bool.true_and]
    rw [he, hx, Nat.testBit_two_pow_mul_add _ hm, Nat.testBit_two_pow_mul_add _ hm]
    by_cases h1 : k < lo
    · rw [if_pos h1, if_pos h1, if_neg (by omega)]
    · rw [if_neg h1, if_neg h1, Nat.testBit_two_pow_mul_add _ (Nat.mod_lt _ (Nat.two_pow_pos n))]
      by_cases h2 : k < lo + n
      · rw [if_pos (by omega), if_pos ⟨by omega, h2⟩, Nat.testBit_mod_two_pow, decide_eq_true (by omega), Bool.true_and]
      · rw [if_neg (by omega), if_neg (by omega), Nat.testBit_div_two_pow]
        congr 1; omega
  · rw [if_neg (by omega), BitVec.getLsbD_of_ge _ _ (by omega), BitVec.getLsbD_of_ge _ _ (by omega)]

end Sys2Proof.Machine
end

