-- ==== Sys2Proof/Laws/Entry.lean ====
section
/-! SUPPORT. Every instruction of a pip is examined by `runEntry` with the registers that `Instr.uses` lists. -/

namespace Sys2Proof.Machine

/-- The meaning of an instruction of a pip is an entry under `runEntry`. -/
theorem exec_runEntry {i : Instr} {u : Uses} {s : State} {p : Pip} (hp : s.pip s.cur = some p) (hu : i.uses p = some u) :
    ∃ entry, exec i s = runEntry i u s entry := by
  cases i <;> simp only [Instr.uses, Option.some.injEq, reduceCtorEq] at hu
  case nop =>
    subst hu; apply Exists.intro; show execNop  s = _; unfold execNop runPure; rfl
  case clz x0 x1 x2 x3 =>
    subst hu; apply Exists.intro; show execClz x0 x1 x2 x3 s = _; unfold execClz runPure; rfl
  case ctz x0 x1 x2 x3 =>
    subst hu; apply Exists.intro; show execCtz x0 x1 x2 x3 s = _; unfold execCtz runPure; rfl
  case popc x0 x1 x2 x3 =>
    subst hu; apply Exists.intro; show execPopc x0 x1 x2 x3 s = _; unfold execPopc runPure; rfl
  case ext x0 x1 x2 x3 =>
    subst hu; apply Exists.intro; show execExt x0 x1 x2 x3 s = _; unfold execExt runPure; rfl
  case hash x0 x1 x2 x3 x4 x5 =>
    subst hu; apply Exists.intro; show execHash x0 x1 x2 x3 x4 x5 s = _; unfold execHash runPure; rfl
  case sel x0 x1 x2 x3 x4 x5 x6 =>
    subst hu; apply Exists.intro; show execSel x0 x1 x2 x3 x4 x5 x6 s = _; unfold execSel runPure; rfl
  case bfx x0 x1 x2 x3 x4 =>
    subst hu; apply Exists.intro; show execBfx x0 x1 x2 x3 x4 s = _; unfold execBfx runPure; rfl
  case bfi x0 x1 x2 x3 x4 =>
    subst hu; apply Exists.intro; show execBfi x0 x1 x2 x3 x4 s = _; unfold execBfi runPure; rfl
  case li x0 x1 =>
    subst hu; apply Exists.intro; show execLi x0 x1 s = _; unfold execLi runPure; rfl
  case lih x0 x1 x2 =>
    subst hu; apply Exists.intro; show execLih x0 x1 x2 s = _; unfold execLih runPure; rfl
  case cmp x0 x1 x2 x3 =>
    subst hu; apply Exists.intro; show execCmp x0 x1 x2 x3 s = _; unfold execCmp runPure; rfl
  case cmpI x0 x1 x2 x3 =>
    subst hu; apply Exists.intro; show execCmpI x0 x1 x2 x3 s = _; unfold execCmpI runPure; rfl
  case fcmp x0 x1 x2 x3 x4 =>
    subst hu; apply Exists.intro; show execFcmp x0 x1 x2 x3 x4 s = _; unfold execFcmp runPure; rfl
  case fcvt x0 x1 x2 x3 x4 x5 x6 =>
    subst hu; apply Exists.intro; show execFcvt x0 x1 x2 x3 x4 x5 x6 s = _; unfold execFcvt runPure; rfl
  case ffma x0 x1 x2 x3 x4 x5 x6 =>
    subst hu; apply Exists.intro; show execFfma x0 x1 x2 x3 x4 x5 x6 s = _; unfold execFfma runPure; rfl
  case vfma x0 x1 x2 x3 x4 x5 =>
    subst hu; apply Exists.intro; show execVfma x0 x1 x2 x3 x4 x5 s = _; unfold execVfma runPure; rfl
  case vcvt x0 x1 x2 x3 x4 x5 =>
    subst hu; apply Exists.intro; show execVcvt x0 x1 x2 x3 x4 x5 s = _; unfold execVcvt runPure; rfl
  case vcmp x0 x1 x2 x3 x4 x5 x6 x7 =>
    subst hu; apply Exists.intro; show execVcmp x0 x1 x2 x3 x4 x5 x6 x7 s = _; unfold execVcmp runPure; rfl
  case vsel x0 x1 x2 x3 x4 x5 x6 =>
    subst hu; apply Exists.intro; show execVsel x0 x1 x2 x3 x4 x5 x6 s = _; unfold execVsel runPure; rfl
  case vperm x0 x1 x2 x3 x4 x5 =>
    subst hu; apply Exists.intro; show execVperm x0 x1 x2 x3 x4 x5 s = _; unfold execVperm runPure; rfl
  case vmaxi x0 x1 x2 x3 x4 x5 =>
    subst hu; apply Exists.intro; show execVmaxi x0 x1 x2 x3 x4 x5 s = _; unfold execVmaxi runPure; rfl
  case vbcast x0 x1 x2 =>
    subst hu; apply Exists.intro; show execVbcast x0 x1 x2 s = _; unfold execVbcast runPure; rfl
  case vmov x0 x1 x2 x3 =>
    subst hu; apply Exists.intro; show execVmov x0 x1 x2 x3 s = _; unfold execVmov runPure; rfl
  case vmovIns x0 x1 x2 x3 =>
    subst hu; apply Exists.intro; show execVmovIns x0 x1 x2 x3 s = _; unfold execVmovIns runPure; rfl
  case vmovExt x0 x1 x2 x3 =>
    subst hu; apply Exists.intro; show execVmovExt x0 x1 x2 x3 s = _; unfold execVmovExt runPure; rfl
  case vcomp x0 x1 x2 x3 x4 x5 =>
    subst hu; apply Exists.intro; show execVcomp x0 x1 x2 x3 x4 x5 s = _; unfold execVcomp runPure; rfl
  case add x0 x1 x2 x3 x4 x5 =>
    subst hu; apply Exists.intro; show execAdd x0 x1 x2 x3 x4 x5 s = _; unfold execAdd aluR runPure; rfl
  case sub x0 x1 x2 x3 x4 x5 =>
    subst hu; apply Exists.intro; show execSub x0 x1 x2 x3 x4 x5 s = _; unfold execSub aluR runPure; rfl
  case mul x0 x1 x2 x3 x4 x5 =>
    subst hu; apply Exists.intro; show execMul x0 x1 x2 x3 x4 x5 s = _; unfold execMul aluR runPure; rfl
  case mulh x0 x1 x2 x3 x4 x5 =>
    subst hu; apply Exists.intro; show execMulh x0 x1 x2 x3 x4 x5 s = _; unfold execMulh aluR runPure; rfl
  case mulhZ x0 x1 x2 x3 x4 x5 =>
    subst hu; apply Exists.intro; show execMulhZ x0 x1 x2 x3 x4 x5 s = _; unfold execMulhZ aluR runPure; rfl
  case and x0 x1 x2 x3 x4 x5 =>
    subst hu; apply Exists.intro; show execAnd x0 x1 x2 x3 x4 x5 s = _; unfold execAnd aluR runPure; rfl
  case or x0 x1 x2 x3 x4 x5 =>
    subst hu; apply Exists.intro; show execOr x0 x1 x2 x3 x4 x5 s = _; unfold execOr aluR runPure; rfl
  case xor x0 x1 x2 x3 x4 x5 =>
    subst hu; apply Exists.intro; show execXor x0 x1 x2 x3 x4 x5 s = _; unfold execXor aluR runPure; rfl
  case shl x0 x1 x2 x3 x4 x5 =>
    subst hu; apply Exists.intro; show execShl x0 x1 x2 x3 x4 x5 s = _; unfold execShl aluR runPure; rfl
  case shr x0 x1 x2 x3 x4 x5 =>
    subst hu; apply Exists.intro; show execShr x0 x1 x2 x3 x4 x5 s = _; unfold execShr aluR runPure; rfl
  case sra x0 x1 x2 x3 x4 x5 =>
    subst hu; apply Exists.intro; show execSra x0 x1 x2 x3 x4 x5 s = _; unfold execSra aluR runPure; rfl
  case rot x0 x1 x2 x3 x4 x5 =>
    subst hu; apply Exists.intro; show execRot x0 x1 x2 x3 x4 x5 s = _; unfold execRot aluR runPure; rfl
  case min x0 x1 x2 x3 x4 x5 =>
    subst hu; apply Exists.intro; show execMin x0 x1 x2 x3 x4 x5 s = _; unfold execMin aluR runPure; rfl
  case minZ x0 x1 x2 x3 x4 x5 =>
    subst hu; apply Exists.intro; show execMinZ x0 x1 x2 x3 x4 x5 s = _; unfold execMinZ aluR runPure; rfl
  case max x0 x1 x2 x3 x4 x5 =>
    subst hu; apply Exists.intro; show execMax x0 x1 x2 x3 x4 x5 s = _; unfold execMax aluR runPure; rfl
  case maxZ x0 x1 x2 x3 x4 x5 =>
    subst hu; apply Exists.intro; show execMaxZ x0 x1 x2 x3 x4 x5 s = _; unfold execMaxZ aluR runPure; rfl
  case div x0 x1 x2 x3 x4 x5 =>
    subst hu; apply Exists.intro; show execDiv x0 x1 x2 x3 x4 x5 s = _; unfold execDiv aluF runResult; rfl
  case divZ x0 x1 x2 x3 x4 x5 =>
    subst hu; apply Exists.intro; show execDivZ x0 x1 x2 x3 x4 x5 s = _; unfold execDivZ aluF runResult; rfl
  case rem x0 x1 x2 x3 x4 x5 =>
    subst hu; apply Exists.intro; show execRem x0 x1 x2 x3 x4 x5 s = _; unfold execRem aluF runResult; rfl
  case remZ x0 x1 x2 x3 x4 x5 =>
    subst hu; apply Exists.intro; show execRemZ x0 x1 x2 x3 x4 x5 s = _; unfold execRemZ aluF runResult; rfl
  case addI x0 x1 x2 x3 x4 =>
    subst hu; apply Exists.intro; show execAddI x0 x1 x2 x3 x4 s = _; unfold execAddI aluI runPure; rfl
  case andI x0 x1 x2 x3 x4 =>
    subst hu; apply Exists.intro; show execAndI x0 x1 x2 x3 x4 s = _; unfold execAndI aluI runPure; rfl
  case orI x0 x1 x2 x3 x4 =>
    subst hu; apply Exists.intro; show execOrI x0 x1 x2 x3 x4 s = _; unfold execOrI aluI runPure; rfl
  case xorI x0 x1 x2 x3 x4 =>
    subst hu; apply Exists.intro; show execXorI x0 x1 x2 x3 x4 s = _; unfold execXorI aluI runPure; rfl
  case shlI x0 x1 x2 x3 x4 =>
    subst hu; apply Exists.intro; show execShlI x0 x1 x2 x3 x4 s = _; unfold execShlI aluI runPure; rfl
  case shrI x0 x1 x2 x3 x4 =>
    subst hu; apply Exists.intro; show execShrI x0 x1 x2 x3 x4 s = _; unfold execShrI aluI runPure; rfl
  case sraI x0 x1 x2 x3 x4 =>
    subst hu; apply Exists.intro; show execSraI x0 x1 x2 x3 x4 s = _; unfold execSraI aluI runPure; rfl
  case rotI x0 x1 x2 x3 x4 =>
    subst hu; apply Exists.intro; show execRotI x0 x1 x2 x3 x4 s = _; unfold execRotI aluI runPure; rfl
  case mulI x0 x1 x2 x3 x4 =>
    subst hu; apply Exists.intro; show execMulI x0 x1 x2 x3 x4 s = _; unfold execMulI aluI runPure; rfl
  case prep x0 x1 =>
    subst hu; apply Exists.intro; show execPrep x0 x1 s = _; unfold execPrep; rfl
  case prepr x0 x1 x2 =>
    subst hu; apply Exists.intro; show execPrepr x0 x1 x2 s = _; unfold execPrepr; rfl
  case br x0 x1 =>
    subst hu; apply Exists.intro; show execBr x0 x1 s = _; unfold execBr; rfl
  case call x0 =>
    subst hu; apply Exists.intro; show execCall x0 s = _; unfold execCall; rfl
  case ret =>
    subst hu; apply Exists.intro; show execRet  s = _; unfold execRet; rfl
  case fence x0 x1 =>
    subst hu; apply Exists.intro; show execFence x0 x1 s = _; unfold execFence; rfl
  case mark =>
    subst hu; apply Exists.intro; show execMark  s = _; unfold execMark; rfl
  case pref x0 x1 x2 x3 =>
    subst hu; apply Exists.intro; show execPref x0 x1 x2 x3 s = _; unfold execPref; rfl
  case pstat x0 x1 x2 x3 =>
    subst hu; apply Exists.intro; show execPstat x0 x1 x2 x3 s = _; unfold execPstat; rfl
  case pfree x0 x1 x2 =>
    subst hu; apply Exists.intro; show execPfree x0 x1 x2 s = _; unfold execPfree; rfl
  case preset x0 x1 x2 x3 =>
    subst hu; apply Exists.intro; show execPreset x0 x1 x2 x3 s = _; unfold execPreset; rfl
  case bari x0 x1 x2 x3 =>
    subst hu; apply Exists.intro; show execBari x0 x1 x2 x3 s = _; unfold execBari; rfl
  case bara x0 x1 =>
    subst hu; apply Exists.intro; show execBara x0 x1 s = _; unfold execBara; rfl
  case barw x0 x1 =>
    subst hu; apply Exists.intro; show execBarw x0 x1 s = _; unfold execBarw; rfl
  case waitge x0 x1 x2 x3 x4 x5 =>
    subst hu; apply Exists.intro; show execWaitge x0 x1 x2 x3 x4 x5 s = _; unfold execWaitge; rfl
  case sendr x0 x1 x2 x3 x4 =>
    subst hu; apply Exists.intro; show execSendr x0 x1 x2 x3 x4 s = _; unfold execSendr; rfl
  case fork x0 x1 =>
    subst hu; apply Exists.intro; show execFork x0 x1 s = _; unfold execFork; rfl
  case join x0 =>
    subst hu; apply Exists.intro; show execJoin x0 s = _; unfold execJoin; rfl
  case mfs x0 x1 =>
    subst hu; apply Exists.intro; show execMfs x0 x1 s = _; unfold execMfs; rfl
  case done =>
    subst hu; apply Exists.intro; show execDone  s = _; unfold execDone; rfl
  case ecall =>
    subst hu; apply Exists.intro; show execEcall  s = _; unfold execEcall; rfl
  case brk =>
    subst hu; apply Exists.intro; show execBrk  s = _; unfold execBrk; rfl
  case eret =>
    subst hu; apply Exists.intro; show execEret  s = _; unfold execEret; rfl
  case wfi =>
    subst hu; apply Exists.intro; show execWfi  s = _; unfold execWfi; rfl
  case pause =>
    subst hu; apply Exists.intro; show execPause  s = _; unfold execPause; rfl
  case fadd x0 x1 x2 x3 x4 x5 =>
    subst hu; apply Exists.intro; show execFadd x0 x1 x2 x3 x4 x5 s = _; unfold execFadd floatR runPure; rfl
  case fsub x0 x1 x2 x3 x4 x5 =>
    subst hu; apply Exists.intro; show execFsub x0 x1 x2 x3 x4 x5 s = _; unfold execFsub floatR runPure; rfl
  case fmul x0 x1 x2 x3 x4 x5 =>
    subst hu; apply Exists.intro; show execFmul x0 x1 x2 x3 x4 x5 s = _; unfold execFmul floatR runPure; rfl
  case fdiv x0 x1 x2 x3 x4 x5 =>
    subst hu; apply Exists.intro; show execFdiv x0 x1 x2 x3 x4 x5 s = _; unfold execFdiv floatF; rfl
  case fsqrt x0 x1 x2 x3 =>
    subst hu; apply Exists.intro; show execFsqrt x0 x1 x2 x3 s = _; unfold execFsqrt floatF; rfl
  case fmin x0 x1 x2 x3 x4 x5 =>
    subst hu; apply Exists.intro; show execFmin x0 x1 x2 x3 x4 x5 s = _; unfold execFmin floatM runPure; rfl
  case fmax x0 x1 x2 x3 x4 x5 =>
    subst hu; apply Exists.intro; show execFmax x0 x1 x2 x3 x4 x5 s = _; unfold execFmax floatM runPure; rfl
  case ld x0 x1 x2 x3 x4 x5 x6 =>
    subst hu; apply Exists.intro; show execLd x0 x1 x2 x3 x4 x5 x6 s = _; unfold execLd globalAccess; rfl
  case st x0 x1 x2 x3 x4 x5 x6 =>
    subst hu; apply Exists.intro; show execSt x0 x1 x2 x3 x4 x5 x6 s = _; unfold execSt globalAccess; rfl
  case ldv x0 x1 x2 x3 x4 x5 =>
    subst hu; apply Exists.intro; show execLdv x0 x1 x2 x3 x4 x5 s = _; unfold execLdv globalAccess; rfl
  case stv x0 x1 x2 x3 x4 x5 =>
    subst hu; apply Exists.intro; show execStv x0 x1 x2 x3 x4 x5 s = _; unfold execStv globalAccess; rfl
  case ldvx x0 x1 x2 x3 x4 x5 x6 =>
    subst hu; apply Exists.intro; show execLdvx x0 x1 x2 x3 x4 x5 x6 s = _; unfold execLdvx globalAccess; rfl
  case stvx x0 x1 x2 x3 x4 x5 x6 =>
    subst hu; apply Exists.intro; show execStvx x0 x1 x2 x3 x4 x5 x6 s = _; unfold execStvx globalAccess; rfl
  case amo x0 x1 x2 x3 x4 x5 x6 x7 =>
    subst hu; apply Exists.intro; show execAmo x0 x1 x2 x3 x4 x5 x6 x7 s = _; unfold execAmo globalAccess; rfl
  case cas x0 x1 x2 x3 x4 x5 x6 =>
    subst hu; apply Exists.intro; show execCas x0 x1 x2 x3 x4 x5 x6 s = _; unfold execCas globalAccess; rfl
  case red x0 x1 x2 x3 x4 x5 =>
    subst hu; apply Exists.intro; show execRed x0 x1 x2 x3 x4 x5 s = _; unfold execRed globalAccess; rfl
  case cpin x0 x1 x2 x3 =>
    subst hu; apply Exists.intro; show execCpin x0 x1 x2 x3 s = _; unfold execCpin globalAccess; rfl
  case cunpin x0 x1 x2 =>
    subst hu; apply Exists.intro; show execCunpin x0 x1 x2 s = _; unfold execCunpin globalAccess; rfl
  case cflush x0 x1 x2 =>
    subst hu; apply Exists.intro; show execCflush x0 x1 x2 s = _; unfold execCflush globalAccess; rfl
  case ldl x0 x1 x2 x3 x4 x5 x6 =>
    subst hu; apply Exists.intro; show execLdl x0 x1 x2 x3 x4 x5 x6 s = _; unfold execLdl localLoad; rfl
  case ldlv x0 x1 x2 x3 x4 x5 =>
    subst hu; apply Exists.intro; show execLdlv x0 x1 x2 x3 x4 x5 s = _; unfold execLdlv localLoad; rfl
  case stl x0 x1 x2 x3 x4 x5 x6 =>
    subst hu; apply Exists.intro; show execStl x0 x1 x2 x3 x4 x5 x6 s = _; unfold execStl localWrite; rfl
  case stlv x0 x1 x2 x3 x4 x5 =>
    subst hu; apply Exists.intro; show execStlv x0 x1 x2 x3 x4 x5 s = _; unfold execStlv localWrite; rfl
  case amol x0 x1 x2 x3 x4 x5 x6 x7 =>
    subst hu; apply Exists.intro; show execAmol x0 x1 x2 x3 x4 x5 x6 x7 s = _; unfold execAmol localWrite; rfl
  case launch x0 x1 =>
    subst hu; apply Exists.intro; show execLaunch x0 x1 s = _; unfold execLaunch command; rfl
  case copy x0 x1 x2 =>
    subst hu; apply Exists.intro; show execCopy x0 x1 x2 s = _; unfold execCopy command; rfl
  case mcast x0 x1 x2 =>
    subst hu; apply Exists.intro; show execMcast x0 x1 x2 s = _; unfold execMcast command; rfl
  case gatherList x0 x1 =>
    subst hu; apply Exists.intro; show execGatherList x0 x1 s = _; unfold execGatherList command; rfl
  case gatherSpr x0 x1 =>
    subst hu; apply Exists.intro; show execGatherSpr x0 x1 s = _; unfold execGatherSpr command; rfl
  case scatterList x0 x1 =>
    subst hu; apply Exists.intro; show execScatterList x0 x1 s = _; unfold execScatterList command; rfl
  case scatterSpr x0 x1 =>
    subst hu; apply Exists.intro; show execScatterSpr x0 x1 s = _; unfold execScatterSpr command; rfl
  case mergeM0 x0 x1 =>
    subst hu; apply Exists.intro; show execMergeM0 x0 x1 s = _; unfold execMergeM0 command; rfl
  case mergeM1 x0 x1 =>
    subst hu; apply Exists.intro; show execMergeM1 x0 x1 s = _; unfold execMergeM1 command; rfl
  case mergeM2 x0 x1 =>
    subst hu; apply Exists.intro; show execMergeM2 x0 x1 s = _; unfold execMergeM2 command; rfl
  case mergeM3 x0 x1 =>
    subst hu; apply Exists.intro; show execMergeM3 x0 x1 s = _; unfold execMergeM3 command; rfl
  case mtask x0 x1 =>
    subst hu; apply Exists.intro; show execMtask x0 x1 s = _; unfold execMtask command; rfl
  case mload x0 x1 =>
    subst hu; apply Exists.intro; show execMload x0 x1 s = _; unfold execMload command; rfl
  case tinvRange x0 x1 x2 =>
    subst hu; apply Exists.intro; show execTinvRange x0 x1 x2 s = _; unfold execTinvRange command; rfl
  case tinvAsid x0 x1 x2 =>
    subst hu; apply Exists.intro; show execTinvAsid x0 x1 x2 s = _; unfold execTinvAsid command; rfl
  case tinvAll x0 x1 x2 =>
    subst hu; apply Exists.intro; show execTinvAll x0 x1 x2 s = _; unfold execTinvAll command; rfl
  case pgalloc x0 x1 =>
    subst hu; apply Exists.intro; show execPgalloc x0 x1 s = _; unfold execPgalloc command; rfl
  case pgfree x0 x1 =>
    subst hu; apply Exists.intro; show execPgfree x0 x1 s = _; unfold execPgfree command; rfl
  case pgfork x0 x1 =>
    subst hu; apply Exists.intro; show execPgfork x0 x1 s = _; unfold execPgfork command; rfl
  case pglook x0 x1 =>
    subst hu; apply Exists.intro; show execPglook x0 x1 s = _; unfold execPglook command; rfl
  case pgins x0 x1 =>
    subst hu; apply Exists.intro; show execPgins x0 x1 s = _; unfold execPgins command; rfl
  case pgshift x0 x1 =>
    subst hu; apply Exists.intro; show execPgshift x0 x1 s = _; unfold execPgshift command; rfl
  case kvapp x0 x1 =>
    subst hu; apply Exists.intro; show execKvapp x0 x1 s = _; unfold execKvapp command; rfl
  case kvld x0 x1 =>
    subst hu; apply Exists.intro; show execKvld x0 x1 s = _; unfold execKvld command; rfl
  case attn x0 x1 =>
    subst hu; apply Exists.intro; show execAttn x0 x1 s = _; unfold execAttn command; rfl
  case vadd x0 x1 x2 x3 x4 x5 =>
    subst hu; apply Exists.intro; show execVadd x0 x1 x2 x3 x4 x5 s = _; unfold execVadd vecArith runPure; rfl
  case vsub x0 x1 x2 x3 x4 x5 =>
    subst hu; apply Exists.intro; show execVsub x0 x1 x2 x3 x4 x5 s = _; unfold execVsub vecArith runPure; rfl
  case vmul x0 x1 x2 x3 x4 x5 =>
    subst hu; apply Exists.intro; show execVmul x0 x1 x2 x3 x4 x5 s = _; unfold execVmul vecArith runPure; rfl
  case vmax x0 x1 x2 x3 x4 x5 =>
    subst hu; apply Exists.intro; show execVmax x0 x1 x2 x3 x4 x5 s = _; unfold execVmax vecMinMax runPure; rfl
  case vmin x0 x1 x2 x3 x4 x5 =>
    subst hu; apply Exists.intro; show execVmin x0 x1 x2 x3 x4 x5 s = _; unfold execVmin vecMinMax runPure; rfl
  case vexp x0 x1 x2 x3 =>
    subst hu; apply Exists.intro; show execVexp x0 x1 x2 x3 s = _; unfold execVexp vecFn vecLater; rfl
  case vrcp x0 x1 x2 x3 =>
    subst hu; apply Exists.intro; show execVrcp x0 x1 x2 x3 s = _; unfold execVrcp vecFn vecLater; rfl
  case vrsq x0 x1 x2 x3 =>
    subst hu; apply Exists.intro; show execVrsq x0 x1 x2 x3 s = _; unfold execVrsq vecFn vecLater; rfl
  case vbitAnd x0 x1 x2 x3 x4 x5 =>
    subst hu; apply Exists.intro; show execVbitAnd x0 x1 x2 x3 x4 x5 s = _; unfold execVbitAnd vecBits runPure; rfl
  case vbitOr x0 x1 x2 x3 x4 x5 =>
    subst hu; apply Exists.intro; show execVbitOr x0 x1 x2 x3 x4 x5 s = _; unfold execVbitOr vecBits runPure; rfl
  case vbitXor x0 x1 x2 x3 x4 x5 =>
    subst hu; apply Exists.intro; show execVbitXor x0 x1 x2 x3 x4 x5 s = _; unfold execVbitXor vecBits runPure; rfl
  case vbitAndn x0 x1 x2 x3 x4 x5 =>
    subst hu; apply Exists.intro; show execVbitAndn x0 x1 x2 x3 x4 x5 s = _; unfold execVbitAndn vecBits runPure; rfl
  case vshfL x0 x1 x2 x3 x4 x5 =>
    subst hu; apply Exists.intro; show execVshfL x0 x1 x2 x3 x4 x5 s = _; unfold execVshfL vecInt runPure; rfl
  case vshfR x0 x1 x2 x3 x4 x5 =>
    subst hu; apply Exists.intro; show execVshfR x0 x1 x2 x3 x4 x5 s = _; unfold execVshfR vecInt runPure; rfl
  case vshfRa x0 x1 x2 x3 x4 x5 =>
    subst hu; apply Exists.intro; show execVshfRa x0 x1 x2 x3 x4 x5 s = _; unfold execVshfRa vecInt runPure; rfl
  case vred x0 x1 x2 x3 x4 =>
    subst hu; apply Exists.intro; show execVred x0 x1 x2 x3 x4 s = _; unfold execVred vecLater; rfl
  case mts x0 x1 x2 =>
    subst hu; apply Exists.intro; show execMts x0 x1 x2 s = _; unfold execMts writeStatus; rfl
  case mtsSrStatus x0 x1 =>
    subst hu; apply Exists.intro; show execMtsSrStatus x0 x1 s = _; unfold execMtsSrStatus writeStatus; rfl
  case mtsSrTcmp x0 x1 =>
    subst hu; apply Exists.intro; show execMtsSrTcmp x0 x1 s = _; unfold execMtsSrTcmp writeStatus; rfl
  case mtsSrTcause x0 x1 =>
    subst hu; apply Exists.intro; show execMtsSrTcause x0 x1 s = _; unfold execMtsSrTcause writeStatus; rfl
  case mtsSrIpend x0 x1 =>
    subst hu; apply Exists.intro; show execMtsSrIpend x0 x1 s = _; unfold execMtsSrIpend writeStatus; rfl
  case mtsSrAsid x0 x1 =>
    subst hu; apply Exists.intro; show execMtsSrAsid x0 x1 s = _; unfold execMtsSrAsid writeStatus; rfl
  case mtsSrEngerr x0 x1 =>
    subst hu; apply Exists.intro; show execMtsSrEngerr x0 x1 s = _; unfold execMtsSrEngerr writeStatus; rfl
  case mtsSrAge x0 x1 =>
    subst hu; apply Exists.intro; show execMtsSrAge x0 x1 s = _; unfold execMtsSrAge writeStatus; rfl
  case mtsSrPreemptwait x0 x1 =>
    subst hu; apply Exists.intro; show execMtsSrPreemptwait x0 x1 s = _; unfold execMtsSrPreemptwait writeStatus; rfl
  case mtsSrRampup x0 x1 =>
    subst hu; apply Exists.intro; show execMtsSrRampup x0 x1 s = _; unfold execMtsSrRampup writeStatus; rfl
  case mtsSrRampdown x0 x1 =>
    subst hu; apply Exists.intro; show execMtsSrRampdown x0 x1 s = _; unfold execMtsSrRampdown writeStatus; rfl
  case mtsSrLvlint x0 x1 =>
    subst hu; apply Exists.intro; show execMtsSrLvlint x0 x1 s = _; unfold execMtsSrLvlint clusterWrite writeStatus; rfl
  case mtsSrMucheck x0 x1 =>
    subst hu; apply Exists.intro; show execMtsSrMucheck x0 x1 s = _; unfold execMtsSrMucheck clusterWrite writeStatus; rfl
  case mtsSrPbound x0 x1 =>
    subst hu; apply Exists.intro; show execMtsSrPbound x0 x1 s = _; unfold execMtsSrPbound clusterWrite writeStatus; rfl
  case popen y x b a d =>
    subst hu; apply Exists.intro; show execPopen y x b a d s = _; unfold execPopen; rw [hp]
  rename_i x0 x1 x2
  subst hu; apply Exists.intro; show execSeal x0 x1 x2 s = _; unfold execSeal; rfl

end Sys2Proof.Machine
end

