-- ==== Sys2Proof/Laws/Queues.lean ====
section
/-! SUPPORT. What joining the queues of a pip and the operations that go on with it can change: the operations of that pip, L1
lines and the fabric (R99 to R109, R282); everything else is the same (`State.SameOutside`). -/

namespace Sys2Proof.Machine

/-! ### The frame as a relation -/

theorem State.SameOutside.refl (s : State) (k : Nat) : s.SameOutside s k :=
  ⟨fun _ _ => rfl, fun _ => rfl, fun _ _ => rfl, rfl, fun _ => ⟨rfl, rfl⟩, ⟨rfl, rfl, rfl, rfl, rfl⟩, ⟨rfl, rfl, rfl, rfl⟩, ⟨rfl, rfl⟩⟩

theorem State.SameOutside.trans {s t u : State} {k : Nat} (h : s.SameOutside t k) (g : t.SameOutside u k) : s.SameOutside u k :=
  ⟨fun j hj => (g.pips j hj).trans (h.pips j hj), fun a => (g.memory a).trans (h.memory a),
   fun cl off => (g.scratchpad cl off).trans (h.scratchpad cl off), g.clusters.trans h.clusters,
   fun c => ⟨(g.deques c).1.trans (h.deques c).1, (g.deques c).2.trans (h.deques c).2⟩,
   ⟨g.units.1.trans h.units.1, g.units.2.1.trans h.units.2.1, g.units.2.2.1.trans h.units.2.2.1,
    g.units.2.2.2.1.trans h.units.2.2.2.1, g.units.2.2.2.2.trans h.units.2.2.2.2⟩,
   ⟨g.registers.1.trans h.registers.1, g.registers.2.1.trans h.registers.2.1, g.registers.2.2.1.trans h.registers.2.2.1,
    g.registers.2.2.2.trans h.registers.2.2.2⟩, ⟨g.clock.1.trans h.clock.1, g.clock.2.trans h.clock.2⟩⟩

/-- Two states that agree in these fields have the same outside. -/
theorem State.SameOutside.of_fields {s t : State} {k : Nat} (hp : ∀ j, j ≠ k → t.pip j = s.pip j) (h1 : t.hbm = s.hbm)
    (h2 : t.clusters = s.clusters) (h3 : ∀ c, (t.core c).deque = (s.core c).deque ∧ (t.core c).reds = (s.core c).reds)
    (h4 : t.nmas = s.nmas) (h5 : t.launches = s.launches) (h6 : t.jobs = s.jobs) (h7 : t.saved = s.saved) (h8 : t.host = s.host)
    (h9 : t.age = s.age) (h10 : t.preemptWait = s.preemptWait) (h11 : t.rampUp = s.rampUp) (h12 : t.rampDown = s.rampDown)
    (h13 : t.cycle = s.cycle) (h14 : t.time = s.time) : s.SameOutside t k :=
  ⟨hp, fun _ => by rw [h1], fun _ _ => by unfold State.cluster; rw [h2], h2, h3, ⟨h4, h5, h6, h7, h8⟩, ⟨h9, h10, h11, h12⟩,
   ⟨h13, h14⟩⟩

theorem State.setPip_sameOutside (s : State) (k : Nat) (p : Pip) : s.SameOutside (s.setPip k p) k :=
  .of_fields (fun _ hj => s.pip_setPip_ne p hj) rfl rfl (fun _ => ⟨rfl, rfl⟩) rfl rfl rfl rfl rfl rfl rfl rfl rfl rfl rfl

theorem State.modPip_sameOutside (s : State) (k : Nat) (f : Pip → Pip) : s.SameOutside (s.modPip k f) k := by
  unfold State.modPip
  split
  · exact s.setPip_sameOutside _ _
  · exact .refl _ _

theorem State.pip_modPip (s : State) (k : Nat) (f : Pip → Pip) (n : Nat) :
    (s.modPip k f).pip n = if n = k then (s.pip k).map f else s.pip n := by
  unfold State.modPip
  split
  · rename_i p hp
    by_cases h : n = k
    · subst h; rw [if_pos rfl, State.pip_setPip, hp]; rfl
    · rw [if_neg h, State.pip_setPip_ne _ _ h]
  · rename_i hp
    by_cases h : n = k
    · subst h; rw [if_pos rfl, hp]; rfl
    · rw [if_neg h]

theorem State.discardLines_deques (s : State) (k c : Nat) :
    ((s.discardLines k).core c).deque = (s.core c).deque ∧ ((s.discardLines k).core c).reds = (s.core c).reds := by
  unfold State.discardLines
  by_cases h : c = k
  · subst h; rw [State.core_setCore]; exact ⟨rfl, rfl⟩
  · rw [State.core_setCore_ne _ _ h]; exact ⟨rfl, rfl⟩

theorem State.discardLines_sameOutside (s : State) (c k : Nat) : s.SameOutside (s.discardLines c) k :=
  .of_fields (fun _ _ => rfl) rfl rfl (s.discardLines_deques c) rfl rfl rfl rfl rfl rfl rfl rfl rfl rfl rfl

@[simp] theorem State.pip_discardLines (s : State) (c n : Nat) : (s.discardLines c).pip n = s.pip n := rfl
@[simp] theorem State.net_discardLines (s : State) (c : Nat) : (s.discardLines c).net = s.net := rfl

theorem Uses.acquire_sameOutside (u : Uses) (p : Pip) (s : State) (k : Nat) : s.SameOutside (u.acquire p s) k := by
  unfold Uses.acquire; split
  · exact s.discardLines_sameOutside _ _
  · exact .refl _ _

@[simp] theorem Uses.pip_acquire (u : Uses) (p : Pip) (s : State) (n : Nat) : (u.acquire p s).pip n = s.pip n := by
  unfold Uses.acquire; split <;> rfl
@[simp] theorem Uses.cur_acquire (u : Uses) (p : Pip) (s : State) : (u.acquire p s).cur = s.cur := by
  unfold Uses.acquire; split <;> rfl
@[simp] theorem Uses.net_acquire (u : Uses) (p : Pip) (s : State) : (u.acquire p s).net = s.net := by
  unfold Uses.acquire; split <;> rfl
@[simp] theorem Uses.hbm_acquire (u : Uses) (p : Pip) (s : State) : (u.acquire p s).hbm = s.hbm := by
  unfold Uses.acquire; split <;> rfl
@[simp] theorem Uses.clusters_acquire (u : Uses) (p : Pip) (s : State) : (u.acquire p s).clusters = s.clusters := by
  unfold Uses.acquire; split <;> rfl
@[simp] theorem Uses.cycle_acquire (u : Uses) (p : Pip) (s : State) : (u.acquire p s).cycle = s.cycle := by
  unfold Uses.acquire; split <;> rfl
@[simp] theorem Uses.launches_acquire (u : Uses) (p : Pip) (s : State) : (u.acquire p s).launches = s.launches := by
  unfold Uses.acquire; split <;> rfl
@[simp] theorem Uses.jobs_acquire (u : Uses) (p : Pip) (s : State) : (u.acquire p s).jobs = s.jobs := by
  unfold Uses.acquire; split <;> rfl

theorem State.inject_sameOutside (s : State) (o : Origin) (q : Packet) (k : Nat) : s.SameOutside (s.inject o q) k :=
  .of_fields (fun _ _ => rfl) rfl rfl (fun _ => ⟨rfl, rfl⟩) rfl rfl rfl rfl rfl rfl rfl rfl rfl rfl rfl

/-! ### The operations of one pip -/

/-- The outside of slot `k` is the same, and of its pip only the operations may differ. -/
structure State.OnlyOps (s t : State) (k : Nat) : Prop where
  outside : s.SameOutside t k
  pip : ∀ p, s.pip k = some p → ∃ ops, t.pip k = some { p with ops := ops }
  none : s.pip k = none → t.pip k = none
  cur : t.cur = s.cur

theorem State.OnlyOps.refl (s : State) (k : Nat) : s.OnlyOps s k := ⟨.refl s k, fun p hp => ⟨p.ops, hp⟩, id, rfl⟩

theorem State.OnlyOps.trans {s t u : State} {k : Nat} (h : s.OnlyOps t k) (g : t.OnlyOps u k) : s.OnlyOps u k := by
  refine ⟨h.outside.trans g.outside, fun p hp => ?_, fun hn => g.none (h.none hn), g.cur.trans h.cur⟩
  obtain ⟨ops, h1⟩ := h.pip p hp
  obtain ⟨ops', h2⟩ := g.pip _ h1
  exact ⟨ops', h2⟩

theorem State.modOps_onlyOps (s : State) (k n : Nat) (f : Op → Op) : s.OnlyOps (s.modPip k (fun p => p.modOp n f)) k := by
  refine ⟨s.modPip_sameOutside _ _, fun p hp => ?_, fun hn => ?_, ?_⟩
  · exact ⟨(p.modOp n f).ops, by rw [State.pip_modPip, if_pos rfl, hp]; rfl⟩
  · rw [State.pip_modPip, if_pos rfl, hn]; rfl
  · unfold State.modPip; split <;> rfl

theorem State.sendOp_onlyOps (s : State) (k n : Nat) : s.OnlyOps (s.sendOp k n) k := by
  unfold State.sendOp
  dsimp only
  split
  · exact .refl _ _
  · split
    · exact .refl _ _
    · split
      · exact .refl _ _
      · split
        · split
          · exact .refl _ _
          · split
            · exact .refl _ _
            · refine State.OnlyOps.trans (t := s.inject _ _) ?_ (State.modOps_onlyOps _ _ _ _)
              exact ⟨s.inject_sameOutside _ _ _, fun p hp => ⟨p.ops, hp⟩, id, rfl⟩
        · exact .refl _ _

theorem State.sendOps_onlyOps (s : State) (k : Nat) : s.OnlyOps (s.sendOps k) k := by
  unfold State.sendOps
  split
  · exact .refl _ _
  · rename_i p hp
    clear hp
    generalize p.ops.map Op.id = l
    induction l generalizing s with
    | nil => exact .refl _ _
    | cons n l ih => exact (s.sendOp_onlyOps k n).trans (ih _)

theorem State.settle_onlyOps (s : State) (k : Nat) : s.OnlyOps (s.settle k) k := by
  unfold State.settle
  split
  · exact .refl _ _
  · rename_i p hp
    refine State.OnlyOps.trans ?_ (State.sendOps_onlyOps _ _)
    have h : s.OnlyOps (s.setPip k { p with ops := (s.retire (s.jobOfLaunch p.launch) (k / 256) [] p.ops).1 }) k :=
      ⟨s.setPip_sameOutside _ _, fun q hq => ⟨_, by rw [hp] at hq; cases hq; exact State.pip_setPip _ _ _⟩,
       fun hn => absurd (hp.symm.trans hn) (by simp), rfl⟩
    split
    · exact h.trans ⟨State.discardLines_sameOutside _ _ _, fun q hq => ⟨q.ops, hq⟩, id, rfl⟩
    · exact h

/-- Everything that issuing an operation can do: the pip has it among its operations, its destination is empty, and the outside
is the same. -/
theorem State.enter_frame (s : State) (q : Pip) (o : Op) : s.SameOutside (s.enter q o) s.cur ∧ (s.enter q o).cur = s.cur ∧
    ∃ ops, (s.enter q o).pip s.cur = some { (q.clearDest o.dest) with ops := ops, nextOp := q.nextOp + 1 } := by
  unfold State.enter
  have h := State.settle_onlyOps (s.put (q.issue { o with born := s.cycle })) s.cur
  obtain ⟨ops, hp⟩ := h.pip _ (State.pip_put s _)
  exact ⟨(s.setPip_sameOutside _ _).trans h.outside, h.cur, ops, hp⟩

/-! ### What becomes of each operation -/
theorem Pip.op_modOp (p : Pip) (n m : Nat) (f : Op → Op) (hf : ∀ o, (f o).id = o.id) :
    (p.modOp n f).op m = (p.op m).map (fun o => if o.id = n then f o else o) := by
  unfold Pip.modOp Pip.op
  simp only [List.find?_map]
  have e : ((fun o : Op => o.id == m) ∘ fun o => if (o.id == n) = true then f o else o) = fun o => o.id == m := by
    funext o
    simp only [Function.comp]
    by_cases h : o.id = n
    · simp [h, hf]
    · simp [h]
  rw [e]
  congr 1
  funext o
  simp

/-- An operation found by its identifier has it. -/
theorem Pip.op_id {p : Pip} {n : Nat} {o : Op} (h : p.op n = some o) : o.id = n := by
  have := List.find?_some h; simpa using this

/-- What settling and sending keep of an operation: nothing but its phase changes, and that only from waiting to sent. -/
def Op.SameOrSent (o x : Op) : Prop := x = o ∨ o.phase = .waiting ∧ x = { o with phase := .sent }

/-- Of the operations of slot `k` in `s`, those in `t` are the same or have been sent. -/
def State.OpsSettle (s t : State) (k : Nat) : Prop :=
  ∀ p q, s.pip k = some p → t.pip k = some q →
    (∀ y ∈ q.ops, ∃ o ∈ p.ops, y.id = o.id) ∧
    ∀ n o, p.op n = some o → (∀ i, o.kind ≠ .fence i) → o.kind ≠ .mark → ∃ y, q.op n = some y ∧ o.SameOrSent y

theorem Op.SameOrSent.trans {a b c : Op} (h : a.SameOrSent b) (g : b.SameOrSent c) : a.SameOrSent c := by
  rcases h with rfl | ⟨h1, rfl⟩
  · exact g
  · rcases g with rfl | ⟨h2, rfl⟩
    · exact .inr ⟨h1, rfl⟩
    · exact absurd h2 (by simp)

theorem State.OpsSettle.refl (s : State) (k : Nat) : s.OpsSettle s k := by
  intro p q hp hq
  rw [hp] at hq; cases hq
  exact ⟨fun y hy => ⟨y, hy, rfl⟩, fun n o h _ _ => ⟨o, h, .inl rfl⟩⟩

theorem Op.SameOrSent.kind {a b : Op} (h : a.SameOrSent b) : b.kind = a.kind := by
  rcases h with rfl | ⟨_, rfl⟩ <;> rfl
theorem Op.SameOrSent.id {a b : Op} (h : a.SameOrSent b) : b.id = a.id := by
  rcases h with rfl | ⟨_, rfl⟩ <;> rfl

theorem State.OpsSettle.trans {s t u : State} {k : Nat} {p q : Pip} (hp : s.pip k = some p) (hq : t.pip k = some q)
    (h : s.OpsSettle t k) (g : t.OpsSettle u k) : s.OpsSettle u k := by
  intro p' r hp' hr
  rw [hp] at hp'; cases hp'
  obtain ⟨h1, h2⟩ := h p q hp hq
  obtain ⟨g1, g2⟩ := g q r hq hr
  refine ⟨fun y hy => ?_, fun n o ho hf hm => ?_⟩
  · obtain ⟨z, hz, e⟩ := g1 y hy
    obtain ⟨x, hx, e'⟩ := h1 z hz
    exact ⟨x, hx, e.trans e'⟩
  · obtain ⟨y, hy, e⟩ := h2 n o ho hf hm
    obtain ⟨z, hz, e'⟩ := g2 n y hy (by rw [e.kind]; exact hf) (by rw [e.kind]; exact hm)
    exact ⟨z, hz, e.trans e'⟩

theorem State.modOp_opsSettle (s : State) (k n : Nat) (p : Pip) (o : Op) (hp : s.pip k = some p) (ho : p.op n = some o)
    (hw : o.phase = .waiting) : s.OpsSettle (s.modPip k (fun p => p.modOp n (fun o => { o with phase := .sent }))) k := by
  intro p' q hp' hq
  rw [hp] at hp'; cases hp'
  rw [State.pip_modPip, if_pos rfl, hp] at hq
  simp only [Option.map_some, Option.some.injEq] at hq
  subst hq
  refine ⟨fun y hy => ?_, fun m x hx _ _ => ?_⟩
  · simp only [Pip.modOp, List.mem_map] at hy
    obtain ⟨z, hz, rfl⟩ := hy
    exact ⟨z, hz, by split <;> rfl⟩
  · rw [Pip.op_modOp (f := fun o => { o with phase := .sent }) _ _ _ (fun _ => rfl), hx]
    refine ⟨_, rfl, ?_⟩
    dsimp only
    split
    · next h =>
      have := Pip.op_id hx
      rw [h] at this; subst this
      rw [ho] at hx; cases hx
      exact .inr ⟨hw, rfl⟩
    · exact .inl rfl

theorem State.sendOp_opsSettle (s : State) (k n : Nat) : s.OpsSettle (s.sendOp k n) k := by
  unfold State.sendOp
  dsimp only
  split
  · exact .refl _ _
  · next p hp =>
    split
    · exact .refl _ _
    · next o ho =>
      split
      · exact .refl _ _
      · next hc =>
        split
        · split
          · exact .refl _ _
          · split
            · exact .refl _ _
            · have hw : o.phase = .waiting := by
                simp only [Bool.or_eq_true, bne_iff_ne, ne_eq, not_or, Decidable.not_not] at hc
                exact hc.1.1
              exact State.modOp_opsSettle (s.inject _ _) k n p o hp ho hw
        · exact .refl _ _

theorem State.OnlyOps.some {s t : State} {k : Nat} (h : s.OnlyOps t k) {p : Pip} (hp : s.pip k = some p) :
    ∃ q, t.pip k = some q := by obtain ⟨ops, e⟩ := h.pip p hp; exact ⟨_, e⟩

theorem State.sendOps_opsSettle (s : State) (k : Nat) : s.OpsSettle (s.sendOps k) k := by
  unfold State.sendOps
  split
  · exact .refl _ _
  · rename_i p hp
    generalize p.ops.map Op.id = l
    induction l generalizing s p with
    | nil => exact .refl _ _
    | cons n l ih =>
      obtain ⟨q, hq⟩ := (s.sendOp_onlyOps k n).some hp
      exact State.OpsSettle.trans hp hq (s.sendOp_opsSettle k n) (ih _ q hq)

theorem State.retire_ops (s : State) (job cl : Nat) (os earlier : List Op) :
    (∀ y ∈ (s.retire job cl earlier os).1, y ∈ os) ∧
    ∀ n o, os.find? (fun o => o.id == n) = some o → (∀ i, o.kind ≠ .fence i) → o.kind ≠ .mark →
      (s.retire job cl earlier os).1.find? (fun o => o.id == n) = some o := by
  induction os generalizing earlier with
  | nil => simp [State.retire]
  | cons x os ih =>
    unfold State.retire
    by_cases hx : s.fenceOver job cl earlier x = true
    · rw [if_pos hx]
      obtain ⟨h1, h2⟩ := ih earlier
      refine ⟨fun y hy => .tail _ (h1 y hy), fun n o ho hf hm => ?_⟩
      rw [List.find?_cons] at ho
      split at ho
      · cases ho
        unfold State.fenceOver at hx
        split at hx
        · exact absurd (by assumption) hm
        · exact absurd (by assumption) (hf _)
        · exact absurd (by assumption) (hf _)
        · cases hx
      · exact h2 n o ho hf hm
    · rw [if_neg hx]
      obtain ⟨h1, h2⟩ := ih (earlier ++ [x])
      refine ⟨fun y hy => ?_, fun n o ho hf hm => ?_⟩
      · rcases List.mem_cons.1 hy with rfl | hy
        · exact .head _
        · exact .tail _ (h1 y hy)
      · rw [List.find?_cons] at ho ⊢
        split at ho
        · exact ho
        · exact h2 n o ho hf hm

theorem State.settle_opsSettle (s : State) (k : Nat) : s.OpsSettle (s.settle k) k := by
  unfold State.settle
  split
  · exact .refl _ _
  · rename_i p hp
    dsimp only
    have h : s.OpsSettle (s.setPip k { p with ops := (s.retire (s.jobOfLaunch p.launch) (k / 256) [] p.ops).1 }) k := by
      intro p' q hp' hq
      rw [hp] at hp'; cases hp'
      rw [State.pip_setPip] at hq; cases hq
      obtain ⟨h1, h2⟩ := s.retire_ops (s.jobOfLaunch p.launch) (k / 256) p.ops []
      exact ⟨fun y hy => ⟨y, h1 y hy, rfl⟩, fun n o ho hf hm => ⟨o, h2 n o ho hf hm, .inl rfl⟩⟩
    split
    · refine State.OpsSettle.trans (t := (s.setPip k _).discardLines (k / 16)) hp (State.pip_setPip _ _ _) h ?_
      exact State.sendOps_opsSettle _ _
    · exact State.OpsSettle.trans hp (State.pip_setPip _ _ _) h (State.sendOps_opsSettle _ _)

/-- Everything that settling can do to the pip: only its operations differ; each is one that it had, and an operation other than
a MARK or FENCE is still there, the same or sent. -/
theorem State.settle_pip (s : State) (k : Nat) (p : Pip) (hp : s.pip k = some p) :
    ∃ ops, (s.settle k).pip k = some { p with ops := ops } ∧ (∀ y ∈ ops, ∃ o ∈ p.ops, y.id = o.id) ∧
      ∀ n o, p.op n = some o → (∀ i, o.kind ≠ .fence i) → o.kind ≠ .mark →
        ∃ y, ops.find? (fun o => o.id == n) = some y ∧ o.SameOrSent y := by
  obtain ⟨ops, h⟩ := (s.settle_onlyOps k).pip p hp
  obtain ⟨h1, h2⟩ := s.settle_opsSettle k p _ hp h
  exact ⟨ops, h, h1, h2⟩

/-- An operation that has been performed stays so. -/
theorem Op.SameOrSent.done {o y : Op} (h : o.SameOrSent y) (hd : o.phase = .done) : y = o := by
  rcases h with rfl | ⟨hw, _⟩
  · rfl
  · rw [hd] at hw; cases hw


/-! ### An operation that has been performed -/

theorem State.acquireAt_sameOutside (s : State) (c : Nat) (a : Option Nat) (k : Nat) : s.SameOutside (s.acquireAt c a) k := by
  unfold State.acquireAt
  split
  · split
    · exact s.discardLines_sameOutside _ _
    · exact .refl _ _
  · exact .refl _ _

@[simp] theorem State.pip_acquireAt (s : State) (c : Nat) (a : Option Nat) (n : Nat) : (s.acquireAt c a).pip n = s.pip n := by
  unfold State.acquireAt; split <;> (try split) <;> rfl

theorem Pip.finishOp_some {p : Pip} {n : Nat} {o : Op} (h : p.op n = some o) (x : VWord) : p.finishOp n x =
    if o.dest = .none then p.dropOp n else p.modOp n (fun o => { o with phase := .done, result := x }) := by
  unfold Pip.finishOp
  rw [h]
  by_cases hd : o.dest = .none <;> simp [Op.fullBit, hd]

/-- Everything that finishing an operation can do: without a destination it is over, with one it waits with its result; the
outside is the same. -/
theorem State.finish_spec (s : State) (k : Nat) (o : Op) (r : VWord) (p : Pip) (x : Op) (hp : s.pip k = some p)
    (hx : p.op o.id = some x) (hf : ∀ i, x.kind ≠ .fence i) (hm : x.kind ≠ .mark) :
    s.SameOutside (s.finish k o r) k ∧ ∃ ops, (s.finish k o r).pip k = some { p with ops := ops } ∧
      (x.dest = .none → ∀ y ∈ ops, y.id ≠ o.id) ∧
      (x.dest ≠ .none → ops.find? (fun y => y.id == o.id) = some { x with phase := .done, result := r }) := by
  unfold State.finish
  have ha : s.SameOutside (if o.kind.lateAcquire then s else s.acquireAt (k / 16) o.acq) k := by
    split
    · exact .refl _ _
    · exact s.acquireAt_sameOutside _ _ _
  have hpa : (if o.kind.lateAcquire then s else s.acquireAt (k / 16) o.acq).pip k = some p := by
    split
    · exact hp
    · rw [State.pip_acquireAt]; exact hp
  generalize (if o.kind.lateAcquire then s else s.acquireAt (k / 16) o.acq) = u at ha hpa ⊢
  have hq : (u.modPip k (fun p => p.finishOp o.id r)).pip k = some (p.finishOp o.id r) := by
    rw [State.pip_modPip, if_pos rfl, hpa]; rfl
  refine ⟨(ha.trans (u.modPip_sameOutside _ _)).trans (State.settle_onlyOps _ _).outside, ?_⟩
  obtain ⟨ops, h1, h2, h3⟩ := State.settle_pip _ k _ hq
  have e : p.finishOp o.id r = { p with ops := (p.finishOp o.id r).ops } := by
    rw [Pip.finishOp_some hx]; split <;> rfl
  refine ⟨ops, by rw [h1, e], fun hd y hy => ?_, fun hd => ?_⟩
  · obtain ⟨z, hz, hi⟩ := h2 y hy
    rw [Pip.finishOp_some hx, if_pos hd] at hz
    simp only [Pip.dropOp, List.mem_filter, bne_iff_ne, ne_eq] at hz
    rw [hi]; exact hz.2
  · rw [Pip.finishOp_some hx, if_neg hd] at h3
    have hn : (p.modOp o.id (fun y => { y with phase := .done, result := r })).op o.id = some { x with phase := .done, result := r } := by
      rw [Pip.op_modOp (f := fun y => { y with phase := .done, result := r }) _ _ _ (fun _ => rfl), hx]
      simp [Pip.op_id hx]
    obtain ⟨y, hy, hs⟩ := h3 o.id _ hn hf hm
    rw [hy, hs.done rfl]

end Sys2Proof.Machine
end

