-- ==== Sys2Proof/Laws/Frames.lean ====
section
/-! SUPPORT. What the effect of an instruction on registers leaves alone, once for each shape: a g register, a v register,
the flags (R31, R132, R334). -/

namespace Sys2Proof.Machine

variable {u : Uses} {s : State} {p : Pip} {d : Reg} {e : Reg4}

theorem FFlags.bits_lt (f : FFlags) (k : Nat) (h : k < 3 ∨ 8 ≤ k) : f.bits.getLsbD k = false := by
  obtain ⟨a, b, c, d, e⟩ := f
  rcases h with h | h
  · have hk : k = 0 ∨ k = 1 ∨ k = 2 := by omega
    rcases hk with rfl | rfl | rfl <;> revert a b c d e <;> decide
  · rw [FFlags.bits, BitVec.getLsbD_ofNat, Nat.testBit_lt_two_pow, Bool.and_false]
    refine Nat.lt_of_lt_of_le ?_ (Nat.pow_le_pow_right (by omega) h)
    cases a <;> cases b <;> cases c <;> cases d <;> cases e <;> decide

theorem Pip.addFlags_mode (p : Pip) (f : FFlags) (k : Nat) (h : k < 3 ∨ 8 ≤ k) :
    (p.addFlags f).fpmode.getLsbD k = p.fpmode.getLsbD k := by
  simp [Pip.addFlags, FFlags.bits_lt f k h]

/-- The frame of an effect that changes the pip of the current slot to `q`. -/
theorem State.OnlyRegisters.of_pip {q : Pip} (hpc : q.pc = p.pc + 4) (hc : q.cond = .ready) (hs : p.SameSpecial q)
    (hg : ∀ r, r ∉ u.gd → q.gv r = p.gv r) (hv : ∀ r, r ∉ u.vd → q.vv r = p.vv r) (hst : ∀ n, q.steer n = p.steer n)
    (hm : ∀ k, k < 3 ∨ 8 ≤ k → q.fpmode.getLsbD k = p.fpmode.getLsbD k)
    (hf : ∀ k, p.fpmode.getLsbD k = true → q.fpmode.getLsbD k = true) :
    s.OnlyRegisters u p ((u.acquire p s).put q) q := by
  refine ⟨⟨?_, ?_⟩, ?_, ⟨hpc, hc⟩, hs, hg, hv, hst, hm, hf⟩
  · have h := (u.acquire p s).setPip_sameOutside (u.acquire p s).cur q
    rw [Uses.cur_acquire] at h
    have h2 := (Uses.acquire_sameOutside u p s s.cur).trans h
    unfold State.put; rw [Uses.cur_acquire]; exact h2
  · simp
  · unfold State.put; rw [Uses.cur_acquire, State.pip_setPip]

theorem Uses.after_sameSpecial (u : Uses) (p : Pip) : p.SameSpecial (u.after p) := by
  constructor <;> simp

theorem Pip.SameSpecial.setG {q : Pip} (h : p.SameSpecial q) (d : Reg) (x : Word) : p.SameSpecial (q.setG d x) := by
  obtain ⟨h1, h2, h3, h4, h5⟩ := h; constructor <;> simpa

theorem Pip.SameSpecial.setV {q : Pip} (h : p.SameSpecial q) (d : Reg4) (x : VWord) : p.SameSpecial (q.setV d x) := by
  obtain ⟨h1, h2, h3, h4, h5⟩ := h; constructor <;> simpa

theorem Pip.SameSpecial.addFlags {q : Pip} (h : p.SameSpecial q) (f : FFlags) : p.SameSpecial (q.addFlags f) := by
  obtain ⟨h1, h2, h3, h4, h5⟩ := h; constructor <;> assumption

theorem Pip.addFlags_sticky (p : Pip) (f : FFlags) (k : Nat) (h : p.fpmode.getLsbD k = true) :
    (p.addFlags f).fpmode.getLsbD k = true := by simp [Pip.addFlags, h]

@[simp] theorem Pip.gv_addFlags (p : Pip) (f : FFlags) (r : Reg) : (p.addFlags f).gv r = p.gv r := rfl
@[simp] theorem Pip.vv_addFlags (p : Pip) (f : FFlags) (r : Reg4) : (p.addFlags f).vv r = p.vv r := rfl
@[simp] theorem Pip.gf_addFlags (p : Pip) (f : FFlags) (r : Reg) : (p.addFlags f).gf r = p.gf r := rfl
@[simp] theorem Pip.vf_addFlags (p : Pip) (f : FFlags) (r : Reg4) : (p.addFlags f).vf r = p.vf r := rfl
@[simp] theorem Pip.steer_addFlags (p : Pip) (f : FFlags) (n : Nat) : (p.addFlags f).steer n = p.steer n := rfl
@[simp] theorem Pip.steer_setG (p : Pip) (r : Reg) (x : Word) (n : Nat) : (p.setG r x).steer n = p.steer n := by simp [Pip.steer]
@[simp] theorem Pip.steer_setV (p : Pip) (r : Reg4) (x : VWord) (n : Nat) : (p.setV r x).steer n = p.steer n := rfl

/-- A result in a g register and flags. -/
theorem onlyRegisters_setG (hg : u.gd = [d]) (x : Word) (f : FFlags) :
    s.OnlyRegisters u p (s.effect u p (fun q => (q.setG d x).addFlags f)) (((u.after p).setG d x).addFlags f) := by
  refine .of_pip (by show (Pip.setG _ _ _).pc = _; simp) (by show (Pip.setG _ _ _).cond = _; simp)
    (((u.after_sameSpecial p).setG d x).addFlags f) (fun r hr => ?_) (fun r _ => by simp) (fun n => by simp)
    (fun k hk => by rw [Pip.addFlags_mode _ _ _ hk]; simp) (fun k hk => Pip.addFlags_sticky _ _ _ (by simpa using hk))
  rw [hg, List.mem_singleton] at hr
  rw [Pip.gv_addFlags, Pip.gv_setG, if_neg (fun h => hr h.1), Uses.gv_after]

/-- A result in a v register and flags. -/
theorem onlyRegisters_setV (hv : u.vd = [e]) (x : VWord) (f : FFlags) :
    s.OnlyRegisters u p (s.effect u p (fun q => (q.setV e x).addFlags f)) (((u.after p).setV e x).addFlags f) := by
  refine .of_pip (u.after_pc p) (u.after_cond p)
    (((u.after_sameSpecial p).setV e x).addFlags f) (fun r _ => by simp) (fun r hr => ?_) (fun n => by simp)
    (fun k hk => by rw [Pip.addFlags_mode _ _ _ hk]; simp) (fun k hk => Pip.addFlags_sticky _ _ _ (by simpa using hk))
  rw [hv, List.mem_singleton] at hr
  rw [Pip.vv_addFlags, Pip.vv_setV, if_neg hr, Uses.vv_after]

theorem fullBits_setG (hg : u.gd = [d]) (hv : u.vd = []) (x : Word) (f : FFlags) :
    u.FullBits false p (((u.after p).setG d x).addFlags f) := by
  refine ⟨fun r hr => ?_, fun r => ?_⟩
  · have h0 : (r == 0#5) = false := by rw [beq_eq_false_iff_ne]; exact hr
    rw [hg, Pip.gf_addFlags, Pip.gf_setG, Uses.gf_after]
    by_cases h : r = d
    · simp [h]
    · by_cases h2 : r ∈ u.gs <;> simp [h, h2, h0]
  · rw [hv, Pip.vf_addFlags, Pip.vf_setG, Uses.vf_after]
    by_cases h2 : r ∈ u.vs <;> simp [h2]

theorem fullBits_setV (hg : u.gd = []) (hv : u.vd = [e]) (x : VWord) (f : FFlags) :
    u.FullBits false p (((u.after p).setV e x).addFlags f) := by
  refine ⟨fun r hr => ?_, fun r => ?_⟩
  · have h0 : (r == 0#5) = false := by rw [beq_eq_false_iff_ne]; exact hr
    rw [hg, Pip.gf_addFlags, Pip.gf_setV, Uses.gf_after]
    by_cases h2 : r ∈ u.gs <;> simp [h2, h0]
  · rw [hv, Pip.vf_addFlags, Pip.vf_setV, Uses.vf_after]
    by_cases h : r = e
    · simp [h]
    · by_cases h2 : r ∈ u.vs <;> simp [h, h2]

end Sys2Proof.Machine
end

