-- ==== Sys2Proof/Laws/Reach.lean ====
section
/-! SUPPORT. What an agent's access to home L2s, some of which may be on other dies, can come to. -/

namespace Sys2Proof.Machine

/-- A try of an access either asks for what is missing and does nothing else, or has been carried out with nothing missing. -/
theorem State.attempt_cases {α : Type} (s : State) (who : Asker) (src : Word) (f : State → State × α) :
    (∃ r : Reach, r.lacks = true ∧ s.attempt who src f = ((s.wants who r).sendAsks, none)) ∨
    (∃ r : Reach, r.lacks = false ∧
      s.attempt who src f = ({ (f (s.opened who src)).1 with reach := none }, some (r, (f (s.opened who src)).2))) := by
  unfold State.attempt
  cases h : Reach.lacks ((f (s.opened who src)).1.reach.getD { src := src }) with
  | true => exact .inl ⟨_, h, by simp [h]⟩
  | false => exact .inr ⟨_, h, by simp [h]⟩

/-- An access of an agent waits for its writes on other dies, or is over with their last answer, or is tried: then it still lacks
something, or is over at once, or sends its writes. -/
theorem State.reaching_cases (s : State) (who : Asker) (src : Word) (f : State → State × (State → State)) (done : State → State) :
    (((s.askOf who).any Ask.closing = true ∧ (s.askOf who).any Ask.over = false ∧ s.reaching who src f done = s.sendAsks) ∨
     ((s.askOf who).any Ask.closing = true ∧ (s.askOf who).any Ask.over = true ∧
        s.reaching who src f done = done (s.dropAsk who))) ∨
    (∃ r : Reach, (s.askOf who).any Ask.closing = false ∧
      ((r.lacks = true ∧ s.reaching who src f done = (s.wants who r).sendAsks) ∨
       (r.lacks = false ∧ r.writes = [] ∧ s.reaching who src f done =
          (f (s.opened who src)).2 (State.dropAsk { (f (s.opened who src)).1 with reach := none } who)) ∨
       (r.lacks = false ∧ r.writes ≠ [] ∧ s.reaching who src f done =
          State.closing { (f (s.opened who src)).1 with reach := none } who r))) := by
  unfold State.reaching
  cases hc : (s.askOf who).any Ask.closing with
  | true =>
    cases ho : (s.askOf who).any Ask.over with
    | true => exact .inl (.inr (by simp))
    | false => exact .inl (.inl (by simp))
  | false =>
    rcases s.attempt_cases who src f with ⟨r, hl, ha⟩ | ⟨r, hl, ha⟩
    · exact .inr ⟨r, rfl, .inl ⟨hl, by simp [ha]⟩⟩
    · by_cases hw : r.writes = []
      · exact .inr ⟨r, rfl, .inr (.inl ⟨hl, hw, by simp [ha, hw]⟩)⟩
      · exact .inr ⟨r, rfl, .inr (.inr ⟨hl, hw, by simp [ha, hw]⟩)⟩

end Sys2Proof.Machine
end

