-- ==== Sys2Proof/Laws/Traps.lean ====
section
/-! SUPPORT. What taking a trap and returning from one do, once for every cause (R315, R317). -/

namespace Sys2Proof.Machine

/-- Bits above a constant are those of the word beside it. -/
theorem high_bit_false (c k : Nat) (h : c < 2 ^ k) : (BitVec.ofNat 64 c).getLsbD k = false := by
  simp only [BitVec.getLsbD_ofNat, Nat.testBit_lt_two_pow h, Bool.and_false]

/-- The status after trap entry, bit by bit (R315). -/
theorem trapStatus_bit (st : Word) (k : Nat) : (trapStatus st).getLsbD k =
    if k = 0 then true else if k = 1 then false else if k = 5 then st.getLsbD 0 else if k = 6 then st.getLsbD 1
    else st.getLsbD k := by
  rcases Nat.lt_or_ge k 7 with h | h
  · have : k = 0 ∨ k = 1 ∨ k = 2 ∨ k = 3 ∨ k = 4 ∨ k = 5 ∨ k = 6 := by omega
    rcases this with rfl | rfl | rfl | rfl | rfl | rfl | rfl <;> unfold trapStatus <;>
      cases st.getLsbD 0 <;> cases st.getLsbD 1 <;> simp
  · have hp : (2 : Nat) ^ 7 ≤ 2 ^ k := Nat.pow_le_pow_right (by omega) h
    have h63 := high_bit_false 0x63 k (by omega)
    have h20 := high_bit_false 0x20 k (by omega)
    have h40 := high_bit_false 0x40 k (by omega)
    have h1 := high_bit_false 1 k (by omega)
    have e0 : k ≠ 0 := by omega
    have e1 : k ≠ 1 := by omega
    have e5 : k ≠ 5 := by omega
    have e6 : k ≠ 6 := by omega
    simp only [trapStatus, BitVec.getLsbD_or, BitVec.getLsbD_and, BitVec.getLsbD_not, e0, e1, e5, e6, if_false]
    rw [show (0x63 : Word) = BitVec.ofNat 64 0x63 from rfl, show (1 : Word) = BitVec.ofNat 64 1 from rfl,
      show (0x20 : Word) = BitVec.ofNat 64 0x20 from rfl, show (0x40 : Word) = BitVec.ofNat 64 0x40 from rfl, h63, h1]
    by_cases hk : k < 64
    · have h0 : (0 : Word).getLsbD k = false := BitVec.getLsbD_zero
      cases st.getLsbD 0 <;> cases st.getLsbD 1 <;>
        simp only [hk, h20, h40, h0, if_true, if_false, Bool.false_eq_true, Bool.not_false, Bool.and_true, Bool.or_false, decide_true]
    · have : st.getLsbD k = false := BitVec.getLsbD_of_ge st k (by omega)
      cases st.getLsbD 0 <;> cases st.getLsbD 1 <;> simp [this, h20, h40]

/-- The status after the return from a trap, bit by bit (R317). -/
theorem returnStatus_bit (st : Word) (k : Nat) : (returnStatus st).getLsbD k =
    if k = 0 then st.getLsbD 5 else if k = 1 then st.getLsbD 6 else if k = 5 then false else if k = 6 then false
    else st.getLsbD k := by
  rcases Nat.lt_or_ge k 7 with h | h
  · have : k = 0 ∨ k = 1 ∨ k = 2 ∨ k = 3 ∨ k = 4 ∨ k = 5 ∨ k = 6 := by omega
    rcases this with rfl | rfl | rfl | rfl | rfl | rfl | rfl <;> unfold returnStatus <;>
      cases st.getLsbD 5 <;> cases st.getLsbD 6 <;> simp
  · have hp : (2 : Nat) ^ 7 ≤ 2 ^ k := Nat.pow_le_pow_right (by omega) h
    have h63 := high_bit_false 0x63 k (by omega)
    have h1 := high_bit_false 1 k (by omega)
    have h2 := high_bit_false 2 k (by omega)
    have e0 : k ≠ 0 := by omega
    have e1 : k ≠ 1 := by omega
    have e5 : k ≠ 5 := by omega
    have e6 : k ≠ 6 := by omega
    simp only [returnStatus, BitVec.getLsbD_or, BitVec.getLsbD_and, BitVec.getLsbD_not, e0, e1, e5, e6, if_false]
    rw [show (0x63 : Word) = BitVec.ofNat 64 0x63 from rfl, show (1 : Word) = BitVec.ofNat 64 1 from rfl,
      show (2 : Word) = BitVec.ofNat 64 2 from rfl, h63]
    by_cases hk : k < 64
    · have h0 : (0 : Word).getLsbD k = false := BitVec.getLsbD_zero
      cases st.getLsbD 5 <;> cases st.getLsbD 6 <;>
        simp only [hk, h1, h2, h0, if_true, if_false, Bool.false_eq_true, Bool.not_false, Bool.and_true, Bool.or_false, decide_true]
    · have : st.getLsbD k = false := BitVec.getLsbD_of_ge st k (by omega)
      cases st.getLsbD 5 <;> cases st.getLsbD 6 <;> simp [this, h1, h2]

/-- The handler's address clears the two low bits of SR_TVEC. -/
theorem handler_eq (p : Pip) : p.handler = (p.tvec >>> 2) <<< 2 := by
  unfold Pip.handler
  apply BitVec.eq_of_getLsbD_eq
  intro k hk
  simp only [BitVec.getLsbD_and, BitVec.getLsbD_not, BitVec.getLsbD_shiftLeft, BitVec.getLsbD_ushiftRight, hk]
  rcases Nat.lt_or_ge k 2 with h | h
  · have : k = 0 ∨ k = 1 := by omega
    rcases this with rfl | rfl <;> simp
  · have hp : (2 : Nat) ^ 2 ≤ 2 ^ k := Nat.pow_le_pow_right (by omega) h
    have h3 := high_bit_false 3 k (by omega)
    rw [show (3 : Word) = BitVec.ofNat 64 3 from rfl, h3]
    have e : 2 + (k - 2) = k := by omega
    first | (simp [e]; done) | (simp [e]; omega)

theorem handler_zero (p : Pip) : p.handler = 0 ↔ p.tvec >>> 2 = 0 := by
  rw [handler_eq]
  constructor
  · intro h
    apply BitVec.eq_of_getLsbD_eq
    intro k hk
    have hb := congrArg (fun x : Word => x.getLsbD (k + 2)) h
    simp only [BitVec.getLsbD_shiftLeft] at hb
    by_cases hk2 : k + 2 < 64
    · simpa [hk2] using hb
    · have hz : p.tvec.getLsbD (2 + k) = false := BitVec.getLsbD_of_ge p.tvec (2 + k) (by omega)
      simp [BitVec.getLsbD_ushiftRight, hz]
  · intro h; rw [h]; rfl

/-- Trap entry does what R315 says, whatever the cause. -/
theorem enterTrap_trapped (p : Pip) (c : Cause) (async : Bool) (val : Word) :
    p.Trapped (p.enterTrap c async val) c.code async val := by
  have hs : (p.enterTrap c async val).status = trapStatus p.status := by unfold Pip.enterTrap; split <;> rfl
  refine ⟨?_, ?_, ?_, ?_, ?_, ?_, ?_⟩
  · unfold Pip.enterTrap; split <;> exact ⟨rfl, rfl, rfl⟩
  · rw [hs, trapStatus_bit, trapStatus_bit]; simp
  · rw [hs, trapStatus_bit, trapStatus_bit]; simp
  · intro k h0 h1 h5 h6; rw [hs, trapStatus_bit]; simp [h0, h1, h5, h6]
  · rw [← handler_eq]; unfold Pip.enterTrap; split <;> exact ⟨rfl, rfl⟩
  · unfold Pip.enterTrap; split <;> exact ⟨rfl, rfl, rfl, rfl, rfl, rfl⟩
  · unfold Pip.enterTrap; split <;> exact ⟨rfl, rfl, rfl, rfl, rfl, rfl, rfl, rfl, rfl, rfl, rfl⟩

/-- Taking a trap: everything the one operation can do. -/
theorem takeTrap_traps (s : State) (k : Nat) (p : Pip) (c : Cause) (async : Bool) (val : Word) :
    s.Traps k p c.code async val (s.takeTrap k p c async val) := by
  unfold State.Traps State.takeTrap
  by_cases h : p.handler = 0
  · rw [if_pos ((handler_zero p).1 h), if_pos h]
  · rw [if_neg (fun e => h ((handler_zero p).2 e)), if_neg h]
    exact ⟨_, rfl, enterTrap_trapped p c async val⟩

@[simp] theorem takeTrap_hbm (s : State) (k : Nat) (p : Pip) (c : Cause) (async : Bool) (val : Word) :
    (s.takeTrap k p c async val).hbm = s.hbm := by unfold State.takeTrap; split <;> rfl
@[simp] theorem takeTrap_clusters (s : State) (k : Nat) (p : Pip) (c : Cause) (async : Bool) (val : Word) :
    (s.takeTrap k p c async val).clusters = s.clusters := by unfold State.takeTrap; split <;> rfl
@[simp] theorem takeTrap_cores (s : State) (k : Nat) (p : Pip) (c : Cause) (async : Bool) (val : Word) :
    (s.takeTrap k p c async val).cores = s.cores := by unfold State.takeTrap; split <;> rfl
@[simp] theorem takeTrap_net (s : State) (k : Nat) (p : Pip) (c : Cause) (async : Bool) (val : Word) :
    (s.takeTrap k p c async val).net = s.net := by unfold State.takeTrap; split <;> rfl

end Sys2Proof.Machine
end

