-- ==== Sys2Proof/Tests/Slice0.lean ====
section
/-! SUPPORT. Tests of the model against the manual's worked examples, and states that meet the hypotheses of the statements. -/

namespace Sys2Proof.Tests

set_option Elab.async false

open Sys2Proof Sys2Proof.Machine

/-! ### Well-formedness: one ill-formed term for each check -/

theorem test_wf_integer : (Instr.ext 0 6 1 2).wf = false ∧ (Instr.sel 0 0 0 12 1 2 3).wf = false ∧
    (Instr.shlI 1 0 32 1 2).wf = false ∧ (Instr.shrI 0 0 64 1 2).wf = false ∧ (Instr.sraI 1 0 0xFFF 1 2).wf = false ∧
    (Instr.rotI 0 0 64 1 2).wf = false ∧ (Instr.bfx 0 7 57 1 2).wf = false ∧ (Instr.bfi 0 63 1 1 2).wf = false ∧
    (Instr.lih 0 1 1).wf = false ∧ (Instr.lih 1 1 0).wf = false := by decide

theorem test_wf_steer : (Instr.cmp 0 1 2 12).wf = false ∧ (Instr.cmpI 0 1 2 15).wf = false ∧ (Instr.cmpI 6 64 2 1).wf = false ∧
    (Instr.fcmp 6 0 1 2 3).wf = false ∧ (Instr.fcmp 0 0 1 2 12).wf = false ∧ (Instr.prep 0 12).wf = false ∧
    (Instr.prepr 0 1 13).wf = false ∧ (Instr.br 3 0).wf = false ∧ (Instr.br 0 12).wf = false ∧ (Instr.call 14).wf = false ∧
    (Instr.fork 1 12).wf = false ∧ (Instr.fcvt 1 0 0 0 1 2 3).wf = false ∧ (Instr.fcvt 0 0 1 1 4 2 3).wf = false ∧
    (Instr.fcvt 0 0 1 0 3 2 3).wf = false := by decide

theorem test_wf_memory : (Instr.ld 0 0 3 2 0 1 2).wf = false ∧ (Instr.st 0 0 3 1 0 1 2).wf = false ∧
    (Instr.ldv 0 0 1 0 1 2).wf = false ∧ (Instr.stv 0 0 1 0 1 2).wf = false ∧ (Instr.ldvx 0 0 0 1 0 1 2).wf = false ∧
    (Instr.stvx 0 0 0 1 0 1 2).wf = false ∧ (Instr.amo 0 0 0 0 9 1 2 3).wf = false ∧ (Instr.amo 0 0 0 1 0 1 2 3).wf = false ∧
    (Instr.cas 0 0 0 1 1 2 3).wf = false ∧ (Instr.red 0 0 0 0 1 2).wf = false ∧ (Instr.red 0 0 0 10 1 2).wf = false ∧
    (Instr.fence 3 0).wf = false ∧ (Instr.pref 0 0 1 2).wf = false ∧ (Instr.ldl 0 0 3 4 0 1 2).wf = false ∧
    (Instr.ldl 0 1 3 0 0 1 2).wf = false ∧ (Instr.stl 0 1 3 1 0 1 2).wf = false ∧ (Instr.stl 0 0 3 5 0 1 2).wf = false ∧
    (Instr.ldlv 0 1 0 0 1 2).wf = false ∧ (Instr.stlv 0 1 1 0 1 2).wf = false ∧ (Instr.amol 0 0 0 0 9 1 2 3).wf = false := by decide

theorem test_wf_units : (Instr.waitge 5 0 0 0 1 2).wf = false ∧ (Instr.waitge 0 0 4 0 1 2).wf = false ∧
    (Instr.waitge 1 0 1 0 1 2).wf = false ∧ (Instr.waitge 3 0 0 1 1 2).wf = false ∧ (Instr.sendr 0 0 1 2 0).wf = false ∧
    (Instr.copy 4 1 2).wf = false ∧ (Instr.mcast 4 1 2).wf = false ∧ (Instr.tinvRange 1 1 2).wf = false ∧
    (Instr.tinvAsid 0 1 2).wf = false ∧ (Instr.tinvAll 1 1 2).wf = false := by decide

theorem test_wf_vectors : (Instr.vadd 11 0 1 0 2 3).wf = false ∧ (Instr.vexp 3 0 1 2).wf = false ∧
    (Instr.vbitAnd 2 0 1 0 2 3).wf = false ∧ (Instr.vshfL 11 0 1 0 2 3).wf = false ∧ (Instr.vfma 3 0 1 0 2 3).wf = false ∧
    (Instr.vcvt 0 3 3 0 1 2).wf = false ∧ (Instr.vcvt 1 0 3 0 1 2).wf = false ∧ (Instr.vcvt 0 13 0 0 1 2).wf = false ∧
    (Instr.vcmp 0 4 0 0 1 0 2 3).wf = false ∧ (Instr.vcmp 0 0 13 0 1 0 2 3).wf = false ∧ (Instr.vcmp 0 0 0 0 1 0 2 12).wf = false ∧
    (Instr.vsel 0 13 0 1 0 2 3).wf = false ∧ (Instr.vred 3 0 0 1 2).wf = false ∧ (Instr.vred 0 11 0 1 2).wf = false ∧
    (Instr.vmovIns 0 16 1 2).wf = false ∧ (Instr.vmovExt 9 8 1 2).wf = false ∧ (Instr.mfs 0x006 1).wf = false ∧
    (Instr.mts 0 0x000 1).wf = false ∧ (Instr.mts 0 0x007 1).wf = false := by decide

/-! ### Words that the manual writes out, or written from its formats (chapters 6 and 13 to 18) -/

theorem test_decode_integer : decode 0x00004602 = .ok (.add 0 0 0 0 4 12) ∧ decode 0x9FFE9483 = .ok (.addI 1 0 0xFFF 9 9) ∧
    decode 0x024E6282 = .ok (.and 0 0 0 7 6 5) ∧ decode 0x01FE6284 = .ok (.andI 0 0 255 6 5) ∧
    decode 0x0398848D = .ok (.bfi 0 7 12 8 9) ∧ decode 0x0398848C = .ok (.bfx 0 7 12 8 9) ∧
    decode 0x05009402 = .ok (.clz 0 0 9 8) ∧ decode 0x85409402 = .ok (.ctz 1 0 9 8) ∧ decode 0x05809402 = .ok (.popc 0 0 9 8) ∧
    decode 0x01528502 = .ok (.div 0 0 0 9 8 10) ∧ decode 0x81928502 = .ok (.divZ 1 0 0 9 8 10) ∧
    decode 0x01D28502 = .ok (.rem 0 0 0 9 8 10) ∧ decode 0x05C29402 = .ok (.ext 0 1 9 8) ∧
    decode 0x86549482 = .ok (.hash 1 0 0 10 9 9) ∧ decode 0xFFFFF28E = .ok (.li 0xFFFFF 5) ∧
    decode 0x1665928F = .ok (.lih 1 0x6659 5) := by and_intros <;> rfl

theorem test_decode_integer_more : decode 0x04949402 = .ok (.max 0 0 0 10 9 8) ∧ decode 0x04549402 = .ok (.minZ 0 0 0 10 9 8) ∧
    decode 0x00928502 = .ok (.mul 0 0 0 9 8 10) ∧ decode 0x0014628B = .ok (.mulI 0 0 10 6 5) ∧
    decode 0x00D28502 = .ok (.mulh 0 0 0 9 8 10) ∧ decode 0x028E6282 = .ok (.or 0 0 0 7 6 5) ∧
    decode 0x01FE6285 = .ok (.orI 0 0 255 6 5) ∧ decode 0x00066287 = .ok (.shlI 0 0 3 6 5) ∧
    decode 0x83CE6282 = .ok (.rot 1 0 0 7 6 5) ∧ decode 0x08D49402 = .ok (.sel 0 0 0 3 10 9 8) ∧
    decode 0x004E6282 = .ok (.sub 0 0 0 7 6 5) ∧ decode 0x1FFE6286 = .ok (.xorI 0 0 0xFFF 6 5) := by and_intros <;> rfl

theorem test_decode_steer : decode 0x40805910 = .ok (.cmpI 2 64 5 2) ∧ decode 0xC07E6890 = .ok (.cmpI 6 63 6 1) ∧
    decode 0x40528191 = .ok (.fcmp 2 1 9 8 3) ∧ decode 0x00003212 = .ok (.prep 3 4) ∧ decode 0x00085093 = .ok (.prepr 4 5 1) ∧
    decode 0x00000114 = .ok (.br 0 2) ∧ decode 0x00002194 = .ok (.br 2 3) ∧ decode 0x00000315 = .ok (.call 6) := by and_intros <;> rfl

theorem test_decode_float : decode 0x00149418 = .ok (.fadd 0 0 0 10 9 8) ∧ decode 0x00D49418 = .ok (.fdiv 0 0 0 10 9 8) ∧
    decode 0x01949418 = .ok (.fmax 0 0 0 10 9 8) ∧ decode 0x81549418 = .ok (.fmin 1 0 0 10 9 8) ∧
    decode 0x80949418 = .ok (.fmul 1 0 0 10 9 8) ∧ decode 0x01009418 = .ok (.fsqrt 0 0 9 8) ∧
    decode 0x80549418 = .ok (.fsub 1 0 0 10 9 8) ∧ decode 0x842A9418 = .ok (.fcvt 1 0 1 0 5 9 8) ∧
    decode 0x82D49419 = .ok (.ffma 1 0 0 11 10 9 8) := by and_intros <;> rfl

theorem test_decode_global : decode 0x21FC74A0 = .ok (.ld 0 0 2 0 0xFE 7 9) ∧ decode 0x74007420 = .ok (.ld 0 1 3 2 0 7 8) ∧
    decode 0x7C0072A1 = .ok (.st 0 1 3 6 0 7 5) ∧ decode 0x300471A2 = .ok (.ldv 0 0 0 2 7 3) ∧
    decode 0x300471A3 = .ok (.stv 0 0 0 2 7 3) ∧ decode 0x200A7224 = .ok (.ldvx 0 0 0 0 5 7 4) ∧
    decode 0x200A7225 = .ok (.stvx 0 0 0 0 5 7 4) ∧ decode 0xE85074A6 = .ok (.amo 1 1 1 2 1 8 7 9) ∧
    decode 0x74107527 = .ok (.cas 0 1 1 5 8 7 10) ∧ decode 0x82507028 = .ok (.red 1 0 0 9 8 7) ∧
    decode 0x0400_0029 = .ok (.fence 0 2) ∧ decode 0x301070AB = .ok (.pref 0 8 7 1) ∧ decode 0x300074AC = .ok (.cpin 0 0 7 9) ∧
    decode 0x3000702D = .ok (.cunpin 0 0 7) ∧ decode 0x3000702E = .ok (.cflush 0 0 7) := by and_intros <;> rfl

theorem test_decode_local : decode 0x32007430 = .ok (.ldl 0 0 3 1 0 7 8) ∧ decode 0x34027132 = .ok (.ldlv 0 0 2 1 7 2) ∧
    decode 0x740072B1 = .ok (.stl 0 1 3 2 0 7 5) ∧ decode 0x32027133 = .ok (.stlv 0 0 1 1 7 2) ∧
    decode 0x585074B4 = .ok (.amol 0 1 0 6 1 8 7 9) ∧ decode 0x0016A4B8 = .ok (.popen 0 0 11 10 9) ∧
    decode 0x0000B539 = .ok (.seal 0 11 10) ∧ decode 0x0004B63A = .ok (.pstat 0 2 11 12) ∧ decode 0x0000A4BB = .ok (.pfree 0 10 9) ∧
    decode 0x0016A03C = .ok (.preset 0 0 11 10) ∧ decode 0x002B4040 = .ok (.bari 0 0 21 20) ∧ decode 0x00014041 = .ok (.bara 0 20) ∧
    decode 0x000144C2 = .ok (.barw 20 9) ∧ decode 0x4A16A4C3 = .ok (.waitge 4 5 0 11 10 9) ∧
    decode 0x400C54C4 = .ok (.sendr 1 0 6 5 9) ∧ decode 0x000081C8 = .ok (.fork 8 3) ∧ decode 0x00008049 = .ok (.join 8) := by and_intros <;> rfl

theorem test_decode_units : decode 0x000083CB = .ok (.launch 8 7) ∧ decode 0x0080D650 = .ok (.copy 2 13 12) ∧
    decode 0x0000D651 = .ok (.mcast 0 13 12) ∧ decode 0x0000A4D2 = .ok (.gatherList 10 9) ∧ decode 0x1000A4D2 = .ok (.gatherSpr 10 9) ∧
    decode 0x1000A4D3 = .ok (.scatterSpr 10 9) ∧ decode 0x2000A4D4 = .ok (.mergeM2 10 9) ∧ decode 0x0000D655 = .ok (.mtask 13 12) ∧
    decode 0x0000A4D6 = .ok (.mload 10 9) ∧ decode 0x0A00A4D7 = .ok (.tinvRange 5 10 9) ∧ decode 0x2C00A4D7 = .ok (.tinvAll 6 10 9) ∧
    decode 0x0001BCD8 = .ok (.pgalloc 27 25) ∧ decode 0x0000A4DE = .ok (.kvapp 10 9) ∧ decode 0x0000B55F = .ok (.kvld 11 10) ∧
    decode 0x0000D660 = .ok (.attn 13 12) ∧ decode 0x002204FC = .ok (.mfs 0x011 9) ∧ decode 0x0012507D = .ok (.mtsSrTcmp 0 5) := by and_intros <;> rfl

theorem test_decode_vectors : decode 0x000620E8 = .ok (.vadd 0 0 3 0 2 1) ∧ decode 0x14004268 = .ok (.vexp 0 0 4 4) ∧
    decode 0x000093F0 = .ok (.vbcast 0 9 7) ∧ decode 0x28C6116B = .ok (.vcmp 1 2 3 0 3 0 1 2) ∧
    decode 0x018620F2 = .ok (.vcomp 6 0 3 0 2 1) ∧ decode 0x02C0116A = .ok (.vcvt 0 0 11 0 1 2) ∧
    decode 0x000620E9 = .ok (.vfma 0 0 3 0 2 1) ∧ decode 0x0004136F = .ok (.vmaxi 0 0 2 0 1 6) ∧
    decode 0x000020F1 = .ok (.vmov 0 0 2 1) ∧ decode 0x018620ED = .ok (.vperm 6 0 3 0 2 1) ∧ decode 0x000012EE = .ok (.vred 0 0 0 1 5) ∧
    decode 0x118620EC = .ok (.vsel 4 6 0 3 0 2 1) := by and_intros <;> rfl

/-- Words without fields, and words that are no instruction: an unassigned opcode, an unassigned function, a fixed bit. -/
theorem test_decode_rejects : decode 0x00000001 = .ok .nop ∧ decode 0x00000016 = .ok .ret ∧ decode 0x0000002A = .ok .mark ∧
    decode 0x0000004A = .ok .done ∧ decode 0x00000078 = .ok .ecall ∧ decode 0x00000079 = .ok .eret ∧ decode 0x0000007A = .ok .brk ∧
    decode 0x0000007B = .ok .wfi ∧ decode 0x00000045 = .ok .pause ∧ decode 0 = .error (.unassignedOpcode 0) ∧
    decode 0x06000002 = .error (.unassignedFunction 2 24) ∧ decode 0x80000001 = .error (.fixedBit "NOP") ∧
    decode 0x00000614 = .error (.fieldRange "BR") := by and_intros <;> rfl

/-! ### Small states -/

/-- A pip in mode S with every register full. -/
def pip0 : Pip := { launch := 1, status := 1 }

/-- The same with values in g3 and g4. -/
def pipWith (x y : Word) : Pip := { pip0 with g := (pip0.g.set 3 x).set 4 y }

/-- Cluster 0 holds launch 1: 4 KiB, of which 2 KiB are the pod region. -/
def cluster0 : Cluster := { launch := some 1, spres := 0x1000, podBytes := 0x800, podDesc := 4 }

/-- A module with one job whose rank 0 it is, and its launch 1 on cluster 0. -/
def base : State := { State.reset with
  jobs := [(0, { ranks := [(0, 0x100000), (1, 0x100001)] })], launches := [(1, { fetchLaunch with record := { fetchLaunch.record with spres := 0x1000, podBytes := 0x800, podDesc := 4 } })],
  clusters := [(0, cluster0)] }

/-- The pip in slot 0. -/
def at0 (q : Pip) : State := base.setPip 0 q

/-- The pip in slot 0 and another description of cluster 0. -/
def in0 (c : Cluster) (q : Pip) : State := (base.setCluster 0 c).setPip 0 q

/-- What holds of the state an instruction answers. -/
def after {α : Type} (i : Instr) (s : State) (f : State → α) : Option α :=
  match exec i s with
  | .next t => some (f t)
  | _ => none

/-- Register `r` of slot 0 after an instruction. -/
def gAfter (i : Instr) (s : State) (r : Reg) : Option Word := (after i s (fun t => (t.pip 0).map (fun p => p.gv r))).join

/-- The result of the operation that an instruction issued. -/
def resultAfter (i : Instr) (s : State) : Option Word :=
  (after i s (fun t => (t.pip 0).bind (fun p => (p.ops.getLast?).map (fun o => o.result.setWidth 64)))).join

/-! ### Worked examples of the manual -/

/-- R390: with w = 1, MAX of 0x80000000 and 1 is 1, and MAX.z is 0x80000000, sign-extended. -/
theorem test_max_examples : gAfter (.max 1 0 0 4 3 5) (at0 (pipWith 0x80000000 1)) 5 = some 1 ∧
    gAfter (.maxZ 1 0 0 4 3 5) (at0 (pipWith 0x80000000 1)) 5 = some 0xFFFFFFFF80000000 := by decide

/-- R402: MULH of −1 and 3 is −1; MULH.z of all ones and 3 is 2. -/
theorem test_mulh_examples : gAfter (.mulh 0 0 0 4 3 5) (at0 (pipWith (-1) 3)) 5 = some (-1) ∧
    gAfter (.mulhZ 0 0 0 4 3 5) (at0 (pipWith (-1) 3)) 5 = some 2 := by decide

/-- R364: with w = 1, DIV of −7 by 2 is −3, and DIV.z of 0xFFFFFFF9 by 2 is 0x7FFFFFFC. -/
theorem test_div_examples : resultAfter (.div 1 0 0 4 3 5) (at0 (pipWith 0xFFFFFFF9 2)) = some (-3) ∧
    resultAfter (.divZ 1 0 0 4 3 5) (at0 (pipWith 0xFFFFFFF9 2)) = some 0x7FFFFFFC := by decide +kernel

/-- R417: REM of −7 by 2 is −1; REM.z of 7 by 0 is 7. -/
theorem test_rem_examples : resultAfter (.rem 0 0 0 4 3 5) (at0 (pipWith (-7) 2)) = some (-1) ∧
    resultAfter (.remZ 0 0 0 4 3 5) (at0 (pipWith 7 0)) = some 7 := by decide +kernel

/-- R419: of 0xFFFFFFFF80000000 by 1, shr.w is 0x40000000 and sra.w is 0xFFFFFFFFC0000000. -/
theorem test_shift_examples : gAfter (.shr 1 0 0 4 3 5) (at0 (pipWith 0xFFFFFFFF80000000 1)) 5 = some 0x40000000 ∧
    gAfter (.sra 1 0 0 4 3 5) (at0 (pipWith 0xFFFFFFFF80000000 1)) 5 = some 0xFFFFFFFFC0000000 := by decide

/-- R353: BFX of position 12, length 8 moves bits [19:12] into bits [7:0]; R358: CLZ of zero is 64, or 32 with w = 1. -/
theorem test_field_examples : gAfter (.bfx 0 7 12 3 5) (at0 (pipWith 0xABCDE 0)) 5 = some 0xAB ∧
    gAfter (.clz 0 0 4 5) (at0 (pipWith 0 0)) 5 = some 64 ∧ gAfter (.ctz 1 0 4 5) (at0 (pipWith 0 0)) 5 = some 32 ∧
    gAfter (.add 0 0 0 4 3 0) (at0 (pipWith 1 2)) 0 = some 0 := by decide

/-- R359: `cmp.ltz` with −1 is true of every value but all ones. -/
theorem test_compare_example :
    (after (.cmpI 4 0xFFF 3 1) (at0 (pipWith 5 0)) (fun t => (t.pip 0).map (fun p => (p.steer 1).c))).join = some true ∧
    (after (.cmpI 4 0xFFF 3 1) (at0 (pipWith (-1) 0)) (fun t => (t.pip 0).map (fun p => (p.steer 1).c))).join = some false := by decide

/-- R369 with R2: 1.5 + 2.25 = 3.75 in f64 raises no flag, and 1/3 raises inexact. -/
theorem test_float : gAfter (.fadd 0 0 0 4 3 5) (at0 (pipWith 0x3FF8000000000000 0x4002000000000000)) 5 = some 0x400E000000000000 ∧
    resultAfter (.fdiv 0 0 0 4 3 5) (at0 (pipWith 0x3FF0000000000000 0x4008000000000000)) = some 0x3FD5555555555555 := by decide +kernel

/-- R315 and R317: a system call saves the PC and goes to the handler in mode S; the return goes back. -/
theorem test_trap_and_return :
    (after .ecall (at0 { pip0 with pc := 0x40, tvec := 0x8000, status := 0 }) (fun t => (t.pip 0).map (fun p =>
      (p.pc, p.tpc, p.tcause, p.status)))).join = some (0x8000, 0x40, 8, 1) ∧
    (after .eret (at0 { pip0 with pc := 0x8004, tpc := 0x44, status := 0x41 }) (fun t => (t.pip 0).map (fun p => (p.pc, p.status)))).join =
      some (0x44, 2) := by decide

/-- R297: with T0 = 1,000,000,000 and INTERVAL = 250, the gate of rank 4,095 opens 1,023,750 ns later. -/
theorem test_stagger_example :
    after (.stagger 0 1 1000000000 250) { base with jobs := [(0, { ownRank := 4095 })] } (fun t => (t.jobOf 0).gate) =
      some (some 1001023750) := by decide

/-- A step runs the word that `withFetchWord` places: R335's `add g12, g4, g0`, and R163's `li g5, -1`. -/
theorem test_fetch_and_run : (match step (State.reset.withFetchWord 32 0xFFFFF28E) with
    | .next t => (t.pip 0).map (fun p => (p.gv 5, p.pc))
    | _ => none) = some (0xFFFFFFFFFFFFFFFF, 0x1004) := by decide

/-! ### States that meet the hypotheses of the statements on instructions of a pip -/

theorem ready_of {s : State} {i : Instr} {u : Uses} {q : Pip} (h : s.pip s.cur = some q) (hw : i.wf = true)
    (hm : q.status.getLsbD 0 = true) (hg : q.gFull = BitVec.allOnes 32) (hv : q.vFull = BitVec.allOnes 16) (ho : q.ops = []) :
    s.Ready i u q := by
  refine ⟨h, hw, fun _ => hm, ⟨fun r _ => ?_, fun r _ => ?_⟩, ⟨fun r _ => ?_, fun r _ => ?_⟩, fun _ => ?_⟩
  · rw [Pip.gf, hg, BitVec.getLsbD_allOnes, decide_eq_true (show r.toNat < 32 from r.isLt), Bool.or_true]
  · rw [Pip.vf, hv, BitVec.getLsbD_allOnes]; exact decide_eq_true r.isLt
  · simp [Pip.gBusy, ho]
  · simp [Pip.vBusy, ho]
  · simp [Pip.fullBits, ho]

/-- The pip with two operands is ready for every well-formed instruction. -/
theorem ready0 (x y : Word) (i : Instr) (u : Uses) (hw : i.wf = true) : (at0 (pipWith x y)).Ready i u (pipWith x y) :=
  ready_of (State.pip_setPip base 0 _) hw (by show (1 : Word).getLsbD 0 = true; decide) rfl rfl rfl

theorem ready1 (c : Cluster) (x y : Word) (i : Instr) (u : Uses) (hw : i.wf = true) :
    (in0 c (pipWith x y)).Ready i u (pipWith x y) :=
  ready_of (State.pip_setPip (base.setCluster 0 c) 0 _) hw (by show (1 : Word).getLsbD 0 = true; decide) rfl rfl rfl

theorem canonical_small (a : Word) (h : a.toNat < 2 ^ 55) : Canonical a := by
  intro k h1 h2
  have e : ∀ j, 55 ≤ j → a.getLsbD j = false := fun j hj => by
    have : a.toNat < 2 ^ j := Nat.lt_of_lt_of_le h (Nat.pow_le_pow_right (by omega) hj)
    simpa [BitVec.getLsbD] using Nat.testBit_lt_two_pow this
  rw [e k h1, e 55 (Nat.le_refl _)]

theorem meets_RegistersHoldWhatIsWritten : (1 : Reg) ≠ 0 ∧ (31 : Reg) ≠ 1 ∧ (15 : Reg4) ≠ 0 ∧ 11 < 12 ∧ (0 : Nat) ≠ 11 := by decide

theorem meets_integer_operations :
    (at0 (pipWith 7 2)).Ready (.add 1 0 0 4 3 5) (usesR 0 0 3 4 5) (pipWith 7 2) ∧
    (at0 (pipWith 7 2)).Ready (.xorI 0 1 0xFFF 3 5) (usesA 1 3 5) (pipWith 7 2) ∧
    (at0 (pipWith 7 2)).Ready (.rot 1 1 1 4 3 5) (usesR 1 1 3 4 5) (pipWith 7 2) ∧
    (at0 (pipWith 7 2)).Ready (.mulhZ 0 0 0 4 3 0) (usesR 0 0 3 4 0) (pipWith 7 2) ∧
    (at0 (pipWith 7 2)).Ready (.clz 1 0 3 5) (usesA 0 3 5) (pipWith 7 2) ∧
    (at0 (pipWith 7 2)).Ready (.remZ 1 0 0 4 3 5) { usesR 0 0 3 4 5 with fullBit := true } (pipWith 7 2) :=
  ⟨ready0 _ _ _ _ rfl, ready0 _ _ _ _ rfl, ready0 _ _ _ _ rfl, ready0 _ _ _ _ rfl, ready0 _ _ _ _ rfl, ready0 _ _ _ _ rfl⟩

theorem meets_DivisionTruncatesWithItsCorners : (BitVec.allOnes 32 : BitVec 32) ≠ 0 ∧
    (BitVec.intMin 32).sdiv (BitVec.allOnes 32) = BitVec.intMin 32 := by decide

theorem meets_FieldsConstantsAndChoicesWriteTheirResult :
    (at0 (pipWith 7 2)).Ready (.ext 0 5 3 5) (usesA 0 3 5) (pipWith 7 2) ∧
    (at0 (pipWith 7 2)).Ready (.bfx 0 63 0 3 5) (usesA 0 3 5) (pipWith 7 2) ∧
    (at0 (pipWith 7 2)).Ready (.li 0x80000 5) { gd := [5] } (pipWith 7 2) ∧
    (at0 (pipWith 7 2)).Ready (.sel 0 0 0 11 4 3 5) (usesR 0 0 3 4 5) (pipWith 7 2) ∧
    (at0 (pipWith 7 2)).Ready (.hash 1 0 0 4 3 5) (usesR 0 0 3 4 5) (pipWith 7 2) ∧
    (at0 (pipWith 7 2)).Ready (.bfi 0 7 56 3 5) { g := [3, 5], gs := syncG 0 3, gd := [5] } (pipWith 7 2) ∧
    (at0 (pipWith 7 2)).Ready (.lih 3 0xFFFF 5) { g := [5], gd := [5] } (pipWith 7 2) :=
  ⟨ready0 _ _ _ _ rfl, ready0 _ _ _ _ rfl, ready0 _ _ _ _ rfl, ready0 _ _ _ _ rfl, ready0 _ _ _ _ rfl, ready0 _ _ _ _ rfl,
    ready0 _ _ _ _ rfl⟩

theorem meets_ComparesWriteTheConditionBit :
    (at0 (pipWith 7 2)).Ready (.cmp 7 4 3 11) { g := [3, 4] } (pipWith 7 2) ∧
    (at0 (pipWith 7 2)).Ready (.cmpI 6 63 3 0) { g := [3] } (pipWith 7 2) ∧
    (at0 (pipWith 7 2)).Ready (.fcmp 5 1 4 3 0) { g := [3, 4] } (pipWith 7 2) ∧ decodeF .f64 (0x7FF8000000000000 % 2 ^ 64) = .nan :=
  ⟨ready0 _ _ _ _ rfl, ready0 _ _ _ _ rfl, ready0 _ _ _ _ rfl, by decide⟩

theorem meets_BranchesGoToTheTargetThatAPrepSet :
    (at0 (pipWith 7 0)).Ready (.prep 0x80000 11) {} (pipWith 7 0) ∧ (at0 (pipWith 7 0)).Ready (.prepr 0 3 0) { g := [3] } (pipWith 7 0) ∧
    (at0 (pipWith 7 0)).Ready (.br 2 11) {} (pipWith 7 0) ∧ (at0 (pipWith 7 0)).Ready (.call 0) { gd := [1] } (pipWith 7 0) ∧
    (at0 (pipWith 7 0)).Ready .ret { g := [1] } (pipWith 7 0) ∧ (at0 (pipWith 7 0)).Ready .nop {} (pipWith 7 0) ∧
    ((pipWith 4 0).gv 3 + ((0 : BitVec 12).signExtend 64 <<< 2)).extractLsb' 0 2 = (0 : BitVec 2) ∧
    ((pipWith 7 0).gv 3).extractLsb' 0 2 ≠ (0 : BitVec 2) ∧
    ({ pip0 with b := pip0.b.set 1 { c := true, tv := true, t := 8 } }.steer 1).tv = true ∧ (pip0.steer 1).tv = false :=
  ⟨ready0 _ _ _ _ rfl, ready0 _ _ _ _ rfl, ready0 _ _ _ _ rfl, ready0 _ _ _ _ rfl, ready0 _ _ _ _ rfl, ready0 _ _ _ _ rfl,
    by decide, by decide, by decide, by decide⟩

theorem meets_ScalarFloatRoundsTheExactResultOnce :
    (at0 (pipWith 7 2)).Ready (.fadd 1 0 0 4 3 5) (usesR 0 0 3 4 5) (pipWith 7 2) ∧
    (at0 (pipWith 7 2)).Ready (.fdiv 0 0 0 4 3 5) { usesR 0 0 3 4 5 with fullBit := true } (pipWith 7 2) ∧
    (at0 (pipWith 7 2)).Ready (.fsqrt 0 0 3 5) { usesA 0 3 5 with fullBit := true } (pipWith 7 2) ∧
    (at0 (pipWith 7 2)).Ready (.ffma 0 0 0 4 4 3 5) { g := [3, 4, 4], gs := syncG 0 3 ++ syncG 0 4, gd := [5] } (pipWith 7 2) ∧
    (at0 (pipWith 7 2)).Ready (.fmin 0 0 0 4 3 5) (usesR 0 0 3 4 5) (pipWith 7 2) ∧
    (at0 (pipWith 7 2)).Ready (.fmax 1 0 0 4 3 5) (usesR 0 0 3 4 5) (pipWith 7 2) ∧
    (at0 (pipWith 7 2)).Ready (.fcvt 0 0 1 0 7 3 5) (usesA 0 3 5) (pipWith 7 2) ∧
    (at0 (pipWith 7 2)).Ready (.fcvt 1 0 0 1 0 3 5) (usesA 0 3 5) (pipWith 7 2) :=
  ⟨ready0 _ _ _ _ rfl, ready0 _ _ _ _ rfl, ready0 _ _ _ _ rfl, ready0 _ _ _ _ rfl, ready0 _ _ _ _ rfl, ready0 _ _ _ _ rfl,
    ready0 _ _ _ _ rfl, ready0 _ _ _ _ rfl⟩

theorem meets_vector_lanes :
    (integerLanes 3 ∧ integerLanes 10 ∧ (at0 (pipWith 7 2)).Ready (.vadd 10 0 2 0 1 3) (usesV 0 0 1 2 3) (pipWith 7 2)) ∧
    (laneFloat 0 = some .f32 ∧ laneFloat 2 ≠ none ∧ laneFloat 3 = none ∧
      (at0 (pipWith 7 2)).Ready (.vmul 2 0 2 0 1 3) (usesV 0 0 1 2 3) (pipWith 7 2)) ∧
    (at0 (pipWith 7 2)).Ready (.vrsq 1 0 1 3) { v := [1], vs := syncV 0 1, vd := [3], fullBit := true } (pipWith 7 2) ∧
    (at0 (pipWith 7 2)).Ready (.vmax 0 0 2 0 1 3) (usesV 0 0 1 2 3) (pipWith 7 2) ∧
    (at0 (pipWith 7 2)).Ready (.vfma 2 0 2 0 1 3) { v := [1, 2, 3], vs := syncV 0 1 ++ syncV 0 2, vd := [3] } (pipWith 7 2) ∧
    (at0 (pipWith 7 2)).Ready (.vcvt 1 0 12 0 1 3) { v := [1], vs := syncV 0 1, vd := [3] } (pipWith 7 2) :=
  ⟨⟨⟨by decide, by decide⟩, ⟨by decide, by decide⟩, ready0 _ _ _ _ rfl⟩, ⟨by decide, by decide, by decide, ready0 _ _ _ _ rfl⟩, ready0 _ _ _ _ rfl, ready0 _ _ _ _ rfl,
    ready0 _ _ _ _ rfl, ready0 _ _ _ _ rfl⟩

theorem meets_LanesAreSelectedMovedAndCompared :
    (at0 (pipWith 7 2)).Ready (.vcmp 1 7 3 0 2 0 1 11) { v := [1, 2], vs := syncV 0 1 ++ syncV 0 2 } (pipWith 7 2) ∧
    (at0 (pipWith 7 2)).Ready (.vsel 4 12 0 2 0 1 3) { v := [1, 2, 4], vs := syncV 0 1 ++ syncV 0 2, vd := [3] } (pipWith 7 2) ∧
    (at0 (pipWith 7 2)).Ready (.vperm 12 0 2 0 1 3) (usesV 0 0 1 2 3) (pipWith 7 2) ∧
    (at0 (pipWith 7 2)).Ready (.vcomp 0 0 2 0 1 3) (usesV 0 0 1 2 3) (pipWith 7 2) ∧
    (at0 (pipWith 7 2)).Ready (.vbcast 12 3 1) { g := [3], vd := [1] } (pipWith 7 2) ∧
    (at0 (pipWith 7 2)).Ready (.vmov 0 0 1 3) { v := [1], vs := syncV 0 1, vd := [3] } (pipWith 7 2) ∧
    (at0 (pipWith 7 2)).Ready (.vmovIns 0 15 3 1) { g := [3], v := [1], vd := [1] } (pipWith 7 2) ∧
    (at0 (pipWith 7 2)).Ready (.vmovExt 10 7 1 5) { v := [1], gd := [5] } (pipWith 7 2) :=
  ⟨ready0 _ _ _ _ rfl, ready0 _ _ _ _ rfl, ready0 _ _ _ _ rfl, ready0 _ _ _ _ rfl, ready0 _ _ _ _ rfl, ready0 _ _ _ _ rfl,
    ready0 _ _ _ _ rfl, ready0 _ _ _ _ rfl⟩

theorem meets_ReductionsLookAtEveryLane :
    (at0 (pipWith 7 2)).Ready (.vmaxi 0 0 2 0 1 3) (usesV 0 0 1 2 3) (pipWith 7 2) ∧
    (at0 (pipWith 7 2)).Ready (.vred 0 0 0 1 3) { v := [1], vs := syncV 0 1, vd := [3], fullBit := true } (pipWith 7 2) ∧
    (at0 (pipWith 7 2)).Ready (.vred 2 10 0 1 3) { v := [1], vs := syncV 0 1, vd := [3], fullBit := true } (pipWith 7 2) :=
  ⟨ready0 _ _ _ _ rfl, ready0 _ _ _ _ rfl, ready0 _ _ _ _ rfl⟩

/-- An ill-formed word; a privileged one in mode U; an empty source, a busy destination, sixteen operations outstanding. -/
theorem meets_ExaminationComesBeforeAnyEffect :
    ((at0 pip0).pip 0 = some pip0 ∧ (Instr.br 3 0).uses pip0 = some {} ∧ (Instr.br 3 0).wf = false) ∧
    (Instr.wfi.uses pip0 = some { priv := true } ∧ { pip0 with status := 0 }.mode = false) ∧
    ({ pip0 with gFull := 0 }.gf 3 = false ∧ { pip0 with vFull := 0 }.vf 0 = false) ∧
    ({ pip0 with ops := [{ id := 0, kind := .pure, dest := .g 5 }] }.gBusy 5 = true) ∧
    { pip0 with ops := List.replicate 16 { id := 0, kind := .pure, dest := .v 5 } }.fullBits = 16 := by
  refine ⟨⟨State.pip_setPip base 0 pip0, rfl, by decide⟩, ⟨rfl, by decide⟩, ⟨by decide, by decide⟩, by decide, by decide⟩

theorem meets_frames :
    ((Instr.vcomp 0 0 2 0 1 3).plain = true ∧ (at0 (pipWith 7 2)).Ready (.vcomp 0 0 2 0 1 3) (usesV 0 0 1 2 3) (pipWith 7 2)) ∧
    ((Instr.fadd 0 0 0 4 3 5).rounding = true ∧ (at0 (pipWith 7 2)).Ready (.fadd 0 0 0 4 3 5) (usesR 0 0 3 4 5) (pipWith 7 2)) ∧
    ((Instr.div 0 0 0 4 3 5).later = true ∧
      (at0 (pipWith 7 2)).Ready (.div 0 0 0 4 3 5) { usesR 0 0 3 4 5 with fullBit := true } (pipWith 7 2)) ∧
    ((Instr.ld 0 0 3 0 0 3 5).access = true ∧
      (at0 (pipWith 7 2)).Ready (.ld 0 0 3 0 0 3 5) { g := [3], gs := syncG 0 3, gd := [5], fullBit := true } (pipWith 7 2)) :=
  ⟨⟨rfl, ready0 _ _ _ _ rfl⟩, ⟨rfl, ready0 _ _ _ _ rfl⟩, ⟨rfl, ready0 _ _ _ _ rfl⟩, ⟨rfl, ready0 _ _ _ _ rfl⟩⟩

theorem meets_system_instructions :
    (at0 (pipWith 7 0)).Ready .ecall {} (pipWith 7 0) ∧ (at0 (pipWith 7 0)).Ready .brk {} (pipWith 7 0) ∧
    (at0 (pipWith 7 0)).Ready .eret { priv := true } (pipWith 7 0) ∧ (pipWith 7 0).replays = false ∧
    (at0 (pipWith 7 0)).Ready .wfi { priv := true } (pipWith 7 0) ∧ (at0 (pipWith 7 0)).Ready .pause {} (pipWith 7 0) ∧
    (at0 { pip0 with tvec := 0x8000 }).Ready .ecall {} { pip0 with tvec := 0x8000 } ∧ (0x8000 : Word) >>> 2 ≠ 0 ∧
    0x7A % 128 = 0x7A ∧ 128 ≤ 0xFFFFFF7A ∧ 0xFFFFFF7A % 128 = 0x7A ∧ 0xFFFFFF7A < 2 ^ 32 :=
  ⟨ready0 _ _ _ _ rfl, ready0 _ _ _ _ rfl, ready0 _ _ _ _ rfl, rfl, ready0 _ _ _ _ rfl, ready0 _ _ _ _ rfl,
    ready_of (State.pip_setPip base 0 _) rfl (by decide) rfl rfl rfl, by decide, by decide, by decide, by decide, by decide⟩

/-- A pip that is ready, with a deferred trap, with ENGINE_REJECT, and with IE and each of the other events. -/
theorem meets_PendingEventsAreTakenInTheirOrder :
    (at0 pip0).pip 0 = some pip0 ∧ pip0.held = false ∧ pip0.cond ≠ .idle ∧ pip0.cond ≠ .inTransit ∧ pip0.deferredTrap = none ∧
    (∀ c a, some ((3 : Nat), (8 : Word)) = some (c, a) → c = 3 ∨ c = 4) ∧
    { pip0 with ipend := 0x1F }.ipend.getLsbD 4 = true ∧ { pip0 with status := 3 }.status.getLsbD 1 = true ∧
    (0x0F : Word).getLsbD 3 = true ∧ (0x07 : Word).getLsbD 2 = true ∧ (0x03 : Word).getLsbD 0 = true ∧ (0x02 : Word).getLsbD 1 = true := by
  refine ⟨State.pip_setPip base 0 pip0, by decide, by decide, by decide, rfl, ?_, by decide, by decide, by decide, by decide, by decide,
    by decide⟩
  intro c a h; cases h; exact .inl rfl

theorem meets_status_registers :
    (∀ n : BitVec 12, statusNumber n = true →
      (at0 (pipWith 7 0)).Ready (.mfs n 5) { gd := [5], priv := noneInU n.toNat } (pipWith 7 0)) ∧
    (at0 (pipWith 7 0)).Ready (.mts 0 0x010 3) (mtsUses 0 3 (!writableInU 0x010)) (pipWith 7 0) ∧
    (at0 (pipWith 7 0)).Ready (.mtsSrStatus 0 3) (mtsUses 0 3 false) (pipWith 7 0) ∧
    (at0 (pipWith 7 0)).Ready (.mtsSrTcmp 0 3) (mtsUses 0 3 false) (pipWith 7 0) ∧
    (at0 (pipWith 7 0)).Ready (.mtsSrTcause 0 3) (mtsUses 0 3 true) (pipWith 7 0) ∧
    (at0 (pipWith 7 0)).Ready (.mtsSrIpend 0 3) (mtsUses 0 3 true) (pipWith 7 0) ∧
    (at0 (pipWith 7 0)).Ready (.mtsSrAsid 0 3) (mtsUses 0 3 true) (pipWith 7 0) ∧
    (at0 (pipWith 7 0)).Ready (.mtsSrEngerr 0 3) (mtsUses 0 3 false) (pipWith 7 0) ∧
    (at0 (pipWith 7 0)).Ready (.mtsSrAge 0 3) (mtsUses 0 3 true) (pipWith 7 0) ∧
    (at0 (pipWith 7 0)).Ready (.mtsSrMucheck 0 3) (mtsUses 0 3 false) (pipWith 7 0) ∧
    { pip0 with ops := [{ id := 0, kind := .loadG [(0, 8)], dest := .g 5, phase := .deferred 3 0 }] }.replays = true :=
  ⟨fun n hn => ready0 _ _ _ _ hn, ready0 _ _ _ _ rfl, ready0 _ _ _ _ rfl, ready0 _ _ _ _ rfl, ready0 _ _ _ _ rfl, ready0 _ _ _ _ rfl,
    ready0 _ _ _ _ rfl, ready0 _ _ _ _ rfl, ready0 _ _ _ _ rfl, ready0 _ _ _ _ rfl, by decide⟩

/-- With a replay entry outstanding, MTS to SR_TCAUSE is still ready. -/
theorem meets_StatusWritesGoFieldByField_replay :
    let q : Pip := { pip0 with gFull := 0xFFFFFFDF, ops := [{ id := 0, kind := .loadG [(0, 8)], dest := .g 5, phase := .deferred 3 0 }] }
    (at0 q).Ready (.mtsSrTcause 0 3) (mtsUses 0 3 true) q ∧ q.replays = true ∧ (q.gv 3).getLsbD 9 = false := by
  refine ⟨⟨State.pip_setPip base 0 _, rfl, fun _ => rfl, ⟨?_, ?_⟩, ⟨?_, ?_⟩, fun h => ?_⟩, by decide, by decide⟩
  · decide
  · intro r hr; cases hr
  · intro r hr; cases hr
  · intro r hr; cases hr
  · cases h

theorem not_canonical : ¬ Canonical 0x80000000000000 := fun h => by
  have := h 56 (by decide +kernel) (by decide +kernel); revert this; decide

theorem meets_ClusterAndModuleRegistersTakeTheirFields :
    (at0 (pipWith 7 0)).Ready (.mtsSrLvlint 0 3) (mtsUses 0 3 true) (pipWith 7 0) ∧
    (at0 (pipWith 7 0)).Ready (.mtsSrPbound 1 3) (mtsUses 1 3 true) (pipWith 7 0) ∧
    (at0 (pipWith 7 0)).Ready (.mtsSrRampup 0 3) (mtsUses 0 3 true) (pipWith 7 0) ∧
    (at0 (pipWith 7 0)).Ready (.mtsSrRampdown 0 3) (mtsUses 0 3 true) (pipWith 7 0) ∧
    (at0 (pipWith 7 0)).Ready (.mtsSrAge 0 3) (mtsUses 0 3 true) (pipWith 7 0) ∧
    (at0 (pipWith 7 0)).Ready (.mtsSrPreemptwait 0 3) (mtsUses 0 3 true) (pipWith 7 0) ∧
    (at0 (pipWith 7 0)).Ready (.mtsSrMucheck 0 3) (mtsUses 0 3 false) (pipWith 7 0) :=
  ⟨ready0 _ _ _ _ rfl, ready0 _ _ _ _ rfl, ready0 _ _ _ _ rfl, ready0 _ _ _ _ rfl, ready0 _ _ _ _ rfl, ready0 _ _ _ _ rfl,
    ready0 _ _ _ _ rfl⟩

/-- An aligned access, a misaligned one, and the first address that is not canonical, for each format. -/
theorem meets_GlobalAccessesAreCheckedAndIssued :
    ((at0 (pipWith 0x100 9)).Ready (.st 0 1 3 6 0xFF 3 4) { g := [3, 4], gs := syncG 0 3 } (pipWith 0x100 9) ∧
      Canonical 0xF8 ∧ (0xF8 : Word).toNat % 8 = 0) ∧
    ((at0 (pipWith 0x101 9)).Ready (.ld 0 0 3 0 0 3 5) { g := [3], gs := syncG 0 3, gd := [5], fullBit := true } (pipWith 0x101 9) ∧
      Canonical 0x101 ∧ (0x101 : Word).toNat % 8 ≠ 0) ∧
    ((at0 (pipWith 0x80000000000000 9)).Ready (.ldv 0 0 0 0 3 5) { g := [3], gs := syncG 0 3, vd := [5], fullBit := true }
      (pipWith 0x80000000000000 9) ∧ ¬ Canonical 0x80000000000000) ∧
    ((at0 (pipWith 0x100 9)).Ready (.stvx 1 0 1 0 2 3 5) { g := [3], v := [2, 5], gs := syncG 1 3 } (pipWith 0x100 9) ∧
      ∀ e ∈ indexedPieces 0x100 1 0, Canonical e.1 ∧ e.1.toNat % e.2 = 0) ∧
    ((at0 (pipWith 0x100 9)).Ready (.cas 1 1 1 6 4 3 5) { g := [3, 4, 5], gd := [5], fullBit := true } (pipWith 0x100 9) ∧
      Canonical 0x100 ∧ (0x100 : Word).toNat % 4 = 0) ∧
    ((at0 (pipWith 0x100 9)).Ready (.red 1 0 1 9 4 3) { g := [3, 4], gs := syncG 1 3 ++ syncG 0 4 } (pipWith 0x100 9)) := by
  refine ⟨⟨ready0 _ _ _ _ rfl, canonical_small _ (by decide +kernel), by decide +kernel⟩, ⟨ready0 _ _ _ _ rfl, canonical_small _ (by decide +kernel), by decide +kernel⟩,
    ⟨ready0 _ _ _ _ rfl, not_canonical⟩, ⟨ready0 _ _ _ _ rfl, ?_⟩,
    ⟨ready0 _ _ _ _ rfl, canonical_small _ (by decide +kernel), by decide +kernel⟩, ready0 _ _ _ _ rfl⟩
  intro e he
  have : e = (0x100, 8) := by
    simp only [indexedPieces, if_true, List.mem_map, List.mem_range] at he
    obtain ⟨k, _, rfl⟩ := he
    simp
  subst this
  exact ⟨canonical_small _ (by decide +kernel), by decide +kernel⟩

theorem noReds_base (p : Pip) : (at0 p).NoReds := by intro e he; cases he

theorem meets_LinesArePinnedFlushedAndFenced :
    ((at0 (pipWith 0x100 9)).Ready (.cpin 0 1 3 5) { g := [3], gs := syncG 0 3, gd := [5], fullBit := true } (pipWith 0x100 9) ∧
      Canonical 0x108) ∧
    ((at0 (pipWith 0x80000000000000 9)).Ready (.cflush 0 0 3) { g := [3], gs := syncG 0 3 } (pipWith 0x80000000000000 9) ∧
      ¬ Canonical 0x80000000000000) ∧
    ((at0 (pipWith 0x100 9)).Ready (.pref 0 0 3 1) { g := [3], gs := syncG 0 3 } (pipWith 0x100 9) ∧ (at0 (pipWith 0x100 9)).NoReds) ∧
    ((at0 (pipWith 0x100 9)).Ready .mark {} (pipWith 0x100 9) ∧ (at0 (pipWith 0x100 9)).Ready (.fence 2 6) {} (pipWith 0x100 9) ∧
      (pipWith 0x100 9).ops = []) :=
  ⟨⟨ready0 _ _ _ _ rfl, canonical_small _ (by decide +kernel)⟩, ⟨ready0 _ _ _ _ rfl, not_canonical⟩,
    ⟨ready0 _ _ _ _ rfl, noReds_base _⟩, ready0 _ _ _ _ rfl, ready0 _ _ _ _ rfl, rfl⟩

/-- Each outcome of the checks of R73 and R88 at a local address: the plain region ends at 0x800. -/
theorem meets_LocalAccessesAreCheckedAndIssued :
    let s := at0 (pipWith 0 9)
    let p := pipWith 0 9
    ((at0 (pipWith 0 9)).Ready (.ldl 0 0 3 0 0 3 5) { g := [3], gs := syncG 0 3, gd := [5], fullBit := true } p ∧
      (at0 (pipWith 0 9)).Ready (.stlv 0 0 1 0 3 5) { g := [3], v := [5], gs := syncG 0 3 } p ∧
      (at0 (pipWith 0 9)).Ready (.amol 0 0 0 0 1 4 3 5) { g := [3, 4], gd := [5], fullBit := true } p) ∧
    (s.checkIssue p (localAddr 0 0x7F8) 8 = none ∧ s.near p (localAddr 0 0x7F8) = true ∧ s.checkIssue p (localAddr 0 0x7F9) 8 ≠ none ∧
      s.checkIssue p (localAddr 0 0x1000) 8 = some .localRange) ∧
    ((granulesOf 0x800 8).any (fun g => cluster0.stale (localAddr 0 0x800 + 2 ^ 60) (cluster0.granAtIssue p g) (16 * g)) = true ∧
      (granulesOf 0x7F8 8).any (fun g => cluster0.stale (localAddr 0 0x7F8) (cluster0.granAtIssue p g) (16 * g)) = false) ∧
    (s.near p (localAddr 1 0) = false ∧ s.checkIssue p (localAddr 1 0) 8 = none ∧ p.mg = false ∧ { p with status := 9 }.mg = true) ∧
    (cluster0.refusalAtIssue p (localAddr 0 0x800) 8 false = some (1, 128) ∧
      cluster0.refusalAtIssue p (localAddr 0 0x7F8) 8 true = none) := by
  refine ⟨⟨ready0 _ _ _ _ rfl, ready0 _ _ _ _ rfl, ready0 _ _ _ _ rfl⟩, by decide +kernel, by decide +kernel, by decide +kernel, by decide +kernel⟩

/-- The record at the last place in the plain region; the address after it; one that is no multiple of 64. -/
theorem meets_CommandsCheckTheirRecordAndEnterTheQueue :
    (at0 (pipWith (localAddr 0 0x7C0) 9)).Ready (.kvld 3 5) { g := [3], gd := [5], fullBit := true } (pipWith (localAddr 0 0x7C0) 9) ∧
    (Instr.kvld 3 5).commandOp.isSome = true ∧ (Instr.kvld 3 5).uses pip0 = some { g := [3], gd := [5], fullBit := true } ∧
    (localAddr 0 0x7C0).toNat % 64 = 0 ∧ (localAddr 0 0x7C0).toNat < 2 ^ 61 ∧
    (at0 pip0).near pip0 (localAddr 0 0x7C0) = true ∧ offsetOf (localAddr 0 0x7C0) + 64 ≤ 0x1000 - 0x800 ∧
    ¬ offsetOf (localAddr 0 0x800) + 64 ≤ 0x1000 - 0x800 ∧ (localAddr 0 0x7E0).toNat % 64 ≠ 0 :=
  ⟨ready0 _ _ _ _ rfl, rfl, rfl, by decide +kernel, by decide +kernel, by decide +kernel, by decide +kernel, by decide +kernel, by decide +kernel⟩

/-- A cluster whose descriptor 0 is this pod: one row of 16 bytes at 0x800. -/
def withPod (state : Nat) : Cluster := { cluster0 with pods := [(0, { w0 := word (0x800 + state * 2 ^ 43) })] }

/-- The template of a pod of one row of 16 bytes at 0x800 is allowed and lies in the pod region; one at 0x1000 does not, and one
with its STATE field set is not allowed. A full table, a taken place; a live handle in each state, and one that is not live. -/
theorem meets_PodsAreOpenedSealedReadAndFreed :
    ((at0 (pipWith 0x800 0)).Ready (.popen 0 0 4 3 5) (usesA 0 3 5) (pipWith 0x800 0) ∧
      (Instr.popen 0 0 4 3 5).uses (pipWith 0x800 0) = some (usesA 0 3 5) ∧
      (Instr.popen 0 0 4 3 5).uses (pipWith (0x800 + 2 ^ 61) 0) = some (usesR 0 0 3 4 5)) ∧
    (templateOk 0x800 = true ∧ templateOk (0x800 + 2 ^ 63) = false ∧ templateOk (0x800 + 2 ^ 61) = true) ∧
    (let P : Pod := { w0 := 0x800 };
      (P.base = 0x800 ∧ P.base % 16 = 0 ∧ P.footprint = 16) ∧
      (∀ k < P.footprint / 16, (cluster0.podAt (P.base + 16 * k)).isSome = false ∧
        cluster0.granAtIssue pip0 (P.base / 16 + k) = .closed) ∧
      (((withPod 1).podAt 0x800).isSome = true) ∧ (∀ n < 4, (cluster0.pod n).state = 0) ∧
      ∀ n < 1, ((withPod 1).pod n).state ≠ 0) ∧
    ((in0 (withPod 1) (pipWith 0 9)).Ready (.seal 0 3 5) (usesA 0 3 5) (pipWith 0 9) ∧
      (in0 (withPod 1) (pipWith 0 9)).released 0 (pipWith 0 9) 2 = true ∧ (withPod 1).live 0 = some 0 ∧ cluster0.live 0 = none ∧
      ((withPod 1).pod 0).state = 1 ∧ ((withPod 2).pod 0).state = 2 ∧
      (withPod 2).seals = []) ∧
    ((in0 (withPod 2) (pipWith 0 9)).Ready (.pstat 0 3 3 5) (usesA 0 3 5) (pipWith 0 9) ∧ (withPod 2).sealing 0 = false ∧
      { withPod 2 with seals := [{ pod := 0, point := 0, due := [0] }] }.sealing 0 = true) ∧
    ((in0 (withPod 2) (pipWith 0 9)).Ready (.pfree 0 3 5) (usesA 0 3 5) (pipWith 0 9) ∧ (withPod 2).namesPod 0 = false ∧
      { withPod 2 with mu := { table := [⟨1, ⟨1, 0, 0, 0, 0, false, 0⟩, 0, false, 0, [0], [], 0, 0, 0, 0, 1, 0⟩] } }.namesPod 0 = true) := by
  refine ⟨⟨ready0 _ _ _ _ rfl, by decide +kernel, by decide +kernel⟩, by decide +kernel, by decide +kernel, ⟨ready1 _ _ _ _ _ rfl, by decide +kernel⟩, ⟨ready1 _ _ _ _ _ rfl, by decide +kernel⟩,
    ready1 _ _ _ _ _ rfl, by decide +kernel⟩

/-- PRESET of no granule and of the last one of the plain region; a barrier at each kind of address, with each count at its end. -/
theorem meets_PresetsBarriersAndWaitsAreIssued :
    let s := at0 (pipWith 0 1)
    let p := pipWith 0 1
    ((Instr.preset 0 0 4 3).uses p = some { g := [3, 4], gs := syncG 0 3 ++ syncG 0 4 } ∧
      (at0 (pipWith 0 1)).Ready (.preset 0 0 4 3) { g := [3, 4], gs := syncG 0 3 ++ syncG 0 4 } (pipWith 0 1)) ∧
    (s.near p (localAddr 0 0x7F0) = true ∧ offsetOf (localAddr 0 0x7F0) + 16 * 1 ≤ 0x800 ∧
      ¬ offsetOf (localAddr 0 0x7F0) + 16 * 2 ≤ 0x800 ∧ s.near p (localAddr 1 0) = false ∧ (localAddr 0 8).toNat % 16 ≠ 0 ∧
      (localAddr 0 0 + 2 ^ 60).getLsbD 60 = true) ∧
    ((at0 (pipWith 0 1)).Ready (.bari 0 0 4 3) { g := [3, 4], gs := syncG 0 3 ++ syncG 0 4 } (pipWith 0 1) ∧
      1 ≤ (p.gv 4).toNat ∧ (p.gv 4).toNat ≤ 65535 ∧ s.checkIssue p (localAddr 0 0x7F0) 16 = none ∧
      s.checkIssue p (localAddr 0 0x7F8) 16 = some .misaligned ∧ s.checkIssue p (localAddr 0 0x800) 16 = none ∧
      ¬ offsetOf (localAddr 0 0x800) + 16 ≤ 0x800) ∧
    ((at0 (pipWith 0 1)).Ready (.bara 0 3) { g := [3], gs := syncG 0 3 } (pipWith 0 1) ∧
      (at0 (pipWith 0 1)).Ready (.barw 3 5) { g := [3], gd := [5], fullBit := true } (pipWith 0 1)) ∧
    (s.checkBarrier p (localAddr 0 0) = none ∧ (pipWith 0 0).gv 4 = 0 ∧ 65535 < ((pipWith 0 0x10000).gv 4).toNat) ∧
    ((at0 (pipWith 0 1)).Ready (.waitge 4 5 0 4 3 5) { g := [3, 4], gd := [5], fullBit := true } (pipWith 0 1) ∧
      4095 < ((pipWith 0 4096).gv 4).toNat ∧ ¬ 4095 < ((pipWith 0 4095).gv 4).toNat) := by
  refine ⟨⟨rfl, ready0 _ _ _ _ rfl⟩, by decide +kernel, ⟨ready0 _ _ _ _ rfl, by decide +kernel⟩, ⟨ready0 _ _ _ _ rfl, ready0 _ _ _ _ rfl⟩, by decide +kernel,
    ready0 _ _ _ _ rfl, by decide +kernel, by decide +kernel⟩

/-- SENDR to slot 5, to itself, to a free slot and to slot 256; FORK with and without a target, with a full deque; JOIN. -/
theorem meets_TasksForkJoinSendAndEnd :
    let p := pipWith 5 1
    let s := (at0 p).setPip 5 { pip0 with gFull := 0xFFFFFFF7 }
    (s.Ready (.sendr 0 0 4 3 3) { g := [3, 4], gs := syncG 0 3 ++ syncG 0 4 } p ∧ (p.gv 3).toNat < 256 ∧
      (s.pip 5).map (fun z => (z.gf 3, z.gBusy 3, z.gf 4)) = some (false, false, true) ∧ s.released 0 p 2 = true ∧
      s.pip 6 = none ∧ 256 ≤ ((pipWith 256 1).gv 3).toNat) ∧
    ((at0 (pipWith 0 1)).Ready (.sendr 0 0 4 3 5) { g := [3, 4], gs := syncG 0 3 ++ syncG 0 4 } (pipWith 0 1) ∧
      (pipWith 0 1).gBusy 5 = false) ∧
    ((at0 p).Ready .done {} p ∧ p.fullBits = 0 ∧
      { p with ops := [{ id := 0, kind := .pure, dest := .g 5 }] }.fullBits ≠ 0) ∧
    (let q := { pipWith (localAddr 0 0x7FC) 1 with b := pip0.b.set 2 { c := false, tv := true, t := 0x100 } };
      (at0 q).Ready (.fork 3 2) { g := [3, 4, 5, 6, 7] } q ∧ (q.steer 2).tv = true ∧ (pip0.steer 2).tv = false ∧
      (q.gv 3).toNat % 4 = 0 ∧ (at0 q).near q (q.gv 3) = true ∧ offsetOf (q.gv 3) + 4 ≤ 0x1000 - 0x800 ∧ (q.gv 3).getLsbD 60 = false ∧
      ((at0 q).core 0).deque.length < 64 ∧ (at0 q).released 0 q 2 = true) ∧
    (let q := pipWith (localAddr 0 0x7FC) 1;
      (at0 q).Ready (.join 3) { g := [3] } q ∧ q.joined = [] ∧ (at0 q).checkIssue q (q.gv 3) 4 = none ∧ (at0 q).near q (q.gv 3) = true ∧
      offsetOf (q.gv 3) + 4 ≤ 0x1000 - 0x800 ∧ q.fullBits = 0 ∧ (at0 q).checkIssue q (q.gv 3 + 1) 4 ≠ none ∧
      (at0 q).near q (localAddr 1 0) = false ∧ (at0 q).checkIssue q (localAddr 1 0) 4 = none) := by
  refine ⟨⟨ready_of ?_ rfl (by decide +kernel) rfl rfl rfl, by decide +kernel⟩, ⟨ready0 _ _ _ _ rfl, by decide +kernel⟩, ⟨ready0 _ _ _ _ rfl, by decide +kernel, by decide +kernel⟩,
    ⟨ready_of (State.pip_setPip base 0 _) rfl (by decide +kernel) rfl rfl rfl, by decide +kernel⟩, ready0 _ _ _ _ rfl, by decide +kernel⟩
  rfl

/-! ### States that meet the hypotheses of the statements on events -/

/-- A pip in mode S with one operation outstanding. -/
def pipOp (o : Op) : Pip := { pip0 with ops := [o], nextOp := 1 }

theorem op_pipOp (o : Op) (h : o.id = 0) : (pipOp o).op 0 = some o := by
  show List.find? (fun x => x.id == 0) [o] = some o
  simp [h]

/-- A performed division; a WAITGE of a matrix context whose timeline has reached its value. -/
theorem meets_ResultsAreWrittenAndFillTheirRegister :
    (let o : Op := { id := 0, kind := .pure, dest := .g 31, phase := .done, result := 7 };
      (at0 (pipOp o)).pip 0 = some (pipOp o) ∧ (pipOp o).op 0 = some o ∧ o.dest ≠ .none ∧ o.phase = .done) ∧
    (let o : Op := { id := 0, kind := .waitge (.matrix 0) 0, dest := .g 5 };
      (at0 (pipOp o)).pip 0 = some (pipOp o) ∧ (pipOp o).op 0 = some o ∧ o.dest ≠ .none ∧ o.phase = .waiting ∧
      (0 : Word).toNat ≤ ((at0 (pipOp o)).context (.matrix 0)).timeline) := by
  refine ⟨⟨State.pip_setPip base 0 _, op_pipOp _ rfl, by decide, rfl⟩, State.pip_setPip base 0 _, op_pipOp _ rfl, by decide, rfl,
    by decide +kernel⟩

/-- The machine of `withFetchWord`, whose page 0 of address space 0 lies at 0x40000000, with another pip in slot 0. -/
def mapped (q : Pip) : State := { (State.reset.withFetchWord 32 0xFFFFF28E).setPip 0 { q with launch := 1 } with agenda := [] }

/-- The physical address of a translation, or the cause of its failure. -/
def paOf (x : Except Cause (Nat × Word)) : Option Nat := x.toOption.map Prod.fst
def causeOf (x : Except Cause (Nat × Word)) : Option Cause := match x with
  | .error c => some c
  | .ok _ => none

/-- The pip in slot 65536, on die 1, whose TLB holds the translation of page 0. -/
def onDie1 (o : Op) : State :=
  let s := (mapped pip0).setPip 65536 { pipOp o with launch := 1 }
  { s with tlbs := mset s.tlbs 1 [⟨0, 0, 30, word (0x3F + 0x40000000)⟩] }

/-- The state in which operation 0 of a slot tries its access. -/
def trying (s : State) (k : Nat) : State := (s.evict k [] []).opened (.op k 0) (s.clusterAddr (k / 256))

/-- The parts of what lets operation 0 of a slot run that are computed. -/
def mayRun (s : State) (k : Nat) (o : Op) : Bool :=
  s.cores.all (fun e => e.2.reds.isEmpty) && (s.pip k).any (fun p => p.op 0 == some o && s.canPerform k p o) &&
    o.phase == .waiting && !(s.askOf (.op k 0)).any Ask.closing

/-- Where an access finds an address, when it lacks nothing. -/
def foundAt (s : State) (k : Nat) (need : Need) (a : Word) : Option Nat :=
  let x := (trying s k).translate (k / 65536) 0 false need a
  if x.1.reach.any Reach.lacks then none else paOf x.2

/-- Why an access fails, when it lacks nothing. -/
def failsWith (s : State) (k : Nat) (need : Need) (a : Word) : Option Cause :=
  let x := (s.opened (.op k 0) (s.clusterAddr (k / 256))).translate (k / 65536) 0 false need a
  if x.1.reach.any Reach.lacks then none else causeOf x.2

/-- The physical addresses of several pieces, when none lacks anything, none crosses a line and none of them lies in the L1 if it is a
load. -/
def allFound (s : State) (k : Nat) (need : Need) (ps : List (Word × Nat)) : List Nat :=
  let u := trying s k
  let x := u.translateAll (k / 65536) 0 false need ps
  match x.2 with
  | .error _ => []
  | .ok xs => if x.1.reach.any Reach.lacks || (need == .load && ps.any (fun e => ((u.core (k / 16)).line 0 e.1).isSome)) then [] else xs.map Prod.fst

def loadOp (ps : List (Word × Nat)) : Op := { id := 0, kind := .loadG ps, dest := .g 5 }
def storeOp (ps : List (Word × Nat)) (bs : List Byte) : Op := { id := 0, kind := .storeG ps bs }
def line2 (r : Bool) : Line := ⟨0, 2, List.replicate 128 0, r, true⟩

/-- A packet may be injected while few responses are awaited, however much space for them there is, when it stays on its die, its
cluster's retry buffer has room, or it is another endpoint's. -/
theorem mayInject_of (s : State) (src dst : Word) (n r : Nat) (ho : s.net.outstanding = []) (h : r ≤ 64)
    (hr : crosses src dst = false ∨ endType src ≠ 0 ∨ s.copyRoom src n = true) : s.mayInject src dst n r = true := by
  rcases hr with hr | hr | hr <;> simp [State.mayInject, State.responseRoom, ho, hr, Nat.le_add_left_of_le h]

/-- Stores and loads of one piece and of two: near, with pieces already found, from another die, in the L1, with lines that came. -/
theorem meets_GlobalAccessesReadAndWriteTheirBytes :
    (∀ ps ∈ [[((0x108 : Word), 8)], [(0x108, 4), (0x180, 4)]],
      let o := storeOp ps [1, 2, 3, 4, 5, 6, 7, 8];
      mayRun (mapped (pipOp o)) 0 o = true ∧ (allFound (mapped (pipOp o)) 0 .store ps).map homeDie = ps.map (fun _ => 0) ∧
        mayRun (onDie1 o) 65536 o = true ∧ (allFound (onDie1 o) 65536 .store ps).map homeDie = ps.map (fun _ => 0) ∧
        (onDie1 o).net.outstanding = [] ∧ (onDie1 o).copyRoom ((onDie1 o).clusterAddr 256) 8 = true) ∧
    (let o : Op := { storeOp [(0x108, 4)] [1, 2, 3, 4] with parts := [(0x108, 0x40000108, [1, 2, 3, 4])] };
      mayRun (mapped (pipOp o)) 0 o = true ∧ homeDie 0x40000108 = 0) ∧
    (∀ ps ∈ [[((0x178 : Word), 8)], [(0x178, 4), (0x180, 4)]],
      let o := loadOp ps;
      mayRun (mapped (pipOp o)) 0 o = true ∧ (allFound (mapped (pipOp o)) 0 .load ps).map homeDie = ps.map (fun _ => 0) ∧
        (allFound (mapped (pipOp o)) 0 .load ps).all (fun pa => mget (mapped (pipOp o)).bad (pa / 128) == none) = true ∧
        mayRun (onDie1 o) 65536 o = true ∧ (allFound (onDie1 o) 65536 .load ps).map homeDie = ps.map (fun _ => 0) ∧
        (onDie1 o).net.outstanding = [] ∧ ∀ m ≤ ps.length, (onDie1 o).copyRoom ((onDie1 o).clusterAddr 256) (64 * m) = true) ∧
    (let o := loadOp [(0x108, 8)];
      let s := (mapped (pipOp o)).setCore 0 { lines := [line2 true] };
      mayRun s 0 o = true ∧ ((trying s 0).core 0).line 0 0x108 = some (line2 true)) ∧
    (let o : Op := { loadOp [(0x108, 8)] with fetch := [{ vline := 2, pline := 0, r := true, u := true, halves := [some [], some []] }] };
      mayRun (onDie1 o) 65536 o = true ∧ ((trying (onDie1 o) 65536).core 4096).line 0 0x108 = none ∧ 2 = (0x108 : Word).toNat / 128) := by
  refine ⟨?_, ?_, ?_, ?_, ?_⟩ <;> decide +kernel

/-- Atomics, compares and swaps, pins and flushes, near and from another die; a RED; accesses that fail, for a page, for a line without
the right, and for a store; the merge of an update-only line here and of one whose home L2 lies on another die. -/
theorem meets_GlobalUpdatesAndFaults :
    (∀ kind ∈ ([.atomicG 0x100 8 8 5, .casG 0x100 8 0 5, .pinG 0x100, .unpinG 0x100, .flushG 0x100, .redG 0x100 4 2 7] : List OpKind),
      let o : Op := { id := 0, kind := kind, dest := if kind = .unpinG 0x100 ∨ kind = .flushG 0x100 then .none else .g 5 };
      let need := match kind.asks with
        | some (_, n, _) => n
        | none => .atomic;
      mayRun (mapped (pipOp o)) 0 o = true ∧ foundAt (mapped (pipOp o)) 0 need 0x100 = some 0x40000100 ∧ homeDie 0x40000100 = 0 ∧
        mget (mapped (pipOp o)).bad (0x40000100 / 128) = none ∧ mayRun (onDie1 o) 65536 o = true ∧
        foundAt (onDie1 o) 65536 need 0x100 = some 0x40000100 ∧ (onDie1 o).net.outstanding = [] ∧
        (onDie1 o).copyRoom ((onDie1 o).clusterAddr 256) 20 = true) ∧
    (∀ o ∈ [loadOp [(0x10000000000, 8)], storeOp [(0x10000000000, 8)] []],
      mayRun (mapped (pipOp o)) 0 o = true ∧ ((mapped (pipOp o)).core 0).line 0 0x10000000000 = none ∧
        failsWith (mapped (pipOp o)) 0 (if o.kind = .loadG [(0x10000000000, 8)] then .load else .store) 0x10000000000 =
          some .pageNotPresent) ∧
    (let o := loadOp [(0x108, 8)];
      let s := (mapped (pipOp o)).setCore 0 { lines := [line2 false] };
      mayRun s 0 o = true ∧ (s.core 0).line 0 0x108 = some (line2 false)) ∧
    (∀ pline ∈ [2, 2 ^ 30],
      let r : RedLine := { asid := 0, vline := 2, pline := pline, op := 1, bytes := 8, elems := [(120, 7)], by_ := [(0, 0)] };
      let s := base.setCore 0 { reds := [r] };
      s.core 0 = { reds := [r] } ∧ s.cores.all (fun e => e.2.reds.all (fun x => x.way == .here)) = true ∧ 120 + r.bytes ≤ 128 ∧
        (homeDie (128 * pline) = if pline = 2 then 0 else 1) ∧ s.net.outstanding = [] ∧
        s.copyRoom (s.clusterAddr 0) r.body.length = true) := by
  refine ⟨?_, ?_, ?_, ?_⟩ <;> decide +kernel

/-- In cycle 1 bank 0 serves pips: a store that fills, a load that empties, an atomic, and a wait for a FULL granule. -/
theorem meets_NearAccessesReadAndWriteTheScratchpad :
    ∀ o ∈ ([{ id := 0, kind := .storeL (localAddr 0 0) (natBytes 8 7) true }, { id := 0, kind := .loadL (localAddr 0 0) 8 0, dest := .g 5 },
        { id := 0, kind := .loadL (localAddr 0 0) 8 2, dest := .g 5 },
        { id := 0, kind := .atomicL (localAddr 0 0) 4 6 9, dest := .g 31 }] : List Op),
      let s := { at0 (pipOp o) with cycle := 1 }
      s.nearWaiting 0 (pipOp o) o = true ∧ s.pipSlot (0 / 256) (o.kind.bank?.getD 0) = true ∧ s.oldest 0 o = true := by decide +kernel

/-- A timer that is due; a pip found by its identity, with room for a message, with a message pending and with 16 waiting; no such
pip; a word that is no instruction; a fetch that fails. -/
theorem meets_TimersMessagesAndFetchFaultsReachThePip :
    (({ pip0 with tcmp := 0 }.tcmp.toNat ≤ (at0 { pip0 with tcmp := 0 }).timeAt 0) ∧ (at0 pip0).findPip 1 0 false = some 0 ∧ pip0.cond ≠ .inTransit ∧
      pip0.ipend.getLsbD 1 = false ∧ pip0.messages = [] ∧ { pip0 with ipend := 2 }.ipend.getLsbD 1 = true ∧
      16 ≤ { pip0 with messages := List.replicate 16 0 }.messages.length ∧ (at0 pip0).findPip 2 0 false = none ∧ (at0 pip0).findPip 2 0 true = none ∧
      (at0 { pip0 with cond := .inTransit }).findPip 1 0 false = none ∧ (at0 { pip0 with cond := .inTransit }).findPip 1 0 true = some 0 ∧
      (at0 { pip0 with cond := .inTransit }).findMigrant 1 0 = none) ∧
    (match decode (0 : BitVec 32).toNat with
      | .ok _ => false
      | .error _ => true) = true ∧
    (match ((at0 pip0).fetchWord 0 pip0).2 with
      | some (.error _) => true
      | _ => false) = true ∧ (at0 pip0).findMigrant 2 0 = none := by decide +kernel

/-- An idle pip and a deque entry; a cluster in which levelling is due, with a full deque. -/
theorem meets_TasksStartAndAreLevelled :
    (let t : Task4 := ⟨0x100, 1, 2, 3, 4, 5⟩;
      let s := (at0 { pip0 with cond := .idle }).setCore 0 { deque := [t] };
      (s.core 0).deque = [t] ∧ (s.cluster 0).lastLevel ≠ some s.cycle ∧
      s.pips.find? (fun x => x.1 / 16 == 0 && x.2.cond == .idle && !x.2.held) = some (0, { pip0 with cond := .idle })) ∧
    (let s := base.setCore 0 { deque := List.replicate 64 ⟨0x100, 1, 2, 3, 4, 5⟩ };
      s.levelDue 0 = true ∧ ∀ k < 16, (s.core (16 * 0 + k)).deque.length ≤ 64) := by decide +kernel

/-- What makes a packet arrive in a state without a change of routing and without pairs that the tables do not connect. -/
theorem arrived_of {s : State} {n : Nat} {q : Packet} {kind : Byte} (h : mget s.net.packets n = some q) (hk : q.kind = kind)
    (hd : s.here q.dst = true) (hs : s.standsAt n q.dst = true) (hu : s.net.unreachable = []) (hc : s.net.change = none)
    (ho : oldVersion s.net.version q.ver = false) (hb : s.begun n q = false) : s.Arrived n q kind :=
  ⟨⟨h, hk, hd, hs⟩, by rw [hu]; exact List.not_mem_nil, ⟨hc, ho⟩, hb⟩

/-- An attention unit may write to cluster 0 while nothing is outstanding. -/
theorem nmaReady_of (s : State) (src dst : Word) (c : Cmd) (ht : c.targets = [0]) (ho : s.net.outstanding = [])
    (hr : s.resolve c.issuer.job (localAddr 0 0) = some dst) (he : endType src ≠ 0) : s.nmaReady src c = true := by
  simp [State.nmaReady, State.sendReady, State.mayInject, State.responseRoom, hr, ht, ho, he]

/-- The packet that migrates `pip0` to cluster 1, as it lies in this module. -/
def mig : Packet :=
  { kind := 5, ver := 0, rver := 0, setFull := false, crossesDie := false, seq := 0, src := 0, dst := 0, addr := localAddr 0 0
    len := Fin.ofNat 1537 pip0.pack.length, body := pip0.pack, work := .plain, job := 0, launch := 1, origin := 0 }

theorem meets_MigrationCarriesThePipsRegisters :
    (let p := { pip0 with cond := Cond.parked (.migrate (localAddr 1 0)) };
      let s := at0 p;
      s.pip 0 = some p ∧ p.ops = [] ∧ p.deferredTrap = none ∧ p.held = false ∧
      s.resolve (s.jobOfLaunch p.launch) (localAddr 1 0) = some 1 ∧ s.mayInject (s.clusterAddr 0) 1 p.pack.length 1 = true ∧
      p.masked = p) ∧
    (let m : Migrant := { bytes := pip0.pack };
      let s := in0 { cluster0 with inbox := [(63, m)] } pip0;
      mget (s.cluster 0).inbox 63 = some m ∧ s.pip (256 * 0 + 1) = none ∧ (∀ j < 1, s.pip (256 * 0 + j) ≠ none) ∧
      s.takesMigrants 0 m.launch = true ∧ m.notBefore ≤ s.timeAt 0) ∧
    (let s := { base with net := { base.net with packets := [(0, mig)] } };
      s.Arrived 0 mig 0x05 ∧ mig.crossesDie = false ∧
      s.takesMigrants (clusterNamed mig.dst) (Migrant.launch { bytes := mig.body }) = true ∧ (s.cluster 0).inbox = [] ∧
      base.takesMigrants 1 1 = false) ∧
    (∀ kind ∈ ([0x13, 0x14] : List Byte),
      let q : Packet := { mig with kind := kind };
      let o : Outstanding := { origin := .migrant 0, packet := mig, retained := false };
      let s := { at0 { pip0 with cond := .inTransit } with net := { base.net with packets := [(0, q)], outstanding := [o] } };
      s.Responds 0 q kind o) ∧
    packetKinds.contains 0x06 = false := by
  refine ⟨?_, by decide +kernel, ⟨arrived_of rfl rfl rfl rfl rfl rfl rfl rfl, rfl, by decide +kernel⟩, ?_, by decide⟩
  · refine ⟨State.pip_setPip base 0 _, rfl, rfl, rfl, by decide +kernel, mayInject_of _ _ _ _ 1 (by decide) (by decide) (.inl (by decide +kernel)), by decide +kernel⟩
  · intro kind h
    simp only [List.mem_cons, List.not_mem_nil, or_false] at h
    obtain rfl | rfl := h <;> exact ⟨arrived_of rfl rfl rfl rfl rfl rfl rfl rfl, by decide +kernel, rfl, rfl⟩

/-- A timed pod at its deadline; a slot in bank 2, whose cycle 0 is the engines'; a seal whose slots are over. -/
theorem meets_SealsRunThroughTheirBanks :
    (let c := { cluster0 with pods := [(0, { w0 := word (0x800 + 2 ^ 43 + 2 ^ 61), w1 := 0 })] };
      let s := in0 c pip0;
      ((s.cluster 0).pod 0).state = 1 ∧ ((s.cluster 0).pod 0).timed = true ∧ ((s.cluster 0).pod 0).w1.toNat ≤ s.timeAt 0 ∧
      (s.cluster 0).launch.isSome = true ∧ mget (s.cluster 0).opened 0 = none) ∧
    (let x : Seal := { pod := 0, point := 0, due := [2] };
      let c := { cluster0 with pods := [(0, { w0 := word (0x800 + 2 * 2 ^ 43) })], seals := [x] };
      (in0 c pip0).sealReady 0 x 2 = true ∧ c.seals.find? (fun y => y.pod == 0) = some x) ∧
    (let x : Seal := { pod := 0, point := 0, due := [] };
      x.due = [] ∧ x.last < ({ base with cycle := 1 } : State).cycle) := by decide +kernel

/-- A COPY of one byte from global address 0x17F to offset 0x7F, and the other way round. -/
def copyIn : List Byte := natBytes 8 0x17F ++ natBytes 8 (localAddr 0 0x7F).toNat ++ natBytes 16 0 ++
  (List.replicate 5 (natBytes 2 1)).flatten ++ List.replicate 18 0 ++ [2, 0, 0, 0]
def copyOut : List Byte := natBytes 8 (localAddr 0 0x7F).toNat ++ natBytes 8 0x17F ++ natBytes 16 0 ++
  (List.replicate 5 (natBytes 2 1)).flatten ++ List.replicate 18 0 ++ [1, 0, 0, 0]

def issuer0 : Issuer := ⟨1, 0, 0, 0, 0, true, 0⟩
def cmd0 (r : List Byte) : Cmd := { id := 1, kind := .copy, issuer := issuer0, record := r, targets := [0] }

/-- `mapped` with a command in copy context 0 of cluster 0. -/
def withCmd (c : Cmd) : State :=
  let s := mapped pip0
  s.setCluster 0 { s.cluster 0 with copies := [{ counter := 2, queue := [c] }, {}, {}, {}] }

/-- `mapped` with a command at the head of the store queue of slot 0, its record at offset 0 and some bytes of global memory from
address 0x400 on; pod 0 has 64 rows of 16 bytes in this format. -/
def commandOp (kind : CmdKind) (ch : Nat) : Op := { id := 0, kind := .command kind (localAddr 0 0) ch, dest := .g 5 }
def commanding (kind : CmdKind) (ch fmt : Nat) (r bs : List Byte) : State :=
  let s := mapped (pipOp (commandOp kind ch))
  { s.setCluster 0 { s.cluster 0 with
      sp := writeBytes [] 0 r
      pods := [(0, { w0 := word (0x80000 + 63 * 2 ^ 22 + fmt * 2 ^ 34 + 2 ^ 43) })] } with hbm := writeBytes s.hbm 0x40000400 bs }

/-- The parts of `AtHead` and of `Takes` that are computed. -/
def atHead (s : State) (kind : CmdKind) (ch : Nat) : Bool :=
  (s.pip 0).any (fun p => p.op 0 == some (commandOp kind ch) && s.canPerform 0 p (commandOp kind ch)) &&
    !(s.askOf (.op 0 0)).any Ask.closing
/-- The state in which operation 0 of slot 0 tries its acceptance. -/
def accepting (s : State) : State := s.opened (.op 0 0) (s.clusterAddr 0)
def whole (s : State) : Bool := !s.reach.any Reach.lacks
def takes (s : State) (e : EngineRef) (kind : CmdKind) (ch : Nat) : Bool :=
  decide ((s.context e).queue.length < engineDepth e) && !s.comesFirst 0 (commandOp kind ch) e

/-- A multicast of one byte to cluster 0; a gather of one element by the index at offset 0x100; a merge of two streams of one entry
into 0x300; a task without operands; a load of values and an attention over one page; a page set without pages, and a page. -/
def mcastIn : List Byte := natBytes 8 0x17F ++ natBytes 8 (localAddr 0 0x7F).toNat ++ natBytes 8 0 ++ natBytes 8 1 ++
  (List.replicate 5 (natBytes 2 1)).flatten ++ List.replicate 18 0 ++ [2, 0, 0, 0]
def gatherIn : List Byte := natBytes 8 0x17F ++ natBytes 8 (localAddr 0 0x7F).toNat ++ natBytes 8 0 ++ natBytes 8 (localAddr 0 0x100).toNat ++
  (List.replicate 5 (natBytes 2 1)).flatten ++ List.replicate 18 0 ++ [6, 0, 0, 0]
def mergeIn : List Byte := natBytes 8 0x100 ++ natBytes 8 0x200 ++ natBytes 8 0x300 ++ natBytes 8 (localAddr 0 0x40).toNat ++
  natBytes 4 1 ++ natBytes 4 1 ++ natBytes 4 2 ++ [0, 3, 0, 0] ++ List.replicate 16 0
def kvldIn : List Byte := natBytes 8 0x400 ++ natBytes 8 (localAddr 0 0x80).toNat ++ natBytes 16 0 ++ natBytes 2 1 ++ natBytes 2 0 ++
  [0, 0, 0, 0, 2] ++ List.replicate 23 0
def attnIn : List Byte := natBytes 8 0x400 ++ natBytes 8 (localAddr 0 0x80).toNat ++ natBytes 8 0 ++ natBytes 8 (localAddr 0 0xC0).toNat ++
  natBytes 2 1 ++ natBytes 2 0 ++ [1, 0, 0, 0, 0] ++ List.replicate 23 0
def psdBytes : List Byte := natBytes 2 1 ++ natBytes 2 8 ++ [0, 0] ++ natBytes 2 1 ++ natBytes 8 0x500 ++ natBytes 8 0x600 ++
  natBytes 8 0x640 ++ natBytes 4 1 ++ List.replicate 28 0

theorem meets_CommandsAreAccepted :
    (let s := commanding .copy 3 4 copyIn [];
      let b := Box.of (readBytes (s.cluster 0).sp 0 64);
      atHead s .copy 3 = true ∧ 3 < (s.cluster 0).copies.length ∧ takes s (.copy 0 3) .copy 3 = true ∧ b.fieldsOk .copy Spr.empty = true ∧
      s.addressesOk 0 (s.spresOf 1) .copy b Spr.empty = true ∧ b.bar = 0 ∧ sideLength .copy b = 0 ∧
      ((accepting s).readSide 0 0 issuer0 (.copy 0 3) .copy b (sprFirst (readBytes (s.cluster 0).sp 0 64)) 0 1 []).2 = ([], none) ∧
      whole ((accepting s).readSide 0 0 issuer0 (.copy 0 3) .copy b (sprFirst (readBytes (s.cluster 0).sp 0 64)) 0 1 []).1 = true ∧
      (Box.of (List.replicate 60 0 ++ [0x80, 0, 0, 0])).fieldsOk .copy Spr.empty = false) ∧
    (let s := commanding .mcast 0 4 mcastIn [];
      let b := Box.of (readBytes (s.cluster 0).sp 0 64);
      atHead s .mcast 0 = true ∧ takes s (.copy 0 0) .mcast 0 = true ∧ b.fieldsOk .mcast Spr.empty = true ∧
      s.addressesOk 0 (s.spresOf 1) .mcast b Spr.empty = true ∧ b.dsp = true ∧ s.multicastOk issuer0 b.aux b.dst = true ∧
      s.multicastOk issuer0 2 b.dst = false) ∧
    (let s := commanding .gatherList 0 4 gatherIn [];
      let b := Box.of (readBytes (s.cluster 0).sp 0 64);
      atHead s .gatherList 0 = true ∧ takes s (.gather 0) .gatherList 0 = true ∧ b.fieldsOk .gatherList Spr.empty = true ∧
      s.addressesOk 0 (s.spresOf 1) .gatherList b Spr.empty = true ∧
      sideLength .gatherList b = 4 ∧
      let x := (accepting s).readSide 0 0 issuer0 (.gather 0) .gatherList b (sprFirst (readBytes (s.cluster 0).sp 0 64)) 4 5 [];
      x.2 = (List.replicate 4 (some 0), none) ∧ whole x.1 = true) ∧
    (let s := commanding (.merge 0) 0 4 mergeIn [];
      let m := MergeRecord.of (readBytes (s.cluster 0).sp 0 64);
      atHead s (.merge 0) 0 = true ∧ takes s (.merge 0) (.merge 0) 0 = true ∧ m.fieldsOk = true ∧ s.mergeOk issuer0 (s.spresOf 1) m = true ∧
      m.bar = 0 ∧ { m with vt := 1 }.fieldsOk = false) ∧
    (let s := commanding .mtask 0 4 (List.replicate 64 0) [];
      let r := readBytes (s.cluster 0).sp 0 64;
      atHead s .mtask 0 = true ∧ s.comesFirst 0 (commandOp .mtask 0) (.matrix 0) = false ∧ mtaskClusters r 0 = [0] ∧
      (s.cluster 0).matrix.queue = [] ∧ mtaskFieldsOk r = true ∧ (s.cluster 0).launch = some 1 ∧ (s.cluster 0).handlesOk r = true ∧
      mtaskOuts r = [] ∧ (s.cluster 0).mu.table.length < 32) := by decide +kernel

theorem meets_CommandsOfAttentionAreAccepted :
    (let s := commanding .kvld 0 4 kvldIn psdBytes;
      let r := readBytes (s.cluster 0).sp 0 64;
      atHead s .kvld 0 = true ∧ takes s (.nma 0) .kvld 0 = true ∧ nmaFieldsOk .kvld r = true ∧ virtOk 0x400 64 = true ∧
      s.plainOk issuer0 (s.spresOf 1) (localAddr 0 0x80) 4 4 = true ∧ ((accepting s).readPsd issuer0 0x400).2 = some psdBytes ∧ whole ((accepting s).readPsd issuer0 0x400).1 = true ∧
      (s.cluster 0).live 0 = some 0 ∧ nmaPodOk .kvld r psdBytes ((s.cluster 0).pod 0) = true) ∧
    (let s := commanding .attn 0 6 attnIn psdBytes;
      let r := readBytes (s.cluster 0).sp 0 64;
      atHead s .attn 0 = true ∧ takes s (.nma 0) .attn 0 = true ∧ nmaFieldsOk .attn r = true ∧
      s.plainOk issuer0 (s.spresOf 1) (localAddr 0 0xC0) 16 32 = true ∧ ((accepting s).readPsd issuer0 0x400).2 = some psdBytes ∧ whole ((accepting s).readPsd issuer0 0x400).1 = true ∧
      nmaPodOk .attn r psdBytes ((s.cluster 0).pod 0) = true ∧ nmaPodOk .kvld r psdBytes ((s.cluster 0).pod 0) = false) := by decide +kernel

/-- A command of KVLD or ATTN that has read everything before its first row or triple. -/
def nmaCmd (kind : CmdKind) (fmt : Nat) (r : List Byte) : Cmd :=
  { cmd0 r with
    kind := kind, side := (psdBytes ++ [BitVec.ofNat 8 fmt]).map some, begun := true
    got := [(tagList, List.replicate 4 (some 0)), (tagQuery, List.replicate 32 (some 0)), (tagFreq, List.replicate 16 (some 0)),
      (tagTable, [some 0]), (tagPage 0, [some 0])] }

/-- Where piece 0 of the command in copy context 0 finds an address, when it lacks nothing. -/
def findsFor (s : State) (c : Cmd) (need : Need) (a : Word) : Option Nat :=
  let v := s.opened (.engine (.copy 0 0) 1 0) (s.engineEndpoint (.copy 0 0))
  let x := (v.modCommand (.copy 0 0) 1 (fun d => { d with begun := true })).engineTranslate (.copy 0 0) c need a
  if whole x.1 && !(s.askOf (.engine (.copy 0 0) 1 0)).any Ask.closing then x.2.toOption else none

theorem meets_CommandsArePerformedAndCompleted :
    (let d := { cmd0 copyIn with next := 1 };
      let s := withCmd d;
      (s.command? (.copy 0 0) 1).map Cmd.id = some 1 ∧ d.kind.byAccess = true ∧ d.accessed = true ∧ d.sealHandle = none ∧ d.error = none ∧
      d.barrier = 0 ∧ d.awaiting = [] ∧ d.kind.multi = false ∧ { d with stopped := true }.stopped = true) ∧
    (let c := cmd0 copyIn;
      let s := withCmd c;
      let b := Box.of c.record;
      (s.command? (.copy 0 0) 1).map Cmd.record = some copyIn ∧ c.eligible (s.sameSpace c b) b 0 c.total = true ∧
      s.mayBegin (.copy 0 0) c = true ∧
      (match b.script .copy (sprFirst c.record) c.side (s.sameSpace c b) (s.sameAux c b) 0 (c.have_ 0) with
        | .error x => x.loc == false && findsFor s c .load x.addr == some 0x4000017F
        | .ok _ => false) = true ∧ homeDie 0x4000017F = engineDie (.copy 0 0)) ∧
    (let c := { cmd0 copyOut with got := [(0, [some 7])] };
      let s := withCmd c;
      let b := Box.of c.record;
      c.eligible (s.sameSpace c b) b 0 c.total = true ∧ s.mayBegin (.copy 0 0) c = true ∧ b.dsp = false ∧ c.barrier = 0 ∧
      (match b.script .copy (sprFirst c.record) c.side (s.sameSpace c b) (s.sameAux c b) 0 (c.have_ 0) with
        | .ok [(a, bs)] => a == 0x17F && bs == [7] && findsFor s c .store a == some 0x4000017F
        | _ => false) = true) ∧
    (let m := MergeRecord.of mergeIn;
      let full : MergeState := { takenA := 1, takenB := 1, out := 1, buf := natBytes 8 5 };
      let c := { cmd0 mergeIn with kind := .merge 0, merge := full };
      (withCmd c).mayBegin (.copy 0 0) c = true ∧ c.stopped = false ∧ c.awaiting = [] ∧ c.barrier = 0 ∧ m.localOut = false ∧
      (match m.step 0 full with
        | .write a bs _ => a == 0x300 && bs == natBytes 8 5 &&
          (((withCmd c).opened (.engine (.merge 0) 1 0) ((withCmd c).engineEndpoint (.merge 0))).engineTranslate (.merge 0) c .store a).2.toOption ==
            some 0x40000300
        | _ => false) = true ∧
      (match m.step 0 { full with buf := [] } with
        | .count => true
        | _ => false) = true ∧
      { withCmd c with cycle := 2 }.slotsFor (.live 0) (offsetOf m.count) 1 = true ∧ ({ withCmd c with cycle := 2 }.cluster 0).refusalInSlot m.count (offsetOf m.count) 8 true = none) ∧
    (∀ x ∈ [(CmdKind.kvld, 4, kvldIn), (CmdKind.attn, 6, attnIn)],
      let c := nmaCmd x.1 x.2.1 x.2.2;
      let s := commanding x.1 0 x.2.1 x.2.2 psdBytes;
      let s := s.setContext (.nma 0) { counter := 2, queue := [c] };
      (s.command? (.nma 0) 1).map Cmd.record = some x.2.2 ∧ s.mayBegin (.nma 0) c = true ∧ c.stopped = false ∧ c.startNeed = none ∧
      c.have_ tagTable ≠ [] ∧ c.have_ (tagPage 0) = [some 0] ∧ 0 < c.total ∧ c.awaiting = [] ∧ c.targets = [0] ∧
      ((s.podRuns c 0 0 (List.replicate (if x.1 = .kvld then 16 else 48) 0)).map (fun l => l.map (fun e => s.resolve 0 e.1))) =
        some [some 0] ∧ s.resolve c.issuer.job (localAddr 0 0) = some 0 ∧ endType (s.pageUnit (.nma 0) c 0) ≠ 0 ∧ s.net.outstanding = []) := by
  decide +kernel

/-- A PGFORK of the one page of a set, in channel `ch`, with what has come from other dies. -/
def forking (ch : Nat) (asks : List Ask) : State :=
  let s := commanding .pgfork 0 4 (natBytes 8 0x400 ++ natBytes 4 ch ++ List.replicate 52 0) psdBytes
  { s with
    hbm := writeBytes (writeBytes s.hbm 0x40000600 (natBytes 4 ch ++ natBytes 4 1 ++ natBytes 8 0x700)) 0x14 (natBytes 2 1)
    net := { s.net with asks := asks } }
def forked (s : State) : Except PageError (Nat × State) := (pgfork issuer0 (readBytes (s.cluster 0).sp 0 64)).run (accepting s)

/-- An image of one bundle, whose header ends the task, at 0x200 (R182); a rejected MLOAD; a TINV with nothing ahead; a PGFORK of a page of
the own die, of one whose channel is not in the set, of one on another die whose header has come, and of one whose write is acknowledged. -/
theorem meets_ProgramsAreLoadedAndTranslationsDropped :
    (let c := { cmd0 (natBytes 8 0x200 ++ List.replicate 56 0) with kind := .mload };
      let m := mapped pip0;
      let s := { m with hbm := writeBytes m.hbm 0x40000200 (natBytes 2 1 ++ natBytes 2 1 ++ natBytes 4 1 ++ List.replicate 56 0 ++
        natBytes 48 (3 * 2 ^ 9) ++ natBytes 2 0) };
      let v := s.opened (.mload 0 c.id) (s.clusterAddr 0);
      s.askOf (.mload 0 c.id) = none ∧
      (match (mloadStep (s.cluster 0).mu c.issuer c.record).run v with
        | .ok ((slot, p), u) => slot == 0 && p.check == none && whole u
        | .error _ => false) = true ∧
      (match (mloadStep (s.cluster 0).mu c.issuer (natBytes 8 0x280 ++ List.replicate 56 0)).run v with
        | .ok _ => false
        | .error d => d.detail == 3 && !d.lacks) = true ∧
      ({ queue := [c] } : Ctx).queue.head?.map Cmd.record = some c.record) ∧
    (atHead (forking 0 []) .pgfork 0 = true ∧ (forking 0 []).askOf (.op 0 0) = none ∧
      (match forked (forking 0 []) with
        | .ok (v, u) => v == 2 && whole u && !u.reach.any (fun y => !y.writes.isEmpty)
        | .error _ => false) = true ∧
      (match forked { forking 0 [] with hbm := (mapped pip0).hbm } with
        | .ok _ => false
        | .error d => d.detail == 2 && !d.lacks) = true) ∧
    (let x : Ask := { id := 0, who := .op 0 0, parts := [⟨0, 2 ^ 31, true, some (List.replicate 0x14 0 ++ natBytes 2 1 ++ List.replicate 42 0)⟩] };
      atHead (forking 64 [x]) .pgfork 0 = true ∧
      (match forked (forking 64 [x]) with
        | .ok (v, u) => v == 2 && whole u && u.reach.any (fun y => !y.writes.isEmpty)
        | .error _ => false) = true) ∧
    (let x : Ask := { id := 0, who := .op 0 0, closing := true };
      let o : Op := { commandOp .pgfork 0 with phase := .fetching [] 6 };
      let s := { mapped (pipOp o) with net := { base.net with asks := [x] } };
      (pipOp o).op 0 = some o ∧ s.canPerform 0 (pipOp o) o = true ∧ (s.askOf (.op 0 0)).any Ask.over = true) ∧
    (let o : Op := { id := 0, kind := .tinv 2 (localAddr 0 0), dest := .g 5, phase := .accepted [], rel := some 2 };
      (pipOp o).op 0 = some o ∧ o.dest ≠ .none ∧ 2 ≤ o.rel.getD 0 ∧ o.modules = [] ∧ (at0 (pipOp o)).usesOver 0 2 2 o.data = true) := by decide +kernel

/-- A task without operands. -/
def task0 : MTask := ⟨1, issuer0, 0, false, 0, [], [], 0, 0, 0, 0, 1, 0⟩
def muWith (m : MatrixUnit) : State := in0 { cluster0 with mu := m } pip0

/-- Four pods: values in f32 and codes in f16, both sealed, an open one of f32, and an open one of f16; the rows of each are 64. -/
def podOf4 (base rowBytes fmt state : Nat) : Pod := { w0 := word (base + 63 * 2 ^ 22 + (rowBytes / 16 - 1) * 2 ^ 29 + fmt * 2 ^ 34 + state * 2 ^ 43), w2 := -1 }
def tiles (m : MatrixUnit) : Cluster :=
  { cluster0 with
    pods := [(0, podOf4 0x10000 256 6 2), (1, podOf4 0x20000 128 4 2), (2, podOf4 0x30000 256 6 1), (3, podOf4 0x40000 128 4 1)], mu := m }
def run1 : Run := { task := task0, h := [some 0, some 1, none, none, none, none, none, none, some 2, some 3] }

/-- A tile load that passes its checks, a geometry that does, a store that does: each schedules something. -/
theorem loadGives_of {c : Cluster} {r : Run} {t start : Nat} {side : Bool} {x : Nat}
    (h : opOf x = 0 ∨ (c.load r c.mu.lc side x).toOption.any (fun l => decide (l.entries ≤ 64)) = true) :
    ∃ e ws, c.LoadGives r t start side x e ws := by
  unfold Cluster.LoadGives
  by_cases h0 : opOf x = 0
  · simp [h0]
  · simp only [h0, if_false, false_or] at h ⊢
    cases hl : c.load r c.mu.lc side x with
    | error e => simp [hl, Except.toOption] at h
    | ok l => exact ⟨_, _, l, rfl, by simpa [hl, Except.toOption] using h, rfl, rfl⟩

theorem vecGives_of {m : MatrixUnit} {t x : Nat} (h : opOf x ∈ [0, 0x20, 0x21, 0x22, 0x23, 0x24, 0x25, 0x26, 0x27, 0x28, 0x2A]) :
    ∃ ws, m.VecGives t x ws := by
  have is_ : ∀ f : Nat → Nat, Block.Is ((List.range 4096).map (fun k => BitVec.ofNat 32 (f k))) f := fun f => by
    refine ⟨by simp, fun k hk => ?_⟩
    simp [List.getD_eq_getElem?_getD, List.getElem?_map, List.getElem?_range hk]
  simp only [List.mem_cons, List.not_mem_nil, or_false] at h
  unfold MatrixUnit.VecGives
  obtain h | h | h | h | h | h | h | h | h | h | h := h <;> simp only [h]
  · exact ⟨_, rfl⟩
  · exact ⟨_, rfl⟩
  · exact ⟨_, _, is_ _, rfl⟩
  · exact ⟨_, _, is_ _, rfl⟩
  · exact ⟨_, _, is_ _, rfl⟩
  · exact ⟨_, _, is_ _, rfl⟩
  · split <;> exact ⟨_, _, is_ _, rfl⟩
  · exact ⟨_, _, is_ _, rfl⟩
  · exact ⟨_, _, is_ _, rfl⟩
  · exact ⟨_, rfl⟩
  · exact ⟨_, rfl⟩

def mmaOk (m : MatrixUnit) (x : Nat) : Bool :=
  let a := m.tile false (bitsOf x 11 2)
  let regs := mmaRegisters a (bitsOf x 18 3) (bitsOf x 13 2)
  let bs := regs.map (m.tile true)
  opOf x == 0 || (a.type.fmt == bitsOf x 15 3 && bitsOf x 13 2 % regs.length == 0 &&
    bs.all (fun y => y.type.fmt == bitsOf x 18 3 && y.type.pruned == 0 && (!grouped (bitsOf x 18 3) || y.type.grp == a.type.grp)) &&
    decide (a.buffer.length + (bs.map (fun y => y.buffer.length)).sum ≤ 64))

theorem mmaGives_of {m : MatrixUnit} {t x : Nat} (h : mmaOk m x = true) : ∃ ws, m.MmaGives t x ws := by
  unfold MatrixUnit.MmaGives
  by_cases h0 : opOf x = 0
  · simp [h0]
  · simp only [mmaOk, h0, beq_iff_eq, if_false, Bool.or_eq_true, Bool.and_eq_true, List.all_eq_true, decide_eq_true_eq, false_or,
      Bool.not_eq_true'] at h ⊢
    obtain ⟨⟨⟨h1, h2⟩, h3⟩, h4⟩ := h
    refine ⟨_, h1, h2, fun y hy => ?_, h4, rfl⟩
    obtain ⟨⟨a, b⟩, c⟩ := h3 y hy
    exact ⟨a, b, fun g => c.resolve_left (by simp [g])⟩

theorem storeGives_of {c : Cluster} {r : Run} {t x : Nat}
    (h : opOf x = 0 ∨ (opOf x = 0x30 ∧ (c.storeBlock r c.mu.lc c.mu.rm (c.mu.block (bitsOf x 8 3)) x).toOption.isSome = true) ∨
      (opOf x = 0x31 ∧ (c.storeTile r c.mu.lc (c.mu.tile (bitsOf x 10 1 == 1) (bitsOf x 8 2)) x).toOption.isSome = true) ∨
      (opOf x = 0x32 ∧ bitsOf x 15 1 = 0)) : ∃ saves tsigs, c.StoreGives r t x saves tsigs := by
  unfold Cluster.StoreGives
  obtain h | ⟨h, hs⟩ | ⟨h, hs⟩ | ⟨h, hs⟩ := h <;> rw [h]
  · exact ⟨_, _, rfl, rfl⟩
  · cases hl : c.storeBlock r c.mu.lc c.mu.rm (c.mu.block (bitsOf x 8 3)) x with
    | error e => simp [hl, Except.toOption] at hs
    | ok y => exact ⟨_, _, y, rfl, rfl, rfl⟩
  · cases hl : c.storeTile r c.mu.lc (c.mu.tile (bitsOf x 10 1 == 1) (bitsOf x 8 2)) x with
    | error e => simp [hl, Except.toOption] at hs
    | ok y => exact ⟨_, _, y, rfl, rfl, rfl⟩
  · exact ⟨_, _, rfl, .inl ⟨hs, rfl⟩⟩

theorem headerGives_of (m : MatrixUnit) (r : Run) (t : Nat) (b : BitVec 384) (following : Nat) :
    ∃ pos stage ws, m.HeaderGives r t b following pos stage ws := by
  unfold MatrixUnit.HeaderGives
  dsimp only
  split
  · exact ⟨_, _, _, rfl, rfl, rfl⟩
  · split <;> exact ⟨_, _, _, rfl, rfl, rfl⟩
  · exact ⟨0, _, _, rfl, rfl⟩
  · exact ⟨_, _, _, rfl, rfl, rfl⟩

/-- A ready task; bundles with each header operation, loads into both sides, an MMA, a VEC operation and each store. -/
theorem meets_TasksDispatchAndBundlesIssue :
    (let s := muWith { table := [task0] };
      (s.cluster 0).mu.run = none ∧ (s.cluster 0).mu.freeAt ≤ s.cycle ∧ s.stopping 0 = false ∧ (s.cluster 0).mu.halted = false ∧
      (s.cluster 0).mu.fillerEnd ≤ s.cycle ∧ task0 ∈ (s.cluster 0).mu.table ∧ task0.ins = [] ∧ mget (s.cluster 0).mu.programs 0 = none) ∧
    (∀ x ∈ ([(0, 0, 0, 0, 0, 0), (3 * 2 ^ 9, 0, 0, 0, 0, 0x32), (2 * 2 ^ 9, 2, 0, 0, 0x2A, 0), (2 ^ 9, 1 + 2 ^ 10, 0, 0x12, 0x21, 0),
        (0, 0, 2, 0, 0x28, 0x30 + 8 * 2 ^ 11 + 6 * 2 ^ 31), (0, 0, 1 + 2 ^ 10 + 2 ^ 30, 0, 0, 0)] : List (Nat × Nat × Nat × Nat × Nat × Nat)),
      let b := BitVec.ofNat 384 (x.1 + x.2.1 * 2 ^ 64 + x.2.2.1 * 2 ^ 128 + x.2.2.2.1 * 2 ^ 192 + x.2.2.2.2.1 * 2 ^ 256 + x.2.2.2.2.2 * 2 ^ 320);
      let c := tiles { run := some run1, lc := [1, 0, 0, 0], programs := [(0, ⟨[b], [0]⟩)] };
      let s := in0 c pip0;
      (s.cluster 0).mu.run = some run1 ∧ s.bundleDue 0 = true ∧ run1.writeDue s.cycle = false ∧ run1.saveDue s.cycle = false ∧
      s.tsigDue 0 = false ∧ (s.cluster 0).sealEnds s.cycle = false ∧ c.mu.stepping = false ∧ run1.check = false ∧ (c.mu.bundle run1).1 = b ∧
      run1.bound = 0 ∧ run1.arrayEnd ≤ s.cycle ∧
      (opOf (part b 1) = 0 ∨ (c.load run1 c.mu.lc false (part b 1)).toOption.any (fun l => decide (l.entries ≤ 64)) = true) ∧
      (opOf (part b 2) = 0 ∨ (c.load run1 c.mu.lc true (part b 2)).toOption.any (fun l => decide (l.entries ≤ 64)) = true) ∧
      mmaOk c.mu (part b 3) = true ∧ opOf (part b 4) ∈ [0, 0x20, 0x21, 0x22, 0x23, 0x24, 0x25, 0x26, 0x27, 0x28, 0x2A] ∧
      (opOf (part b 5) = 0 ∨ (opOf (part b 5) = 0x30 ∧ (c.storeBlock run1 c.mu.lc c.mu.rm (c.mu.block (bitsOf (part b 5) 8 3)) (part b 5)).toOption.isSome = true) ∨
        (opOf (part b 5) = 0x31 ∧ (c.storeTile run1 c.mu.lc (c.mu.tile (bitsOf (part b 5) 10 1 == 1) (bitsOf (part b 5) 8 2)) (part b 5)).toOption.isSome = true) ∨
        (opOf (part b 5) = 0x32 ∧ bitsOf (part b 5) 15 1 = 0))) ∧
    (let c := tiles {};
      (∀ side, (match c.load run1 [] side (1 + 5 * 2 ^ 10) with
        | .error e => e == codeGeometry
        | .ok _ => false) = true) ∧
      opOf (1 + 5 * 2 ^ 10) ≠ 0 ∧ (5 : Nat) < { run1 with arrayEnd := 6 }.arrayEnd ∧
      { run1 with started := true, bound := 4 }.bound < 5 - run1.lastPoint ∧ stopOf (0 : BitVec 384) = false) ∧
    (∀ x ∈ [(false, 2), (true, 1 + 2 ^ 10), (true, 1 + 2 ^ 10 + 2 ^ 30)],
      let c := tiles {};
      let j := handleNumber [] x.2 10 34 35;
      c.bound run1 j = some j ∧ (c.load run1 [] x.1 x.2).toOption.isSome = true ∧ (c.view run1 j).pod.capacity = 0 ∧ (c.view run1 j).entries = [] ∧
        (c.view run1 j).row 0 = true) ∧
    (let c := tiles {};
      c.bound run1 (handleNumber [] (8 * 2 ^ 11 + 6 * 2 ^ 31) 11 35 36) = some 2 ∧
      (c.storeBlock run1 [] 0 (c.mu.block 0) (8 * 2 ^ 11 + 6 * 2 ^ 31)).toOption.isSome = true) ∧
    (base.rampDown.setWidth 16 : BitVec 16) ≠ 0 ∧ base.clusterClocked 0 = true := by
  refine ⟨by decide +kernel, by decide +kernel, by decide +kernel, by decide +kernel, by decide +kernel, by decide +kernel, by decide +kernel⟩

theorem meets_DelayedWritesChangeTheirRegister :
    (∀ w ∈ ([⟨0, 0, .acc 7 [], false⟩, ⟨0, 0, .mma 7 true {} [], false⟩, ⟨0, 0, .tile true 3 {}, true⟩, ⟨0, 0, .sl 5, false⟩,
        ⟨0, 0, .config 1 2, false⟩] : List MuWrite),
      let r : Run := { task := task0, writes := [w] };
      ((muWith { run := some r }).cluster 0).mu.run = some r ∧ r.nextWrite 0 = some w) ∧
    (let r : Run := { task := task0, saves := [⟨0, [(0, 0x7C0, [1, 2])]⟩] };
      r.saves = [⟨0, [(0, 0x7C0, [1, 2])]⟩] ∧ cluster0.refusalInSlot (word 0x7C0) 0x7C0 2 true = none ∧
      (cluster0.refusalInSlot (word 0x800) 0x800 2 true).isSome = true) := by decide +kernel

theorem meets_TasksSignalAndEnd :
    (let x : Tsig := ⟨0, some 0, false⟩;
      let r : Run := { task := task0, tsigs := [x] };
      r.tsigs.find? (fun y => decide (y.cycle ≤ 0)) = some x ∧ (withPod 1).live ((0 : BitVec 16).setWidth 64) = some 0) ∧
    (let x : Tsig := ⟨0, none, true⟩;
      let b := localAddr 0 0x7F0;
      let s := muWith { run := some { task := { task0 with barrier := b }, tsigs := [x] } };
      s.checkLocal 0 (s.cluster 0).spres b 16 = none ∧ b ≠ 0 ∧ s.rankHere 0 (rankOf b) = true ∧ (s.barrierPlace 0 (clusterOf b) b).isSome = true) ∧
    (let r : Run := { task := task0, stage := .over };
      let s := muWith { run := some r };
      r.quiet = true ∧ r.unanswered = 0 ∧ r.task.scaleLog = 0 ∧ s.taskPlace 0 0 (localAddr 0 0x700) 16 256 = true ∧
      s.taskPlace 0 0 (localAddr 0 0x710) 16 256 = false) ∧
    (let r : Run := { task := { task0 with resultAt := localAddr 0 0x7F8 }, stage := .closing };
      let s := muWith { run := some r };
      (s.cluster 0).outputsSealed r.task = true ∧ s.gangWaits 0 r.task = false ∧ r.fault = none ∧
      s.taskPlace 0 0 r.task.resultAt 8 8 = true) ∧
    (let t : MTask := { task0 with gang := true };
      let s := (muWith { run := some { task := t, stage := .passing } }).setCluster 1 { mu := { table := [t] } };
      s.gangWaits 0 t = true ∧ (s.setCluster 1 {}).gangWaits 0 t = false) := by
  decide +kernel

/-- A launch record of one pip, and the state of a module that is ready. -/
def record1 (prio : Nat) : List Byte := natBytes 2 1 ++ [1, BitVec.ofNat 8 prio] ++ natBytes 4 0 ++ natBytes 8 0x1000 ++ natBytes 8 0 ++
  natBytes 4 0x1000 ++ natBytes 4 0x800 ++ natBytes 4 4 ++ List.replicate 28 0 ++ natBytes 4 0 ++ natBytes 4 1 ++ natBytes 4 0xFFFFFFFF ++
  List.replicate 116 0
def ready : State := { State.reset with host := { ready := true } }
def queued1 : Launch := { fetchLaunch with phase := .queued, clusters := [], entryHeld := true }

theorem meets_LaunchesAreQueuedPlacedAndAged :
    (ready.running = true ∧ (record1 46).length = 192 ∧ launchCode (record1 46) ⟨none, 46⟩ 0 = 0 ∧
      launchCode (record1 47) ⟨none, 46⟩ 0 = 6 ∧ launchCode (record1 47) ⟨none, 47⟩ 0 = 0 ∧
      ready.entriesUsed (queuingDie (LaunchRecord.of (record1 46)) 63) false < 512 ∧
      (∀ v ∈ (LaunchRecord.of (record1 46)).levels, v.domain ≠ 6) ∧
      512 ≤ ({ ready with launches := List.replicate 512 (0, queued1) } : State).entriesUsed 0 false ∧ (63 : Nat) < 64) ∧
    (let o : Op := { id := 0, kind := .command .launch (localAddr 0 0) 0, dest := .g 5, mode := true };
      let s := in0 { cluster0 with sp := writeBytes [] 0 (record1 46) } (pipOp o);
      s.pip 0 = some (pipOp o) ∧ (pipOp o).op 0 = some o ∧ s.canPerform 0 (pipOp o) o = true ∧
      launchCode (readBytes (s.cluster 0).sp 0 192) (s.submitter (s.issuerOf 0 (pipOp o) o)) (s.ranksOf 0).length = 0 ∧
      s.entriesUsed 0 true < 512 ∧ (pipOp o).before 0 = [] ∧
      launchCode (readBytes (s.cluster 0).sp 64 192) (s.submitter (s.issuerOf 0 (pipOp o) o)) (s.ranksOf 0).length ≠ 0) ∧
    (ready.launch 9 = none ∧ (1 : Nat) ≠ ready.host.modid.toNat) ∧
    (let s := { ready with launches := [(1, queued1)] };
      s.launch 1 = some queued1 ∧ s.mayDispatch queued1 = true ∧ s.firstInOrder queued1 = true ∧
      queued1.resolve s.clusterFree [] = some ([([0], 0)], [0])) ∧
    (let s := { ready with launches := [(1, queued1)], cycle := 1200000 };
      queued1.waiting = true ∧ s.ageCycles 0 ≠ 0 ∧ queued1.prio < 46 ∧ s.ageCycles 0 ≤ queued1.queuedFor s.cycle) := by decide +kernel

/-- Launch 2, of priority 47 and with a fixed place on cluster 0, waits for what launch 1 holds. -/
theorem meets_ContextsAreStoppedSavedAndResumed :
    (let v : Launch := { fetchLaunch with residentSince := 0 };
      let l : Launch := { queued1 with id := 2, prio := 47, record := { queued1.record with levels := [⟨0, 1, 0⟩] } };
      let s := { ready with launches := [(1, v), (2, l)], clusters := [(0, cluster0)], pips := [(0, pip0)] };
      s.launch 2 = some l ∧ (∀ e ∈ s.launches, e.1 = e.2.id.toNat) ∧ s.mayDispatch l = true ∧ s.firstSomewhere l = true ∧
      s.mayPreempt 0 l = true ∧ s.victims l (s.eligible 0 l) [] = some [1]) ∧
    (let l : Launch := { fetchLaunch with phase := .stopping };
      let s := { ready with launches := [(1, l)], clusters := [(0, cluster0)], pips := [(0, { pip0 with heldPreempt := true })] };
      s.launch 1 = some l ∧ l.phase = .stopping ∧ s.drained l = true ∧ pip0.ops = []) ∧
    (let l : Launch := { fetchLaunch with phase := .saved };
      let x : Saved := ⟨1, 0, 0, [(0, cluster0)], [], [], [(0, pip0)]⟩;
      let s := { ready with launches := [(1, l)], saved := [x] };
      s.saved.find? (fun y => y.launch == 1) = some x ∧ s.mayDispatch l = true ∧ s.firstInOrder l = true ∧
      (∀ cl ∈ l.clusters, s.clusterFree cl = true) ∧ (x.pips.map Prod.fst).Nodup ∧ (x.clusters.map Prod.fst).Nodup) := by decide +kernel

theorem meets_LaunchesCompleteAndRanksMove :
    (let s := mapped { pip0 with cond := .idle };
      (s.launch 1).map (fun l => (l.phase, s.partComplete l, l.home, l.partsLeft, l.record.doneAddr)) =
        some (LaunchPhase.resident, true, s.host.modid.toNat, [], 0) ∧ (s.cluster 0).mu.table = [] ∧
      s.cores.all (fun e => e.2.reds.isEmpty) = true ∧ s.askOf (.launch 1) = none ∧ homeDie 0x40000100 = 0 ∧
      let u := (s.opened (.launch 1) (s.controllerAddr 0)).translate 0 0 true .store 0x100;
      paOf u.2 = some 0x40000100 ∧ whole u.1 = true) ∧
    (let l : Launch := { fetchLaunch with partsLeft := [0, 1] };
      1 ∈ l.partsLeft ∧ (1 : Nat) ≠ (base.jobOf 0).ownRank ∧ l.home = base.host.modid.toNat) ∧
    ((base.jobs.map Prod.fst).Nodup ∧ mget (base.jobOf 0).ranks 1 = some 0x100001 ∧ (0x100001 : Word).getLsbD 20 = true ∧
      (5 : BitVec 20) ≠ base.host.modid) := by decide +kernel

/-- A packet of this kind at cluster 0. -/
def pkt (kind : Byte) (addr : Word) (len : Fin 1537) (body : List Byte) (w : PacketWork) : Packet :=
  { mig with kind := kind, addr := addr, len := len, body := body, work := w, src := 1, origin := 1 }
def arriving (q : Packet) : State := { base with cycle := 2, net := { base.net with packets := [(0, q)] } }

/-- It arrives there. -/
theorem arriving_arrived (kind : Byte) (addr : Word) (len : Fin 1537) (body : List Byte) (w : PacketWork)
    (hb : (arriving (pkt kind addr len body w)).begun 0 (pkt kind addr len body w) = false) :
    (arriving (pkt kind addr len body w)).Arrived 0 (pkt kind addr len body w) kind :=
  arrived_of rfl rfl (show base.here 0 = true by decide) (show base.standsAt 0 0 = true by decide) rfl rfl
    (show oldVersion 0 0 = false by decide) hb

/-- In cycle 2 bank 0 serves the engine class: each request at an allowed offset, beyond the reservation, and refused. -/
theorem meets_RequestsAreServedAtTheirTarget :
    (let q := pkt 1 (localAddr 0 0) 8 [] (.load 0); (arriving q).Arrived 0 q 1) ∧
    (let q := pkt 2 (localAddr 0 0) 4 [] (.atomic 1 false 5); (arriving q).Arrived 0 q 2) ∧
    (let q := pkt 3 (localAddr 0 0) 2 [1, 2] .plain; (arriving q).Arrived 0 q 3) ∧
    (∀ q ∈ [pkt 1 (localAddr 0 0) 8 [] (.load 0), pkt 2 (localAddr 0 0) 4 [] (.atomic 1 false 5),
        pkt 3 (localAddr 0 0) 2 [1, 2] .plain, pkt 4 (localAddr 0 0) 10 (natBytes 8 1 ++ [1, 2]) .bulk,
        pkt 3 (localAddr 0 0x38) 16 (List.replicate 16 1) .plain],
      let s := arriving q;
      clusterNamed q.dst = 0 ∧ endType q.dst = 0 ∧ q.crossesDie = false ∧ s.place q.job 0 = some (.live 0) ∧ s.requestFor q = none ∧
      (s.dropPacket 0).slotsFor (.live 0) 0 8 = true ∧ s.slotsFor (.live 0) 0x38 8 = true) ∧
    (let q := pkt 4 (localAddr 0 0) 10 (natBytes 8 1 ++ [1, 2]) .bulk;
      0 ∈ q.targets ∧ (arriving q).standsAt 0 ((arriving q).clusterAddr 0) = true) ∧ 64 < 0x38 % 64 + 16 ∧
    (cluster0.staleLoad (localAddr 0 0) 0 8 = false ∧ cluster0.staleLoad (localAddr 0 0x800 + 2 ^ 60) 0x800 8 = true ∧
      0x7F8 + 8 ≤ cluster0.spres ∧ cluster0.spres < offsetOf (localAddr 0 0x1000) + 8 ∧
      cluster0.refusalInSlot (localAddr 0 0) 0 8 false = none ∧ cluster0.refusalInSlot (localAddr 0 0x800) 0x800 8 true = some (1, 128)) ∧
    (let f := { pkt 8 (localAddr 0 0) 40 (pkt 1 (localAddr 0 0) 8 [] (.load 0)).bytes (.load 0) with origin := 7 };
      let s := { State.reset with saved := [⟨1, 0, 0, [(0, cluster0)], [], [], []⟩], net := { State.reset.net with packets := [(0, f)] } };
      let q := packetOf f.body f.tag;
      s.Arrived 0 f 8 ∧ q.kind = 1 ∧ q.crossesDie = false ∧ endType q.dst = 0 ∧ s.place f.job (clusterNamed q.dst) = some (.kept 0 0) ∧
      offsetOf q.addr + q.len.val ≤ (s.placed (.kept 0 0)).spres ∧ (s.placed (.kept 0 0)).staleLoad q.addr (offsetOf q.addr) q.len.val = false) ∧
    (let q := { pkt 1 0x1000 64 [] .fill with dst := base.sliceAddr 0x1000 };
      let s := arriving q;
      s.Arrived 0 q 1 ∧ endType q.dst = 1 ∧ q.crossesDie = false ∧ s.requestFor q = none ∧ mget s.bad (0x1000 / 128) = none) := by
  refine ⟨arriving_arrived _ _ _ _ _ rfl, arriving_arrived _ _ _ _ _ rfl, arriving_arrived _ _ _ _ _ rfl, by decide +kernel, by decide +kernel,
    by decide, by decide +kernel, ⟨arrived_of rfl rfl rfl rfl rfl rfl rfl rfl, by decide +kernel⟩, arrived_of rfl rfl (by decide +kernel) ?_ rfl rfl rfl rfl,
    by decide +kernel⟩
  rfl

theorem meets_ResponsesCompleteTheirAccess :
    (∀ e ∈ ([(0x10, .storeL (localAddr 1 0) [1] false, .none), (0x11, .loadL (localAddr 1 0) 8 0, .g 5),
        (0x11, .atomicL (localAddr 1 0) 4 1 5, .g 5), (0x12, .loadL (localAddr 1 0) 8 0, .v 15)] : List (Byte × OpKind × Dest)),
      let x : Op := { id := 0, kind := e.2.1, dest := e.2.2, phase := .sent };
      let o : Outstanding := { origin := .pip 0 0, packet := pkt 1 (localAddr 1 0) 8 [] .plain, retained := false };
      let r : Packet := { mig with kind := e.1, src := o.packet.dst, dst := o.packet.src };
      let s := { at0 (pipOp x) with net := { base.net with packets := [(0, r)], outstanding := [o] } };
      (pipOp x).op 0 = some x ∧ s.Responds 0 r e.1 o) ∧
    (pip0.status.getLsbD 2 = false ∧ { pip0 with status := 5 }.status.getLsbD 2 = true ∧ pip0.ipend.getLsbD 2 = false) ∧
    (let r := pkt 0x15 0 2 [0, 0] .plain; (arriving r).Arrived 0 r 0x15) := by
  refine ⟨fun e h => ?_, by decide +kernel, arriving_arrived _ _ _ _ _ rfl⟩
  simp only [List.mem_cons, List.not_mem_nil, or_false] at h
  obtain rfl | rfl | rfl | rfl := h <;>
    exact ⟨op_pipOp _ rfl, arrived_of rfl rfl rfl rfl rfl rfl rfl rfl, by decide +kernel, rfl, rfl⟩

/-- A beat on the mesh link from router 0 east to router 1 of die 0, with the last bytes of packet 0; a state in which it is sent. -/
def beat : Flit := { raw := [], channel := some 5, ends := some 0 }
def onMesh (x : Link) : State :=
  { base with net := { base.net with packets := [(0, mig)], transit := [(0, ⟨.link (meshLinks + 1), none⟩)]
                                     links := [(meshLinks + 1, { buffer := [beat] }), (meshLinks + 7, x)] } }

/-- A control packet at the controller of die 5. -/
def ctl (c : Control) : Packet := { pkt 0x18 0 0 [] (.control c) with dst := base.controllerAddr 5 }

/-- A flit whose check passes and one whose check fails; a mesh, a die-to-die link and a port; each stage of a change of version. -/
theorem meets_LinksAndRoutingVersionsChange :
    (base.host.power ≠ .p4 ∧ linkExists 31 = true ∧ linkExists 32 = false ∧ linkExists (32 + 64) = true ∧ otherEnd (32 + 64) = some (32 + 256 + 192) ∧
      linkExists (meshLinks + 7) = true ∧ otherEnd (meshLinks + 1) = some (meshLinks + 7) ∧ (base.link 0).dead = false) ∧
    (let s := onMesh {};
      s.wasSent (meshLinks + 7) beat = true ∧ flitOk (meshLinks + 7) beat = true ∧ flitOk (meshLinks + 7) { beat with beatOk := false } = false ∧
      s.wasSent (meshLinks + 7) { beat with beatOk := false } = true ∧ s.wasSent (meshLinks + 7) { beat with seq := 9 } = false ∧
      s.inOrder (meshLinks + 7) beat = true ∧ s.inOrder (meshLinks + 7) { beat with ends := none } = false ∧ s.net.change = none ∧
      mget s.net.packets 0 = some mig ∧ mget s.net.transit 0 = some ⟨.link (meshLinks + 1), none⟩ ∧ s.discards 0 0 mig = false ∧
      s.failsTry (meshLinks + 7) { beat with beatOk := false } = true ∧
      base.failsTry 0 { raw := [], channel := none } = false ∧ base.wasSent 0 { raw := [], channel := none } = true ∧
      flitOk 0 { raw := [], channel := none } = false ∧
      8 ≤ ((onMesh { retries := 8 }).link (meshLinks + 7)).retries) ∧
    (let body := List.replicate 248 (0 : Byte) ++ [1, 0, 0, 0];
      let f : Flit := { raw := body ++ natBytes 4 (crc32c body), channel := some 1, tag := some mig.tag };
      flitOk 0 f = true ∧ flitOk 0 { f with raw := [] } = false ∧ base.wasSent 0 f = true ∧ base.inOrder 0 f = true ∧
      base.discards (linkFrom 0).1 base.net.nextPacket (packetOf ((f.raw.drop 16).take 232) mig.tag) = false) ∧
    (base.net.change = none ∧ base.net.routeMaster = base.host.modid.toNat ∧ base.planOk ((List.range 64).map (fun d => (d, {}))) = true ∧
      base.planOk [] = false) ∧
    (let s := arriving (ctl (.tables 1 {}));
      s.controlAt 5 (Control.isTables (s.net.version + 1)) = some (0, ctl (.tables 1 {}))) ∧
    (let c : RouteChange := { version := 1, plan := [(5, {})], ackInstalled := [5], ackFlipped := [5] };
      let s := { arriving (ctl (.flip 1)) with net := { (arriving (ctl (.flip 1))).net with change := some c } };
      s.net.change = some c ∧ c.plan ≠ [] ∧ c.broadcast = false ∧ (∀ e ∈ c.plan, e.1 ∈ c.ackInstalled) ∧
      (∀ e ∈ c.plan, e.1 ∈ c.ackFlipped) ∧ 5 ∉ c.flipped ∧ s.controlAt 5 (Control.isFlip c.version) = some (0, ctl (.flip 1))) := by
  decide +kernel

theorem meets_TimeGatesAndRankTablesFollowTheControlNode :
    (ready.host.ready = true ∧ ready.host.synced = false ∧ { ready with host := { ready.host with synced := true } }.host.synced = true) ∧
    (let s := { ready with time := 10000000, host := { ready.host with synced := true } };
      s.host.lastExchange + 10000000 ≤ s.time) ∧ (0xFFFFFFFF : Nat) < 2 ^ 32 ∧
    (let s := { base with jobs := [(0, { gate := some 0 })] };
      (s.jobOf 0).gate = some 0 ∧ (0 : Nat) ≤ s.time) ∧
    (65534 : Nat) ≤ 65534 ∧ [(65534, (0x100000 : Word))] = [] ++ (65534, 0x100000) :: [] := by decide +kernel

theorem meets_WindowsAndRecordsAnswerTheControlNode :
    (let w : WindowSpec := ⟨true, true, 1, true, 0, 0x1000⟩;
      let s := { ready with host := { ready.host with windows := [w] } };
      s.managed = true ∧ s.host.windows[0]? = some w ∧ s.host.windows.length < 16 ∧ (65535 : Nat) + 1 ≤ 65536 * w.pages ∧
      65536 * w.pages < 65536 + 1 ∧ (w.base.toNat + 0x78) % 128 + 8 ≤ 128 ∧ s.windowReaches 0x1078 8 = true ∧
      { s with host := { s.host with firmwareBase := 0x1000, firmwareSize := 0x80 } }.windowReaches 0x1078 8 = false ∧ { w with writable := false }.writable = false ∧ mget s.bad (0x1078 / 128) = none) ∧
    (∀ i ∈ [Instr.windowRead 0 0x78 8, .windowWrite 0 0x78 (List.replicate 8 0)],
      let u := (mapped pip0).opened (.host i) ((mapped pip0).controllerAddr 0);
      paOf (u.translate 0 0 true .load (word 0x78)).2 = some 0x40000078 ∧ whole (u.translate 0 0 true .load (word 0x78)).1 = true ∧
      paOf (u.translate 0 0 true .store (word 0x78)).2 = some 0x40000078 ∧ whole (u.translate 0 0 true .store (word 0x78)).1 = true ∧
      causeOf (u.translate 0 0 true .load (word 0x10000000000)).2 = some .pageNotPresent ∧
      causeOf (u.translate 0 0 true .store (word 0x10000000000)).2 = some .pageNotPresent ∧
      whole (u.translate 0 0 true .load (word 0x10000000000)).1 = true) ∧ homeDie 0x1078 = 0 ∧ ready.net.asks = [] := by decide +kernel

theorem meets_PowerAndStartUpFollowTheirRules :
    ready.managed = true ∧ ready.host.debug ≠ .intrusive ∧ ready.launches = [] ∧
    { ready with launches := [(1, fetchLaunch)] }.launches.any (fun e => e.2.isResident) = true ∧
    ready.host.power ≠ .p4 ∧ (43999 : Nat) < 44000 ∧
    (State.reset.host.ready = false ∧ (0 : Nat) % 524288 = 0 ∧ escapesOk [] = true ∧ ∀ n, 1 ≤ n → n ≤ 16 →
      stepState (State.reset.host.steps.toList.getD (n - 1) 0) = 0) ∧
    stepState (stepEntry 3 false 7 1) = 3 ∧ stepAlt (stepEntry 3 false 7 1) = false := by
  refine ⟨by decide, by decide, rfl, by decide, by decide, by decide, ⟨by decide, by decide, by decide, ?_⟩, by decide, by decide⟩
  intro n h1 h2
  have : State.reset.host.steps.toList.getD (n - 1) 0 = 0 := by
    have h : State.reset.host.steps.toList = List.replicate 16 0 := by decide
    rw [h]
    have : n - 1 < 16 := by omega
    generalize n - 1 = m at *
    revert m; decide
  rw [this]; decide

theorem meets_SecurityCommandsFollowTheirStates :
    ready.managed = true ∧ ready.host.lifecycle = .manufacture ∧ ready.host.debug = .off ∧
    (at0 pip0).pip 0 = some pip0 ∧ { ready with host := { ready.host with debug := .intrusive } }.host.debug = .intrusive ∧
    physical 0x78 = true ∧ physical (0x78 + 8 - 1) = true ∧ homeDie 0x78 = 0 ∧ ready.net.asks = [] ∧ runsOver 0x78 8 ready.host.saveBase ready.host.saveSize = false ∧ { pip0 with heldFault := true }.heldFault = true ∧ 0x78 % 128 + 8 ≤ 128 ∧ (16383 : Nat) < 16384 ∧ 0x3DFFF8 + 8 ≤ 0x3E0000 ∧
    (List.replicate 32 (0 : Byte)).length = 32 ∧
    { ready with host := { ready.host with tokenExpiry := some 0 } }.host.tokenExpiry = some 0 := by decide +kernel

/-- A lifecycle move is signed, or it is not: the key and the message are values of the configuration, so both clauses are met by what
it may be. -/
theorem meets_signatures (a b : Lifecycle) (g : List Byte) : moveSigned a b g = true ∨ moveSigned a b g = false := by
  cases moveSigned a b g <;> simp

theorem meets_DecodingInvertsEncoding :
    (Instr.add 0 0 0 0 4 12).wf = true ∧ (Instr.add 0 0 0 0 4 12).encode = some 0x00004602 ∧ (0x00004602 : Nat) < 2 ^ 32 ∧
    ((Instr.add 0 0 0 0 4 12).uses pip0).isSome = true := by decide +kernel

/-- Slot 0 is chosen, nothing is due, and its fetch succeeds. -/
theorem meets_AStepRunsTheDecodedInstruction :
    (let s := { mapped (fetchLaunch.newPip [0]) with agenda := [.issue 0] };
      let u := { s with agenda := [] };
      s.agenda = .issue 0 :: [] ∧ u.clocked = true ∧ u.eventDue = none ∧ u.nextIssue (0 / 256) = some 0 ∧
      (s.pip 0).map (fun p => (p.dueTrap, p.pc)) = some (none, 0x1000) ∧
      s.host.power ≠ .p4 ∧ s.cores.all (fun e => e.2.reds.isEmpty) = true ∧
      (match (u.fetchWord 0 (fetchLaunch.newPip [0])).2 with
        | some (.ok w) => w == 0xFFFFF28E
        | _ => false) = true ∧ (s.core 0).code = [] ∧
      let o := (u.opened (.fetch 0 0x1000) (s.clusterAddr 0)).translate 0 0 true .fetch 0x1000;
      paOf o.2 = some 0x40001000 ∧ whole o.1 = true ∧ homeDie 0x40001000 = dieOf (s.clusterAddr 0)) ∧
    (∀ w ∈ ([0xFFFFF28E, 0] : List Nat),
      let s := { State.reset.withFetchWord 32 w with agenda := [] };
      (match (s.fetchWord 0 (fetchLaunch.newPip [0])).2 with
        | some (.ok v) => v == w
        | _ => false) = true) ∧
    ((match (State.reset.fetchWord 0 (fetchLaunch.newPip [0])).2 with
        | some (.error _) => true
        | _ => false) = true) ∧
    (let p := { pip0 with pc := 0x1000 };
      let s := { onDie1 (loadOp []) with agenda := [] }.setPip 65536 p;
      s.eventDue = none ∧ s.nextIssue 256 = some 65536 ∧ (s.fetchWord 65536 p).2.isNone = true) ∧
    ((Instr.startGateOpen 0).inTurn = true ∧ (Instr.startGateOpen 0).usesSlots = false ∧ base.host.power ≠ .p4) ∧
    (let x : Seal := { pod := 0, point := 0, due := [] };
      let s := { (in0 { cluster0 with seals := [x] } pip0) with cycle := 1 };
      let i := Instr.engineAccess (.copy 0 0) 1 0;
      i.inTurn = true ∧ i.usesSlots = true ∧ base.eventDue = none ∧ s.eventDue.isSome = true) := by
  decide +kernel

theorem meets_EveryStepKeepsMemoryCanonical : State.reset.MemoryOk ∧ (mapped pip0).MemoryOk :=
  ⟨rfl, by unfold State.MemoryOk; decide +kernel⟩

end Sys2Proof.Tests
end

section
/-! SUPPORT. The integer instructions ADD to XOR of chapter 13 that write a result at issue, and the traps of ECALL and BRK. -/

namespace Sys2Proof.Machine

/-! ### Operations on all bits of their operands -/

/-- Settles O2: on patterns modulo 2^n each operation is the one on bit vectors. -/
theorem addSubMulWriteTheWrappedResult : Obligations.AddSubMulWriteTheWrappedResult :=
  ⟨writesOfTwo_of (fun _ _ _ _ _ _ _ => rfl) addPattern_eq, writesOfTwo_of (fun _ _ _ _ _ _ _ => rfl) subPattern_eq,
    writesOfTwo_of (fun _ _ _ _ _ _ _ => rfl) mulPattern_eq, writesOfImm_of (fun _ _ _ _ _ _ => rfl) addPattern_eq,
    writesOfImm_of (fun _ _ _ _ _ _ => rfl) mulPattern_eq, rfl, rfl⟩

/-- Settles O3: the bitwise operations on natural numbers are those on bit vectors. -/
theorem andOrXorWriteTheBitwiseResult : Obligations.AndOrXorWriteTheBitwiseResult :=
  ⟨writesOfTwo_of (fun _ _ _ _ _ _ _ => rfl) andPattern_eq, writesOfTwo_of (fun _ _ _ _ _ _ _ => rfl) orPattern_eq,
    writesOfTwo_of (fun _ _ _ _ _ _ _ => rfl) xorPattern_eq, writesOfImm_of (fun _ _ _ _ _ _ => rfl) andPattern_eq,
    writesOfImm_of (fun _ _ _ _ _ _ => rfl) orPattern_eq, writesOfImm_of (fun _ _ _ _ _ _ => rfl) xorPattern_eq,
    rfl, rfl, rfl, rfl⟩

/-- Settles O5: the high product, the extremes and the counts on patterns are those on bit vectors of 32 and of 64 bits. -/
theorem highProductsExtremesAndBitCountsAreExact : Obligations.HighProductsExtremesAndBitCountsAreExact :=
  ⟨⟨writesOfTwo_of (fun _ _ _ _ _ _ _ => rfl) mulhS_eq, writesOfTwo_of (fun _ _ _ _ _ _ _ => rfl) mulhU_eq,
    writesOfTwo_of (fun _ _ _ _ _ _ _ => rfl) minS_eq, writesOfTwo_of (fun _ _ _ _ _ _ _ => rfl) minU_eq,
    writesOfTwo_of (fun _ _ _ _ _ _ _ => rfl) maxS_eq, writesOfTwo_of (fun _ _ _ _ _ _ _ => rfl) maxU_eq⟩,
    writesOfOne_of (fun _ _ _ _ _ => rfl) clzN_eq, writesOfOne_of (fun _ _ _ _ _ => rfl) ctzN_eq,
    writesOfOne_of (fun _ _ _ _ _ => rfl) popN_eq⟩

/-! ### Fields as bit vectors -/

theorem sextWord_toNat (x : Word) (n : Nat) : sextWord x.toNat n = (x.setWidth n).signExtend 64 := by
  rw [sextWord_eq, BitVec.ofNat_toNat]

theorem word_fieldOf (x : Word) (lo n : Nat) : word (fieldOf x lo n) = (x.extractLsb' lo n).setWidth 64 := by
  apply BitVec.eq_of_toNat_eq
  simp [word, fieldOf, BitVec.extractLsb'_toNat, Nat.shiftRight_eq_div_pow]

theorem word_fieldOf_zero (x : Word) (n : Nat) : word (fieldOf x 0 n) = (x.setWidth n).setWidth 64 := by
  apply BitVec.eq_of_toNat_eq
  simp [word, fieldOf]

/-- A field that takes the low bits of a word (R352): the bits of the field are those of the word, the others stay. -/
theorem setField_toNat_bit {l pos : BitVec 6} (x y : Word) (h : pos.toNat + l.toNat + 1 ≤ 64) (j : Nat) :
    (setField x pos.toNat (l.toNat + 1) y.toNat).getLsbD j =
      if pos.toNat ≤ j ∧ j ≤ pos.toNat + l.toNat then y.getLsbD (j - pos.toNat) else x.getLsbD j := by
  rw [setField_bit x pos.toNat (l.toNat + 1) y.toNat j h, BitVec.testBit_toNat]
  simp only [← Nat.add_assoc, Nat.lt_succ_iff]

/-- A halfword that takes an immediate (R388): bit `j` of the word lies in halfword `j / 16`. -/
theorem setField_halfword_bit (x : Word) (h : BitVec 2) (i : BitVec 16) (j : Nat) :
    (setField x (16 * h.toNat) 16 i.toNat).getLsbD j =
      if j / 16 = h.toNat then i.getLsbD (j % 16) else x.getLsbD j := by
  have hh := h.isLt
  rw [setField_bit _ _ _ _ _ (by omega), BitVec.testBit_toNat]
  by_cases e : j / 16 = h.toNat
  · rw [if_pos (by omega), if_pos e, show j - 16 * h.toNat = j % 16 by omega]
  · rw [if_neg (by omega), if_neg e]

/-- The choice is made before the result is narrowed, or after: the same. -/
theorem sel_atWidth (w : Bit) (c : Bool) (x y : Word) :
    (if w = 1 then sextWord (if c then x else y).toNat 32 else if c then x else y) =
      atWidth w (fun _ u v => if c then u else v) x y := by
  cases c <;> simp only [atWidth, sextWord_toNat, if_true, if_false, Bool.false_eq_true]

/-! ### The instructions on fields, constants and choices -/

section
variable {s : State} {p : Pip} {w x y : Bit} {a b d : Reg}

/-- EXT keeps the low 8, 16 or 32 bits, sign-extended by the kinds below 3 and zero-extended by the others (R368). -/
theorem exec_ext_ready {k : Reg} (h : s.Ready (.ext x k a d) (usesA x a d) p) :
    exec (.ext x k a d) s = .next (s.effect (usesA x a d) p (fun q => q.setG d
      (if k.toNat < 3 then ((p.gv a).setWidth (8 * 2 ^ (k.toNat % 3))).signExtend 64
        else ((p.gv a).setWidth (8 * 2 ^ (k.toNat % 3))).setWidth 64))) := by
  change execExt x k a d s = _
  rw [execExt, runPure_ready h]
  simp only [sextWord_toNat, word_fieldOf_zero]

/-- The kinds of EXT are 0 to 5 (R368). -/
theorem ext_wf_kind {k : Reg} (h : (Instr.ext x k a d).wf = true) : k = 0 ∨ k = 1 ∨ k = 2 ∨ k = 3 ∨ k = 4 ∨ k = 5 := by
  have hk : k ≤ 5 := of_decide_eq_true h
  bv_omega

theorem exec_bfx_ready {l pos : BitVec 6} (h : s.Ready (.bfx x l pos a d) (usesA x a d) p) :
    exec (.bfx x l pos a d) s = .next (s.effect (usesA x a d) p (fun q => q.setG d
      (((p.gv a).extractLsb' pos.toNat (l.toNat + 1)).setWidth 64))) := by
  change execBfx x l pos a d s = _
  rw [execBfx, runPure_ready h]
  simp only [word_fieldOf]

theorem exec_li_ready {i : BitVec 20} (h : s.Ready (.li i d) { gd := [d] } p) :
    exec (.li i d) s = .next (s.effect { gd := [d] } p (fun q => q.setG d (i.signExtend 64))) := by
  change execLi i d s = _
  rw [execLi, runPure_ready h]

theorem exec_sel_ready {n : Reg4} (h : s.Ready (.sel w y x n b a d) (usesR x y a b d) p) :
    exec (.sel w y x n b a d) s = .next (s.effect (usesR x y a b d) p (fun q => q.setG d
      (atWidth w (fun _ u v => if (p.steer n.toNat).c then u else v) (p.gv a) (p.gv b)))) := by
  change execSel w y x n b a d s = _
  rw [execSel, runPure_ready h]
  simp only [sel_atWidth]

theorem exec_hash_ready (h : s.Ready (.hash w y x b a d) (usesR x y a b d) p) :
    exec (.hash w y x b a d) s = .next (s.effect (usesR x y a b d) p (fun q => q.setG d
      (let r := hash64 ((p.gv a).rotateLeft 17 ^^^ p.gv b)
       if w = 1 then (r.setWidth 32).signExtend 64 else r))) := by
  change execHash w y x b a d s = _
  rw [execHash, runPure_ready h]
  simp only [sextWord_toNat, rotl64]

theorem exec_bfi_ready {l pos : BitVec 6} (h : s.Ready (.bfi x l pos a d) { g := [a, d], gs := syncG x a, gd := [d] } p) :
    exec (.bfi x l pos a d) s = .next (s.effect { g := [a, d], gs := syncG x a, gd := [d] } p
      (fun q => q.setG d (setField (p.gv d) pos.toNat (l.toNat + 1) (p.gv a).toNat))) := by
  change execBfi x l pos a d s = _
  rw [execBfi, runPure_ready h]

theorem exec_lih_ready {n : BitVec 2} {i : BitVec 16} (h : s.Ready (.lih n i d) { g := [d], gd := [d] } p) :
    exec (.lih n i d) s = .next (s.effect { g := [d], gd := [d] } p
      (fun q => q.setG d (setField (p.gv d) (16 * n.toNat) 16 i.toNat))) := by
  change execLih n i d s = _
  rw [execLih, runPure_ready h]

end

/-- Settles O7: EXT by its six kinds; BFI and LIH by the bits of the field that they replace (`setField_bit`). -/
theorem fieldsConstantsAndChoicesWriteTheirResult : Obligations.FieldsConstantsAndChoicesWriteTheirResult := by
  unfold Obligations.FieldsConstantsAndChoicesWriteTheirResult
  refine ⟨⟨?ext, fun _ _ _ _ _ _ _ h => exec_bfx_ready h, fun _ _ _ _ h => exec_li_ready h,
    fun _ _ _ _ _ _ _ _ _ h => exec_sel_ready h, fun _ _ _ _ _ _ _ _ h => exec_hash_ready h⟩, ⟨?bfi, ?lih⟩, rfl⟩
  case ext =>
    intro x k a d s p h
    obtain rfl | rfl | rfl | rfl | rfl | rfl := ext_wf_kind h.wf <;> exact exec_ext_ready h
  case bfi =>
    intro x l pos a d s p h
    have fits : pos.toNat + l.toNat + 1 ≤ 64 := of_decide_eq_true h.wf
    exact ⟨_, exec_bfi_ready h, fun j _ => setField_toNat_bit (p.gv d) (p.gv a) fits j⟩
  case lih =>
    intro n i d s p h
    exact ⟨_, exec_lih_ready h, fun j _ => setField_halfword_bit (p.gv d) n i j⟩

/-! ### ECALL and BRK -/

/-- Taking a trap that has no bit in SR_IPEND leaves SR_IPEND as it was, with and without a handler (R315). -/
theorem takeTrap_ipend {s : State} {k : Nat} {p q : Pip} {c : Cause} {async : Bool} {val : Word} (hc : c.ipendBit = none)
    (hq : (s.takeTrap k p c async val).pip k = some q) : q.ipend = p.ipend := by
  unfold State.takeTrap at hq
  split at hq
  · rw [State.pip_report, State.pip_setPip, Option.some.injEq] at hq
    rw [← hq]
  · rw [State.pip_setPip, Option.some.injEq] at hq
    simp only [← hq, Pip.enterTrap, hc]

/-- The cause of an ECALL in the mode of the pip (R366). -/
def Pip.ecallCause (p : Pip) : Cause := if p.mode then .ecallS else .ecallU

theorem Pip.ecallCause_code (p : Pip) : p.ecallCause.code = if p.status.getLsbD 0 then 9 else 8 := by
  unfold Pip.ecallCause Pip.mode; split <;> rfl

theorem Pip.ecallCause_ipendBit (p : Pip) : p.ecallCause.ipendBit = none := by
  unfold Pip.ecallCause; split <;> rfl

theorem exec_ecall_ready {s : State} {p : Pip} (h : s.Ready .ecall {} p) :
    exec .ecall s = .next (s.takeTrap s.cur p p.ecallCause false 0) := by
  change execEcall s = _
  rw [execEcall, runEntry_ready h, Pip.ecallCause]

theorem exec_brk_ready {s : State} {p : Pip} (h : s.Ready .brk {} p) :
    exec .brk s = .next (s.takeTrap s.cur p .breakpoint false 0) := by
  change execBrk s = _
  rw [execBrk, runEntry_ready h]

theorem decode_of_ecall_opcode {w : Nat} (h : w % 128 = 0x78) : decode w = row w "ECALL" [(7, 25, 0)] .ecall := by
  unfold decode; rw [h]; rfl

theorem decode_of_brk_opcode {w : Nat} (h : w % 128 = 0x7A) : decode w = row w "BRK" [(7, 25, 0)] .brk := by
  unfold decode; rw [h]; rfl

/-- A fixed field that does not hold its value makes a word no instruction (R161 step 2). -/
theorem row_eq_fixedBit {w : Nat} {m : String} {fixed : List (Nat × Nat × Nat)} {i : Instr} {f : Nat × Nat × Nat}
    (hf : f ∈ fixed) (hw : w / 2 ^ f.1 % 2 ^ f.2.1 ≠ f.2.2) : row w m fixed i = .error (.fixedBit m) := by
  have hall : fixed.all (fun f => w / 2 ^ f.1 % 2 ^ f.2.1 == f.2.2) = false :=
    List.all_eq_false.2 ⟨f, hf, by simpa using hw⟩
  simp [row, hall]

/-- Settles O20: both are one trap entry with a synchronous cause, and a bit in [31:7] breaks their fixed field. -/
theorem systemCallsAndBreakpointsTakeTheirTrap : Obligations.SystemCallsAndBreakpointsTakeTheirTrap := by
  unfold Obligations.SystemCallsAndBreakpointsTakeTheirTrap
  refine ⟨fun s p => ⟨fun h => ?ecall, fun h => ?brk⟩, fun w hop hlow hhigh => ?words⟩
  case ecall =>
    have htrap := takeTrap_traps s s.cur p p.ecallCause false 0
    rw [p.ecallCause_code] at htrap
    exact ⟨_, exec_ecall_ready h, htrap, fun _ hq => takeTrap_ipend p.ecallCause_ipendBit hq⟩
  case brk =>
    exact ⟨_, exec_brk_ready h, takeTrap_traps s s.cur p .breakpoint false 0, fun _ hq => takeTrap_ipend rfl hq⟩
  case words =>
    have hfixed : w / 2 ^ 7 % 2 ^ 25 ≠ 0 := by omega
    have hmem : (7, 25, 0) ∈ [((7, 25, 0) : Nat × Nat × Nat)] := List.mem_singleton_self _
    obtain h | h := hop
    · exact ⟨_, (decode_of_ecall_opcode h).trans (row_eq_fixedBit hmem hfixed)⟩
    · exact ⟨_, (decode_of_brk_opcode h).trans (row_eq_fixedBit hmem hfixed)⟩

end Sys2Proof.Machine
end

section
/-! SUPPORT. The integer division of chapters 14 and 15: DIV, DIV.z, REM and REM.z, with their corners. -/

namespace Sys2Proof.Machine

/-! ### Quotients and remainders -/

/-- The quotient 2^(n−1) has no pattern and wraps to −2^(n−1) (R364). -/
theorem intMin_sdiv_allOnes (n : Nat) : (BitVec.intMin n).sdiv (BitVec.allOnes n) = BitVec.intMin n := by
  rw [← BitVec.neg_one_eq_allOnes, BitVec.intMin_sdiv_neg_one]

/-- The wrapped quotient times −1 is the dividend again, which leaves no remainder (R417). -/
theorem intMin_srem_allOnes (n : Nat) : (BitVec.intMin n).srem (BitVec.allOnes n) = 0 := by
  have product : (BitVec.intMin n).sdiv (BitVec.allOnes n) * BitVec.allOnes n = BitVec.intMin n := by
    rw [intMin_sdiv_allOnes, ← BitVec.neg_one_eq_allOnes, BitVec.mul_neg, BitVec.mul_one, BitVec.neg_intMin]
  have h := sdiv_mul_add_srem (BitVec.intMin n) (BitVec.allOnes n)
  rw [product] at h
  exact BitVec.add_right_eq_self.1 h

/-- With a zero divisor the product is zero whatever the quotient `z`, so the remainder is the dividend (R417). -/
theorem dividend_eq_of_mul_add {n : Nat} {u v q r : BitVec n} (z : BitVec n) (h : q * v + r = u) :
    u = (if v = 0 then z else q) * v + (if v = 0 then u else r) := by
  by_cases hv : v = 0
  · rw [if_pos hv, if_pos hv, hv, BitVec.ofNat_eq_ofNat, BitVec.mul_zero, BitVec.zero_add]
  · rw [if_neg hv, if_neg hv, h]

/-- Settles O6: on patterns each operation is the one on bit vectors, whose quotient and remainder give the dividend back. -/
theorem divisionTruncatesWithItsCorners : Obligations.DivisionTruncatesWithItsCorners := by
  unfold Obligations.DivisionTruncatesWithItsCorners
  refine ⟨computesOfTwo_of (fun _ _ _ _ _ _ _ => rfl) divS_eq, computesOfTwo_of (fun _ _ _ _ _ _ _ => rfl) divU_eq,
    computesOfTwo_of (fun _ _ _ _ _ _ _ => rfl) remS_eq, computesOfTwo_of (fun _ _ _ _ _ _ _ => rfl) remU_eq,
    rfl, rfl, fun n u v => ⟨?overflow, ?signed, ?unsigned⟩⟩
  case overflow =>
    rintro rfl rfl _
    exact ⟨intMin_sdiv_allOnes n, intMin_srem_allOnes n⟩
  case signed => exact dividend_eq_of_mul_add _ (sdiv_mul_add_srem u v)
  case unsigned => exact dividend_eq_of_mul_add _ (udiv_mul_add_umod u v)

end Sys2Proof.Machine
end

section
/-! SUPPORT. The shifts and rotations of chapter 16: SHL, SHR, SRA and ROT, with their immediate forms. -/

namespace Sys2Proof.Machine

/-- Settles O4: on patterns modulo 2^n each operation is the shift or the rotation of bit vectors, for both forms alike. -/
theorem shiftsTakeTheAmountModuloTheWidth : Obligations.ShiftsTakeTheAmountModuloTheWidth :=
  ⟨writesOfTwo_of (fun _ _ _ _ _ _ _ => rfl) shlN_eq, writesOfTwo_of (fun _ _ _ _ _ _ _ => rfl) shrN_eq,
    writesOfTwo_of (fun _ _ _ _ _ _ _ => rfl) sraN_eq, writesOfTwo_of (fun _ _ _ _ _ _ _ => rfl) rotN_eq,
    writesOfImm_of (fun _ _ _ _ _ _ => rfl) shlN_eq, writesOfImm_of (fun _ _ _ _ _ _ => rfl) shrN_eq,
    writesOfImm_of (fun _ _ _ _ _ _ => rfl) sraN_eq, writesOfImm_of (fun _ _ _ _ _ _ => rfl) rotN_eq,
    rfl, rfl⟩

end Sys2Proof.Machine
end
